-- ==== Sys2Proof/Word.lean ====
section
/-! DEFINITION. The word types of the part and the byte order of R8. -/

namespace Sys2Proof

/-- A byte. -/
abbrev Byte := BitVec 8

/-- A 64-bit scalar register or system register. -/
abbrev Word := BitVec 64

/-- One lane of a lane register. -/
abbrev Lane := BitVec 32

end Sys2Proof
end

