-- ==== Sys2Proof/Config.lean ====
section
/-! DEFINITION. What one implementation fixes without publishing it, and the free values.
Each free value is an `opaque` constant applied to what it may depend on: the step counter `tick` where two runs
may differ, the operands where R428 says that every part gives the same result. No proof can learn a value of one. -/

namespace Sys2Proof.Config

/-- A free choice between two outcomes, made at step `tick` for the thing numbered `what`, part `part`
(R63, R148, R203, R226, R241, R247, R285). -/
opaque choice (tick what part : Nat) : Bool

/-- A byte whose content no rule states, read at step `tick` from place `a` (R429). -/
opaque freeByte (tick a : Nat) : Byte

/-- The arithmetic clocks that pass in one step (R303, R367): free. -/
opaque clockStep (tick : Nat) : Nat

/-- The nanoseconds that pass in one step (R303, R367), by which TIME goes on once it has been set (R385): free. -/
opaque timeStep (tick : Nat) : Nat

/-- How many instructions a fibre speculates past a FENCE that issues at step `tick`; at most 64 of them count (R311). -/
opaque specLimit (tick : Nat) : Nat

/-- How far an unpredicted counter of a source advances in one step (R271, R378, R428). -/
opaque unpredicted (tick counter : Nat) : Nat

/-- The part's candidate for one of the functions of R158 (numbered by its lane opcode) of an operand in a
format of `w` bits; used only where it lies within the bound of R158. -/
opaque function (opcode w a : Nat) : Nat

/-- The cluster barrier, replacement and other unpublished orders show nowhere; the order in which a
controller applies unordered elements is free (R294). -/
opaque order (tick : Nat) : Nat

/-- The SHA-256 digest of the signer's modulus in the fuses (R372). -/
opaque fusedKeyDigest : List Byte

/-- The minimum version in the fuses (R372). -/
opaque fusedMinVersion : Nat

/-- The fuse state that ATTEST digests, beside the units kept out (R375). -/
opaque fuseState : List Byte

/-- The modulus of the identity key below its highest bit, which a 3,072-bit modulus has set (R374). -/
opaque identityModulus : BitVec 3071

/-- The private exponent of the identity key (R374). -/
opaque identityExponent : BitVec 3072

/-- The salt of a signature made at step `tick` (R375). -/
opaque signatureSalt (tick : Nat) : BitVec 256

/-- The modulus of the key-transport key of the `start`-th start below its highest bit (R364). -/
opaque transportModulus (start : Nat) : BitVec 3071

/-- The private exponent of that key. -/
opaque transportExponent (start : Nat) : BitVec 3072

/-- The memory key generated for the `serial`-th partition created (R374): 32 bytes. -/
opaque memoryKey (serial : Nat) : List Byte

/-- The metadata and initialisation vector under which a sector of an encrypted page is stored (R298 gives the
cipher and leaves the vector unpublished): the ciphertext a reader of the stored form sees. -/
opaque storedCipher (serial sector : Nat) (plain : List Byte) : List Byte

/-- Whether every store of a unit passes the test that firmware makes before it returns the unit (R379). -/
opaque unitTest (tick unit : Nat) : Bool

/-- The layout and content of the crew header and implementation state that a seal covers (R29, R321, R428). -/
opaque headerByte (tick offset : Nat) : Byte

/-- The port by which a packet leaves at step `tick` (R408); the spec gives no routing rule. -/
opaque exitPort (tick : Nat) : Nat

/-- The fabric identity of this package (R382). -/
opaque identity : Nat

end Sys2Proof.Config
end

