-- ==== Sys2Proof/Syntax.lean ====
section
/-! DEFINITION. The syntax of Falbagil: one constructor of `Instr` for each row of the opcode table.
The 207 scalar instructions carry the S bit (`sw`, R43) and the fields of their format (R44, R45);
the 103 lane instructions carry the fields of the lane word (R52) with its operands decoded by kind (R53, R56);
the operations and events of the part carry what they act on, or what arrives from outside the package. -/

namespace Sys2Proof

/-- The subcauses of ILLEGAL_INSTR (R60), in the order of their numbers. -/
inductive Subcause where
  | unassigned | reserved | kind | range | modifier | header | sweep
  deriving DecidableEq, Repr

/-- The number R60 gives a subcause. -/
def Subcause.code : Subcause → Nat
  | .unassigned => 1
  | .reserved => 2
  | .kind => 3
  | .range => 4
  | .modifier => 5
  | .header => 6
  | .sweep => 7

/-- An operand field of a lane word (R53, R54, R56). -/
inductive Operand where
  /-- The field is not used by the instruction; it is entirely zero. -/
  | unused
  /-- Kind 00: `v`n, its last-read mark and its selector. -/
  | reg (n : BitVec 8) (last : Bool) (sel : BitVec 4)
  /-- Kind 01: bits [31:0] of `s`n, in every lane. -/
  | scalar (n : BitVec 6)
  /-- Kind 10: a scratchpad sweep from `s`base with a signed step in 16-byte units. -/
  | sweep (base : BitVec 6) (step : BitVec 7)
  /-- Kind 11: a signed 13-bit immediate. -/
  | imm (x : BitVec 13)
  /-- A predicate operand. -/
  | pred (p : BitVec 3)
  deriving DecidableEq, Repr

/-- The fields of a lane word beside its opcode (R52). -/
structure LaneWord where
  sw : Bool
  pn : Bool
  pi : BitVec 3
  count : BitVec 12
  sat : Bool
  rm : BitVec 3
  ty : BitVec 3
  d : Operand
  a : Operand
  b : Operand
  c : Operand
  deriving DecidableEq, Repr

/-- A host access over CXL.mem or CXL.cache (R304): a host physical address of device memory
(`device`, R354) or of host memory, and the bytes written, or the length read. -/
structure HostAccess where
  device : Bool
  addr : Nat
  write : Bool
  data : List Byte
  len : Nat
  deriving DecidableEq, Repr

/-- How memory training and the self-test of the stacks end (R369, R371). -/
inductive TrainResult where
  | passed | trainingFailed | selfTestFailed
  deriving DecidableEq, Repr

/-- The kind and operation of a request packet (R407). -/
inductive PacketKind where
  | store
  | copy
  | reduce (op : BitVec 3) (fmt : BitVec 4) (bop : BitVec 2)
  | atomic (op : BitVec 3) (w64 : Bool)
  deriving DecidableEq, Repr

/-- A request packet of the fabric (R407). `serial` is the sender's own name for the operation,
which replies carry back. -/
structure Packet where
  kind : PacketKind
  serial : Nat
  tenant : BitVec 12
  crossing : BitVec 24
  pattern : List (BitVec 16)
  source : BitVec 16
  contributor : BitVec 12
  chunk : BitVec 24
  gtag : BitVec 16
  stamp : BitVec 32
  addr : Word
  lw : Bool
  loff : BitVec 32
  void : Bool
  data : List Byte
  operand : Word
  expected : Word
  deriving DecidableEq, Repr

/-- A failure reply (R399): the operation, the status code of R395, the reporting package's linear
index and the chunk, and whether a switch made it, having found no route (R398). -/
structure Reply where
  serial : Nat
  status : BitVec 8
  target : BitVec 16
  chunk : BitVec 24
  bySwitch : Bool
  deriving DecidableEq, Repr

/-- A JOINED control message (R382) with the fabric identity of the package that sent it. -/
structure Joined where
  crossing : Nat
  axes : Nat
  extents : List Nat
  coord : List Nat
  identity : Nat
  deriving DecidableEq, Repr

/-- A routing header (R417, R419): one token of a batch offered to one expert in round 1 or 2. -/
structure RoutingHeader where
  serial : Nat
  tenant : BitVec 12
  crossing : BitVec 24
  stamp : BitVec 32
  session : BitVec 16
  source : BitVec 16
  token : BitVec 32
  expert : BitVec 12
  batch : Nat
  second : Bool
  deriving DecidableEq, Repr

/-- What a destination decides of a header (R419), or how it was lost (R420). -/
inductive Decision where
  | accepted (batch slot : Nat)
  | overflow (batch : Nat)
  | dropped (batch : Nat)
  deriving DecidableEq, Repr

/-- A routing decision on its way to the sender's engine (R406, R420). -/
structure RoutingDecision where
  serial : Nat
  decision : Decision
  deriving DecidableEq, Repr

/-- One piece of a token's payload (R417). -/
structure RoutingPayload where
  serial : Nat
  source : BitVec 16
  tenant : BitVec 12
  crossing : BitVec 24
  stamp : BitVec 32
  session : BitVec 16
  expert : BitVec 12
  batch : Nat
  slot : Nat
  offset : Nat
  void : Bool
  data : List Byte
  len : Nat
  deriving DecidableEq, Repr

/-- The lane opcodes of R57, one for each lane row of the table. -/
inductive LaneOp where
  | iadd
  | isub
  | imul
  | imulh
  | imad
  | imin
  | imax
  | iabs
  | ineg
  | iand
  | ior
  | ixor
  | iandn
  | ishl
  | ishr
  | iclz
  | ipopc
  | ibfe
  | ibfi
  | imov
  | lnop
  | fadd
  | fsub
  | fmul
  | ffma
  | fdiv
  | fmin
  | fmax
  | fabs
  | fneg
  | frnd
  | fsqrt
  | frcp
  | frsq
  | fexp2
  | flog2
  | fsin
  | fcos
  | ftanh
  | icmpeq
  | icmpne
  | icmplt
  | icmple
  | icmpgt
  | icmpge
  | fcmpeq
  | fcmpne
  | fcmplt
  | fcmple
  | fcmpgt
  | fcmpge
  | fcmpun
  | fcmpor
  | pand
  | por
  | pxor
  | pandn
  | pnot
  | emand
  | emset
  | emget
  | laneSel
  | cvt
  | dot4
  | dot8
  | dot2
  | scale
  | seed
  | ldg
  | stg
  | lds
  | sts
  | gaadd
  | gamin
  | gamax
  | gaand
  | gaor
  | gaxor
  | gaswap
  | gacas
  | gafadd
  | laadd
  | lamin
  | lamax
  | laand
  | laor
  | laxor
  | laswap
  | lacas
  | lafadd
  | shfl
  | shflu
  | shfld
  | shflx
  | ballot
  | vany
  | vall
  | scanadd
  | scanmin
  | scanmax
  | redadd
  | redmin
  | redmax
  | topk
  deriving DecidableEq, Repr

/-- One constructor for each row of spec/opcode_table.json. -/
inductive Instr where
  /-- ADD (R119): Writes the 64-bit sum of two scalar registers to D, modulo 2^64; the all-zero word is also NOP. -/
  | add (sw : Bool) (d : BitVec 6) (a : BitVec 6) (b : BitVec 6)
  /-- SUB (R119): Writes the difference of two scalar registers to D, modulo 2^64. -/
  | sub (sw : Bool) (d : BitVec 6) (a : BitVec 6) (b : BitVec 6)
  /-- MUL (R119): Writes the low 64 bits of the product to D. -/
  | mul (sw : Bool) (d : BitVec 6) (a : BitVec 6) (b : BitVec 6)
  /-- MULH (R119): Writes the high 64 bits of the signed 128-bit product to D. -/
  | mulh (sw : Bool) (d : BitVec 6) (a : BitVec 6) (b : BitVec 6)
  /-- MULHN (R119): Writes the high 64 bits of the unsigned 128-bit product to D. -/
  | mulhn (sw : Bool) (d : BitVec 6) (a : BitVec 6) (b : BitVec 6)
  /-- DIV (R120): Writes the signed quotient, rounded toward zero, with defined results for division by zero and overflow. -/
  | div (sw : Bool) (d : BitVec 6) (a : BitVec 6) (b : BitVec 6)
  /-- DIVN (R120): Writes the unsigned quotient; division by zero gives all ones. -/
  | divn (sw : Bool) (d : BitVec 6) (a : BitVec 6) (b : BitVec 6)
  /-- REM (R120): Writes the signed remainder with the sign of a; division by zero gives a. -/
  | rem (sw : Bool) (d : BitVec 6) (a : BitVec 6) (b : BitVec 6)
  /-- REMN (R120): Writes the unsigned remainder; division by zero gives a. -/
  | remn (sw : Bool) (d : BitVec 6) (a : BitVec 6) (b : BitVec 6)
  /-- MIN (R119): Writes the signed smaller of two scalar registers to D. -/
  | min (sw : Bool) (d : BitVec 6) (a : BitVec 6) (b : BitVec 6)
  /-- MAX (R119): Writes the signed larger of two scalar registers to D. -/
  | max (sw : Bool) (d : BitVec 6) (a : BitVec 6) (b : BitVec 6)
  /-- MINN (R119): Writes the unsigned smaller of two scalar registers to D. -/
  | minn (sw : Bool) (d : BitVec 6) (a : BitVec 6) (b : BitVec 6)
  /-- MAXN (R119): Writes the unsigned larger of two scalar registers to D. -/
  | maxn (sw : Bool) (d : BitVec 6) (a : BitVec 6) (b : BitVec 6)
  /-- AND (R121): Writes the bitwise AND of two scalar registers to D. -/
  | and (sw : Bool) (d : BitVec 6) (a : BitVec 6) (b : BitVec 6)
  /-- OR (R121): Writes the bitwise OR of two scalar registers to D. -/
  | or (sw : Bool) (d : BitVec 6) (a : BitVec 6) (b : BitVec 6)
  /-- XOR (R121): Writes the bitwise XOR of two scalar registers to D. -/
  | xor (sw : Bool) (d : BitVec 6) (a : BitVec 6) (b : BitVec 6)
  /-- ANDN (R121): Writes a AND NOT b to D. -/
  | andn (sw : Bool) (d : BitVec 6) (a : BitVec 6) (b : BitVec 6)
  /-- SHL (R121): Shifts a left by b[5:0] and writes the low 64 bits to D. -/
  | shl (sw : Bool) (d : BitVec 6) (a : BitVec 6) (b : BitVec 6)
  /-- SHR (R121): Shifts a right by b[5:0] with zeros shifted in. -/
  | shr (sw : Bool) (d : BitVec 6) (a : BitVec 6) (b : BitVec 6)
  /-- SAR (R121): Shifts a right by b[5:0] with copies of bit 63 shifted in. -/
  | sar (sw : Bool) (d : BitVec 6) (a : BitVec 6) (b : BitVec 6)
  /-- ROTR (R121): Rotates a right by b[5:0]. -/
  | rotr (sw : Bool) (d : BitVec 6) (a : BitVec 6) (b : BitVec 6)
  /-- CLZ (R121): Writes the number of leading zero bits of a, 64 for zero. -/
  | clz (sw : Bool) (d : BitVec 6) (a : BitVec 6)
  /-- CTZ (R121): Writes the number of trailing zero bits of a, 64 for zero. -/
  | ctz (sw : Bool) (d : BitVec 6) (a : BitVec 6)
  /-- POPC (R121): Writes the number of one bits of a. -/
  | popc (sw : Bool) (d : BitVec 6) (a : BitVec 6)
  /-- BREV (R121): Writes a with its bit order reversed. -/
  | brev (sw : Bool) (d : BitVec 6) (a : BitVec 6)
  /-- SEQ (R122): Writes 1 to D if a equals b, else 0. -/
  | seq (sw : Bool) (d : BitVec 6) (a : BitVec 6) (b : BitVec 6)
  /-- SNE (R122): Writes 1 to D if a differs from b, else 0. -/
  | sne (sw : Bool) (d : BitVec 6) (a : BitVec 6) (b : BitVec 6)
  /-- SLT (R122): Writes 1 to D if a is less than b, signed. -/
  | slt (sw : Bool) (d : BitVec 6) (a : BitVec 6) (b : BitVec 6)
  /-- SLE (R122): Writes 1 to D if a is at most b, signed. -/
  | sle (sw : Bool) (d : BitVec 6) (a : BitVec 6) (b : BitVec 6)
  /-- SLTN (R122): Writes 1 to D if a is less than b, unsigned. -/
  | sltn (sw : Bool) (d : BitVec 6) (a : BitVec 6) (b : BitVec 6)
  /-- SLEN (R122): Writes 1 to D if a is at most b, unsigned. -/
  | slen (sw : Bool) (d : BitVec 6) (a : BitVec 6) (b : BitVec 6)
  /-- SEL (R123): Writes sA to D if the condition register is non-zero, else sB. -/
  | sel (sw : Bool) (d : BitVec 6) (a : BitVec 6) (b : BitVec 6) (c : BitVec 6)
  /-- ADDSH (R124): Writes sA plus sB shifted left by 0 to 4; shifts 5 to 7 trap RANGE. -/
  | addsh (sw : Bool) (d : BitVec 6) (a : BitVec 6) (b : BitVec 6) (h : BitVec 3)
  /-- ADDI (R125): Adds the sign-extended immediate to D. -/
  | addi (sw : Bool) (d : BitVec 6) (i : BitVec 16)
  /-- ANDI (R125): ANDs D with the zero-extended immediate. -/
  | andi (sw : Bool) (d : BitVec 6) (i : BitVec 16)
  /-- ORI (R125): ORs D with the zero-extended immediate. -/
  | ori (sw : Bool) (d : BitVec 6) (i : BitVec 16)
  /-- XORI (R125): XORs D with the zero-extended immediate. -/
  | xori (sw : Bool) (d : BitVec 6) (i : BitVec 16)
  /-- SHLI (R125): Shifts D left by IMM16[5:0]. -/
  | shli (sw : Bool) (d : BitVec 6) (i : BitVec 6)
  /-- SHRI (R125): Shifts D right by IMM16[5:0] with zeros shifted in. -/
  | shri (sw : Bool) (d : BitVec 6) (i : BitVec 6)
  /-- SARI (R125): Shifts D right by IMM16[5:0] with the sign shifted in. -/
  | sari (sw : Bool) (d : BitVec 6) (i : BitVec 6)
  /-- MULI (R125): Multiplies D by the sign-extended immediate, low 64 bits. -/
  | muli (sw : Bool) (d : BitVec 6) (i : BitVec 16)
  /-- MOVI (R126): Writes the sign-extended immediate to D. -/
  | movi (sw : Bool) (d : BitVec 6) (i : BitVec 16)
  /-- MOVK (R126): Writes IMM16 into 16-bit position k of D, keeping the other bits. -/
  | movk (sw : Bool) (d : BitVec 6) (k : BitVec 2) (i : BitVec 16)
  /-- SEQI (R127): Writes 1 to D if D equals the sign-extended immediate. -/
  | seqi (sw : Bool) (d : BitVec 6) (i : BitVec 16)
  /-- SNEI (R127): Writes 1 to D if D differs from the immediate. -/
  | snei (sw : Bool) (d : BitVec 6) (i : BitVec 16)
  /-- SLTI (R127): Writes 1 to D if D is less than the immediate, signed. -/
  | slti (sw : Bool) (d : BitVec 6) (i : BitVec 16)
  /-- SLEI (R127): Writes 1 to D if D is at most the immediate, signed. -/
  | slei (sw : Bool) (d : BitVec 6) (i : BitVec 16)
  /-- SLTNI (R127): Writes 1 to D if D is less than the sign-extended immediate, unsigned. -/
  | sltni (sw : Bool) (d : BitVec 6) (i : BitVec 16)
  /-- SLENI (R127): Writes 1 to D if D is at most the sign-extended immediate, unsigned. -/
  | sleni (sw : Bool) (d : BitVec 6) (i : BitVec 16)
  /-- BR (R128): Branches to the PC-relative target. -/
  | br (sw : Bool) (o : BitVec 20)
  /-- CALL (R128): Writes the return address to lr and branches to the target. -/
  | call (sw : Bool) (o : BitVec 20)
  /-- BZ (R128): Branches if scalar register sc is zero. -/
  | bz (sw : Bool) (c : BitVec 5) (o : BitVec 20)
  /-- BNZ (R128): Branches if scalar register sc is non-zero. -/
  | bnz (sw : Bool) (c : BitVec 5) (o : BitVec 20)
  /-- LOOP (R129): Decrements sc and branches while the new value is non-zero. -/
  | loop (sw : Bool) (c : BitVec 5) (o : BitVec 20)
  /-- BEMZ (R130): Waits for earlier clauses, then branches if em is zero. -/
  | bemz (sw : Bool) (o : BitVec 20)
  /-- BEMNZ (R130): Waits for earlier clauses, then branches if em is non-zero. -/
  | bemnz (sw : Bool) (o : BitVec 20)
  /-- JR (R131): Jumps to the address in sA, trapping PC_ALIGN if misaligned. -/
  | jr (sw : Bool) (a : BitVec 6)
  /-- CALLR (R131): Calls the address in sA, writing the return address to lr. -/
  | callr (sw : Bool) (a : BitVec 6)
  /-- CLS (R132): Appends LCBASE + K20 x 16 to the clause queue, stalling while it is full. -/
  | cls (sw : Bool) (k : BitVec 20)
  /-- FWAIT (R132): Waits until every flag named in the mask has count 0. -/
  | fwait (sw : Bool) (m : BitVec 12)
  /-- CLSWAIT (R132): Appends a clause as CLS, then waits until that entry leaves the queue. -/
  | clswait (sw : Bool) (k : BitVec 20)
  /-- LDB (R135): Loads a sign-extended byte from memory into D. -/
  | ldb (sw : Bool) (d : BitVec 6) (b : BitVec 6) (o : BitVec 10)
  /-- LDH (R135): Loads a sign-extended halfword from memory into D. -/
  | ldh (sw : Bool) (d : BitVec 6) (b : BitVec 6) (o : BitVec 10)
  /-- LDW (R135): Loads a sign-extended word from memory into D. -/
  | ldw (sw : Bool) (d : BitVec 6) (b : BitVec 6) (o : BitVec 10)
  /-- LDD (R135): Loads 64 bits from memory into D. -/
  | ldd (sw : Bool) (d : BitVec 6) (b : BitVec 6) (o : BitVec 10)
  /-- LDBN (R135): Loads a zero-extended byte from memory into D. -/
  | ldbn (sw : Bool) (d : BitVec 6) (b : BitVec 6) (o : BitVec 10)
  /-- LDHN (R135): Loads a zero-extended halfword from memory into D. -/
  | ldhn (sw : Bool) (d : BitVec 6) (b : BitVec 6) (o : BitVec 10)
  /-- LDWN (R135): Loads a zero-extended word from memory into D. -/
  | ldwn (sw : Bool) (d : BitVec 6) (b : BitVec 6) (o : BitVec 10)
  /-- STB (R134): Stores the low byte of sD to memory. -/
  | stb (sw : Bool) (d : BitVec 6) (b : BitVec 6) (o : BitVec 10)
  /-- STH (R134): Stores the low halfword of sD to memory. -/
  | sth (sw : Bool) (d : BitVec 6) (b : BitVec 6) (o : BitVec 10)
  /-- STW (R134): Stores the low word of sD to memory. -/
  | stw (sw : Bool) (d : BitVec 6) (b : BitVec 6) (o : BitVec 10)
  /-- STD (R134): Stores sD to memory. -/
  | std (sw : Bool) (d : BitVec 6) (b : BitVec 6) (o : BitVec 10)
  /-- SLDB (R138): Loads a sign-extended byte from scratchpad into D. -/
  | sldb (sw : Bool) (d : BitVec 6) (b : BitVec 6) (o : BitVec 10)
  /-- SLDH (R138): Loads a sign-extended halfword from scratchpad into D. -/
  | sldh (sw : Bool) (d : BitVec 6) (b : BitVec 6) (o : BitVec 10)
  /-- SLDW (R138): Loads a sign-extended word from scratchpad into D. -/
  | sldw (sw : Bool) (d : BitVec 6) (b : BitVec 6) (o : BitVec 10)
  /-- SLDD (R138): Loads 64 bits from scratchpad into D. -/
  | sldd (sw : Bool) (d : BitVec 6) (b : BitVec 6) (o : BitVec 10)
  /-- SLDBN (R138): Loads a zero-extended byte from scratchpad into D. -/
  | sldbn (sw : Bool) (d : BitVec 6) (b : BitVec 6) (o : BitVec 10)
  /-- SLDHN (R138): Loads a zero-extended halfword from scratchpad into D. -/
  | sldhn (sw : Bool) (d : BitVec 6) (b : BitVec 6) (o : BitVec 10)
  /-- SLDWN (R138): Loads a zero-extended word from scratchpad into D. -/
  | sldwn (sw : Bool) (d : BitVec 6) (b : BitVec 6) (o : BitVec 10)
  /-- SSTB (R138): Stores the low byte of sD to scratchpad. -/
  | sstb (sw : Bool) (d : BitVec 6) (b : BitVec 6) (o : BitVec 10)
  /-- SSTH (R138): Stores the low halfword of sD to scratchpad. -/
  | ssth (sw : Bool) (d : BitVec 6) (b : BitVec 6) (o : BitVec 10)
  /-- SSTW (R138): Stores the low word of sD to scratchpad. -/
  | sstw (sw : Bool) (d : BitVec 6) (b : BitVec 6) (o : BitVec 10)
  /-- SSTD (R138): Stores sD to scratchpad. -/
  | sstd (sw : Bool) (d : BitVec 6) (b : BitVec 6) (o : BitVec 10)
  /-- AADDW (R139): 32-bit memory atomic add; D receives the old value. -/
  | aaddw (sw : Bool) (d : BitVec 6) (a : BitVec 6) (b : BitVec 6)
  /-- ASWAPW (R139): 32-bit memory atomic swap. -/
  | aswapw (sw : Bool) (d : BitVec 6) (a : BitVec 6) (b : BitVec 6)
  /-- ACASW (R139): 32-bit memory compare-and-swap with the expected value in D. -/
  | acasw (sw : Bool) (d : BitVec 6) (a : BitVec 6) (b : BitVec 6)
  /-- AMINW (R139): 32-bit memory atomic signed minimum. -/
  | aminw (sw : Bool) (d : BitVec 6) (a : BitVec 6) (b : BitVec 6)
  /-- AMAXW (R139): 32-bit memory atomic signed maximum. -/
  | amaxw (sw : Bool) (d : BitVec 6) (a : BitVec 6) (b : BitVec 6)
  /-- AMINNW (R139): 32-bit memory atomic unsigned minimum. -/
  | aminnw (sw : Bool) (d : BitVec 6) (a : BitVec 6) (b : BitVec 6)
  /-- AMAXNW (R139): 32-bit memory atomic unsigned maximum. -/
  | amaxnw (sw : Bool) (d : BitVec 6) (a : BitVec 6) (b : BitVec 6)
  /-- AANDW (R139): 32-bit memory atomic AND. -/
  | aandw (sw : Bool) (d : BitVec 6) (a : BitVec 6) (b : BitVec 6)
  /-- AORW (R139): 32-bit memory atomic OR. -/
  | aorw (sw : Bool) (d : BitVec 6) (a : BitVec 6) (b : BitVec 6)
  /-- AXORW (R139): 32-bit memory atomic XOR. -/
  | axorw (sw : Bool) (d : BitVec 6) (a : BitVec 6) (b : BitVec 6)
  /-- AADDD (R139): 64-bit memory atomic add. -/
  | aaddd (sw : Bool) (d : BitVec 6) (a : BitVec 6) (b : BitVec 6)
  /-- ASWAPD (R139): 64-bit memory atomic swap. -/
  | aswapd (sw : Bool) (d : BitVec 6) (a : BitVec 6) (b : BitVec 6)
  /-- ACASD (R139): 64-bit memory compare-and-swap. -/
  | acasd (sw : Bool) (d : BitVec 6) (a : BitVec 6) (b : BitVec 6)
  /-- AMIND (R139): 64-bit memory atomic signed minimum. -/
  | amind (sw : Bool) (d : BitVec 6) (a : BitVec 6) (b : BitVec 6)
  /-- AMAXD (R139): 64-bit memory atomic signed maximum. -/
  | amaxd (sw : Bool) (d : BitVec 6) (a : BitVec 6) (b : BitVec 6)
  /-- AMINND (R139): 64-bit memory atomic unsigned minimum. -/
  | aminnd (sw : Bool) (d : BitVec 6) (a : BitVec 6) (b : BitVec 6)
  /-- AMAXND (R139): 64-bit memory atomic unsigned maximum. -/
  | amaxnd (sw : Bool) (d : BitVec 6) (a : BitVec 6) (b : BitVec 6)
  /-- AANDD (R139): 64-bit memory atomic AND. -/
  | aandd (sw : Bool) (d : BitVec 6) (a : BitVec 6) (b : BitVec 6)
  /-- AORD (R139): 64-bit memory atomic OR. -/
  | aord (sw : Bool) (d : BitVec 6) (a : BitVec 6) (b : BitVec 6)
  /-- AXORD (R139): 64-bit memory atomic XOR. -/
  | axord (sw : Bool) (d : BitVec 6) (a : BitVec 6) (b : BitVec 6)
  /-- SAADDW (R139): 32-bit scratchpad atomic add. -/
  | saaddw (sw : Bool) (d : BitVec 6) (a : BitVec 6) (b : BitVec 6)
  /-- SASWAPW (R139): 32-bit scratchpad atomic swap. -/
  | saswapw (sw : Bool) (d : BitVec 6) (a : BitVec 6) (b : BitVec 6)
  /-- SACASW (R139): 32-bit scratchpad compare-and-swap. -/
  | sacasw (sw : Bool) (d : BitVec 6) (a : BitVec 6) (b : BitVec 6)
  /-- SAMINW (R139): 32-bit scratchpad atomic signed minimum. -/
  | saminw (sw : Bool) (d : BitVec 6) (a : BitVec 6) (b : BitVec 6)
  /-- SAMAXW (R139): 32-bit scratchpad atomic signed maximum. -/
  | samaxw (sw : Bool) (d : BitVec 6) (a : BitVec 6) (b : BitVec 6)
  /-- SAMINNW (R139): 32-bit scratchpad atomic unsigned minimum. -/
  | saminnw (sw : Bool) (d : BitVec 6) (a : BitVec 6) (b : BitVec 6)
  /-- SAMAXNW (R139): 32-bit scratchpad atomic unsigned maximum. -/
  | samaxnw (sw : Bool) (d : BitVec 6) (a : BitVec 6) (b : BitVec 6)
  /-- SAANDW (R139): 32-bit scratchpad atomic AND. -/
  | saandw (sw : Bool) (d : BitVec 6) (a : BitVec 6) (b : BitVec 6)
  /-- SAORW (R139): 32-bit scratchpad atomic OR. -/
  | saorw (sw : Bool) (d : BitVec 6) (a : BitVec 6) (b : BitVec 6)
  /-- SAXORW (R139): 32-bit scratchpad atomic XOR. -/
  | saxorw (sw : Bool) (d : BitVec 6) (a : BitVec 6) (b : BitVec 6)
  /-- SAADDD (R139): 64-bit scratchpad atomic add. -/
  | saaddd (sw : Bool) (d : BitVec 6) (a : BitVec 6) (b : BitVec 6)
  /-- SASWAPD (R139): 64-bit scratchpad atomic swap. -/
  | saswapd (sw : Bool) (d : BitVec 6) (a : BitVec 6) (b : BitVec 6)
  /-- SACASD (R139): 64-bit scratchpad compare-and-swap. -/
  | sacasd (sw : Bool) (d : BitVec 6) (a : BitVec 6) (b : BitVec 6)
  /-- SAMIND (R139): 64-bit scratchpad atomic signed minimum. -/
  | samind (sw : Bool) (d : BitVec 6) (a : BitVec 6) (b : BitVec 6)
  /-- SAMAXD (R139): 64-bit scratchpad atomic signed maximum. -/
  | samaxd (sw : Bool) (d : BitVec 6) (a : BitVec 6) (b : BitVec 6)
  /-- SAMINND (R139): 64-bit scratchpad atomic unsigned minimum. -/
  | saminnd (sw : Bool) (d : BitVec 6) (a : BitVec 6) (b : BitVec 6)
  /-- SAMAXND (R139): 64-bit scratchpad atomic unsigned maximum. -/
  | samaxnd (sw : Bool) (d : BitVec 6) (a : BitVec 6) (b : BitVec 6)
  /-- SAANDD (R139): 64-bit scratchpad atomic AND. -/
  | saandd (sw : Bool) (d : BitVec 6) (a : BitVec 6) (b : BitVec 6)
  /-- SAORD (R139): 64-bit scratchpad atomic OR. -/
  | saord (sw : Bool) (d : BitVec 6) (a : BitVec 6) (b : BitVec 6)
  /-- SAXORD (R139): 64-bit scratchpad atomic XOR. -/
  | saxord (sw : Bool) (d : BitVec 6) (a : BitVec 6) (b : BitVec 6)
  /-- LDACQW (R314): Crossing-scope acquire load of a sign-extended word. -/
  | ldacqw (sw : Bool) (d : BitVec 6) (b : BitVec 6) (o : BitVec 10)
  /-- LDACQD (R314): Crossing-scope acquire load of 64 bits. -/
  | ldacqd (sw : Bool) (d : BitVec 6) (b : BitVec 6) (o : BitVec 10)
  /-- STRELW (R314): Waits as FENCEN crossing with E and R, then stores a word as a release. -/
  | strelw (sw : Bool) (d : BitVec 6) (b : BitVec 6) (o : BitVec 10)
  /-- STRELD (R314): Waits as FENCEN crossing with E and R, then stores 64 bits as a release. -/
  | streld (sw : Bool) (d : BitVec 6) (b : BitVec 6) (o : BitVec 10)
  /-- FENCE (R311): Speculative fence of the given scope; the fibre keeps issuing under checkpoint until the fence completes. -/
  | fence (sw : Bool) (r : BitVec 1) (e : BitVec 1) (k : BitVec 3)
  /-- FENCEN (R310): Non-speculative fence; the fibre stalls until the fence completes. -/
  | fencen (sw : Bool) (r : BitVec 1) (e : BitVec 1) (k : BitVec 3)
  /-- CWB (R261): Writes dirty L2 sectors of a range home in the issuing slice, skipping untranslatable lines. -/
  | cwb (sw : Bool) (x : BitVec 6) (y : BitVec 6) (f : BitVec 4)
  /-- CINV (R261): Writes back and removes the L2 lines of a range in the issuing slice. -/
  | cinv (sw : Bool) (x : BitVec 6) (y : BitVec 6) (f : BitVec 4)
  /-- CPF (R261): Prefetches the lines of a range into the issuing slice. -/
  | cpf (sw : Bool) (x : BitVec 6) (y : BitVec 6) (f : BitVec 4)
  /-- NRED (R293): Checks operands, then reduces scratchpad elements into memory at the owning controllers. -/
  | nred (sw : Bool) (x : BitVec 6) (y : BitVec 6) (f : BitVec 4) (z : BitVec 6)
  /-- QPUSH (R141): Pushes sA to the copy, fabric or routing command queue, stalling while full. -/
  | qpush (sw : Bool) (q : BitVec 6) (a : BitVec 6)
  /-- QPOP (R141): Pops a completion, result or event word into D, stalling while empty; held words move into the freed space. -/
  | qpop (sw : Bool) (d : BitVec 6) (q : BitVec 6)
  /-- MFSR (R143): Waits for earlier clauses and scalar accesses, then reads a system register into D. -/
  | mfsr (sw : Bool) (d : BitVec 6) (n : BitVec 16)
  /-- MTSR (R143): Waits for earlier clauses and scalar accesses, then writes sD to a system register field by field. -/
  | mtsr (sw : Bool) (d : BitVec 6) (n : BitVec 16)
  /-- MFP (R144): Waits for earlier clauses, then reads predicate pn into D. -/
  | mfp (sw : Bool) (d : BitVec 6) (p : BitVec 6)
  /-- MTP (R144): Waits for earlier clauses, then writes sA[31:0] to predicate pn. -/
  | mtp (sw : Bool) (p : BitVec 6) (a : BitVec 6)
  /-- MFEM (R144): Waits for earlier clauses, then reads em into D. -/
  | mfem (sw : Bool) (d : BitVec 6)
  /-- MTEM (R144): Waits for earlier clauses, then writes sA[31:0] to em. -/
  | mtem (sw : Bool) (a : BitVec 6)
  /-- MFF (R144): Reads the twelve flag counts into D without waiting. -/
  | mff (sw : Bool) (d : BitVec 6)
  /-- TDSET (R228): Writes a checked tile descriptor from sY. -/
  | tdset (sw : Bool) (i : BitVec 4) (y : BitVec 6)
  /-- TDGET (R228): Reads a tile descriptor into sY. -/
  | tdget (sw : Bool) (i : BitVec 4) (y : BitVec 6)
  /-- FBSET (R232): Writes a checked format block from sY. -/
  | fbset (sw : Bool) (j : BitVec 2) (y : BitVec 6)
  /-- TZERO (R229): Queues the zeroing of all 16 KiB of a tile in the matrix unit. -/
  | tzero (sw : Bool) (i : BitVec 4) (f : BitVec 4)
  /-- TLD (R230): Loads a tile from memory row by row with a stride. -/
  | tld (sw : Bool) (i : BitVec 4) (y : BitVec 6) (f : BitVec 4) (z : BitVec 6)
  /-- TST (R230): Stores a tile to memory row by row with a stride. -/
  | tst (sw : Bool) (i : BitVec 4) (y : BitVec 6) (f : BitVec 4) (z : BitVec 6)
  /-- TLDL (R230): Loads a tile from scratchpad. -/
  | tldl (sw : Bool) (i : BitVec 4) (y : BitVec 6) (f : BitVec 4) (z : BitVec 6)
  /-- TSTL (R230): Stores a tile to scratchpad. -/
  | tstl (sw : Bool) (i : BitVec 4) (y : BitVec 6) (f : BitVec 4) (z : BitVec 6)
  /-- MMA (R234): Checks formats and shapes, then queues accumulator += A x B in the matrix unit. -/
  | mma (sw : Bool) (j : BitVec 2) (i : BitVec 3) (y : BitVec 4) (f : BitVec 4) (z : BitVec 4)
  /-- MMAS (R235): Queues a structured-sparse matrix multiply-accumulate with metadata in the next tile. -/
  | mmas (sw : Bool) (n : BitVec 1) (j : BitVec 2) (i : BitVec 3) (y : BitVec 4) (f : BitVec 4) (z : BitVec 4)
  /-- ACCZ (R237): Fills every word of an accumulator with sY[31:0]. -/
  | accz (sw : Bool) (i : BitVec 3) (y : BitVec 6) (f : BitVec 4)
  /-- ACCLD (R237): Loads n accumulator words from scratchpad. -/
  | accld (sw : Bool) (i : BitVec 3) (y : BitVec 6) (f : BitVec 4) (z : BitVec 6)
  /-- ACCST (R237): Stores n accumulator words to scratchpad. -/
  | accst (sw : Bool) (i : BitVec 3) (y : BitVec 6) (f : BitVec 4) (z : BitVec 6)
  /-- ACCCVT (R238): Converts accumulator words to narrow, optionally block-scaled, data in scratchpad. -/
  | acccvt (sw : Bool) (j : BitVec 2) (i : BitVec 3) (y : BitVec 6) (f : BitVec 4) (z : BitVec 6)
  /-- ACCMV (R237): Copies one accumulator to another. -/
  | accmv (sw : Bool) (x : BitVec 3) (y : BitVec 3) (f : BitVec 4)
  /-- PUBLISH (R246): Checks a shadowed range and starts the exchange of its visible and shadow frames. -/
  | publish (sw : Bool) (x : BitVec 6) (y : BitVec 6) (f : BitVec 4)
  /-- LWINIT (R249): Writes a fresh landing word and zeroes its manifest in one update. -/
  | lwinit (sw : Bool) (x : BitVec 6) (y : BitVec 6) (z : BitVec 6)
  /-- LWARM (R250): Arms a landing word for a byte target, returning its old state; may complete it at once. -/
  | lwarm (sw : Bool) (x : BitVec 6) (y : BitVec 6) (z : BitVec 6)
  /-- LWADD (R251): Applies a data-free arrival of n bytes to a landing word. -/
  | lwadd (sw : Bool) (x : BitVec 6) (y : BitVec 6) (z : BitVec 6)
  /-- LWAIT (R252): Waits until a landing word's GEN satisfies the generation. -/
  | lwait (sw : Bool) (x : BitVec 6) (y : BitVec 6)
  /-- LWTEST (R252): Reads COUNT, GEN, FLAGS and LOGC of a landing word indivisibly. -/
  | lwtest (sw : Bool) (x : BitVec 6) (y : BitVec 6)
  /-- CBAR (R253): Arrives at a crew barrier and waits for the resulting generation. -/
  | cbar (sw : Bool) (b : BitVec 3) (y : BitVec 6)
  /-- CBARA (R253): Arrives at a crew barrier and writes the awaited generation without waiting. -/
  | cbara (sw : Bool) (b : BitVec 3) (y : BitVec 6) (z : BitVec 6)
  /-- CBARW (R253): Waits for a crew-barrier generation. -/
  | cbarw (sw : Bool) (b : BitVec 3) (y : BitVec 6)
  /-- RST (R393): Sends a remote store of up to 8 bytes to a pattern's members. -/
  | rst (sw : Bool) (x : BitVec 6) (f : BitVec 4)
  /-- RCPY (R393): Sends a remote copy from a local source in 512-byte chunks. -/
  | rcpy (sw : Bool) (x : BitVec 6) (f : BitVec 4)
  /-- RFLUSH (R405): Waits until earlier remote operations to the pattern's members are placed. -/
  | rflush (sw : Bool) (x : BitVec 6) (f : BitVec 4)
  /-- TSARM (R413): Arms a fabric operation on a landing word to be sent when a generation completes. -/
  | tsarm (sw : Bool) (x : BitVec 6) (y : BitVec 6) (f : BitVec 4) (z : BitVec 6)
  /-- TSCAN (R414): Cancels the unreleased sends of the context armed on a landing word. -/
  | tscan (sw : Bool) (y : BitVec 6) (z : BitVec 6)
  /-- RAADD (R404): Remote atomic add at a single member; returns the old value. -/
  | raadd (sw : Bool) (x : BitVec 6) (f : BitVec 4) (z : BitVec 6)
  /-- RASWAP (R404): Remote atomic swap. -/
  | raswap (sw : Bool) (x : BitVec 6) (f : BitVec 4) (z : BitVec 6)
  /-- RACAS (R404): Remote compare-and-swap. -/
  | racas (sw : Bool) (x : BitVec 6) (f : BitVec 4) (z : BitVec 6)
  /-- RAMIN (R404): Remote atomic signed minimum. -/
  | ramin (sw : Bool) (x : BitVec 6) (f : BitVec 4) (z : BitVec 6)
  /-- RAMAX (R404): Remote atomic signed maximum. -/
  | ramax (sw : Bool) (x : BitVec 6) (f : BitVec 4) (z : BitVec 6)
  /-- RAAND (R404): Remote atomic AND. -/
  | raand (sw : Bool) (x : BitVec 6) (f : BitVec 4) (z : BitVec 6)
  /-- RAOR (R404): Remote atomic OR. -/
  | raor (sw : Bool) (x : BitVec 6) (f : BitVec 4) (z : BitVec 6)
  /-- RAXOR (R404): Remote atomic XOR. -/
  | raxor (sw : Bool) (x : BitVec 6) (f : BitVec 4) (z : BitVec 6)
  /-- RREDF (R401): Reducing store of floating-point ADD converging on one target. -/
  | rredf (sw : Bool) (x : BitVec 6) (f : BitVec 4)
  /-- RREDB (R401): Reducing store of bitwise AND, OR or XOR. -/
  | rredb (sw : Bool) (x : BitVec 6) (f : BitVec 4)
  /-- RREDI (R401): Reducing store of integer ADD. -/
  | rredi (sw : Bool) (x : BitVec 6) (f : BitVec 4)
  /-- RREDX (R401): Reducing store of MAX. -/
  | rredx (sw : Bool) (x : BitVec 6) (f : BitVec 4)
  /-- RREDN (R401): Reducing store of MIN. -/
  | rredn (sw : Bool) (x : BitVec 6) (f : BitVec 4)
  /-- GPSET (R387): Writes a pattern-table entry, checking the region control. -/
  | gpset (sw : Bool) (x : BitVec 6) (y : BitVec 6) (z : BitVec 6)
  /-- GPGET (R387): Reads a pattern-table entry into two registers. -/
  | gpget (sw : Bool) (x : BitVec 6) (y : BitVec 6) (z : BitVec 6)
  /-- GPAUSE (R415): From the pause coordinate, sends PAUSE with a stop chunk to every member. -/
  | gpause (sw : Bool) (y : BitVec 6)
  /-- SPAWN (R340): Checks and enqueues a START record, carving budgets and setting a join link. -/
  | spawn (sw : Bool) (x : BitVec 6) (y : BitVec 6) (f : BitVec 4) (z : BitVec 6)
  /-- JOIN (R341): Arrives to end the phase; after draining, marks the join record HELD or releases it. -/
  | join (sw : Bool) (x : BitVec 6)
  /-- PHASE (R342): Drains and arrives; when all fibres have arrived or ended the phase ends with a PHASE record. -/
  | phase (sw : Bool) (x : BitVec 6) (y : BitVec 6)
  /-- EXIT (R343): Waits for earlier clauses, then ends the fibre; the crew ends when all fibres have. -/
  | exit (sw : Bool)
  /-- LAUNCHI (R344): Registers a held indirect launch released by a landing word's generation. -/
  | launchi (sw : Bool) (x : BitVec 6) (y : BitVec 6) (f : BitVec 4) (z : BitVec 6)
  /-- YIELD (R345): Starts the crew's grace if not running and arrives at a yield point. -/
  | yield (sw : Bool)
  /-- YIELDPT (R336): During grace, drains and arrives at a yield point; otherwise does nothing. -/
  | yieldpt (sw : Bool)
  /-- BGRANT (R346): Adds to the crew's budgets if the context holds the top-up right, possibly ending grace. -/
  | bgrant (sw : Bool) (x : BitVec 6) (y : BitVec 6)
  /-- FBAR (R181): Waits for earlier clauses and arrives at the berth barrier; completes when all participants arrive. -/
  | fbar (sw : Bool) (m : BitVec 4)
  /-- ROLE (R184): Checks a role switch, then drains the fibre before switching. -/
  | role (sw : Bool) (n : BitVec 6) (k : BitVec 6)
  /-- TFENCE (R188): Waits for flag-setting operations, then traps ARITH if AFLAGS meets the mask. -/
  | tfence (sw : Bool) (m : BitVec 6)
  /-- BRK (R195): Waits for earlier clauses, then traps BREAK if em AND pn is non-zero. -/
  | brk (sw : Bool) (p : BitVec 6) (c : BitVec 6)
  /-- TRAP (R196): Traps unconditionally with cause SOFT. -/
  | trap (sw : Bool) (x : BitVec 6) (c : BitVec 6)
  /-- TRET (R193): Leaves handler mode, restoring s1 and resuming, skipping or re-issuing the trapped instruction. -/
  | tret (sw : Bool) (x : BitVec 6) (k : BitVec 6)
  /-- DBARA (R264): Arrives at a deck barrier and writes the awaited generation. -/
  | dbara (sw : Bool) (b : BitVec 4) (y : BitVec 6) (z : BitVec 6)
  /-- DBARW (R265): Waits for a deck-barrier generation as an acquire. -/
  | dbarw (sw : Bool) (b : BitVec 4) (y : BitVec 6)
  /-- QPRIO (R327): Sets or clears a sailing's priority override. -/
  | qprio (sw : Bool) (x : BitVec 6) (y : BitVec 6)
  /-- SWAPF (R290): Checks two leaves and queues the exchange of their frames. -/
  | swapf (sw : Bool) (x : BitVec 6) (y : BitVec 6) (f : BitVec 4)
  /-- TLBINV (R286): Removes a context's entries covering an address from every TLB. -/
  | tlbinv (sw : Bool) (x : BitVec 6) (y : BitVec 6) (f : BitVec 4)
  /-- TLBINVA (R286): Removes every TLB entry of a context. -/
  | tlbinva (sw : Bool) (y : BitVec 6) (f : BitVec 4)
  /-- ILLEGAL_INSTR (R60): a word of `stream` (lane when true) that is not an instruction, with its subcause. -/
  | illegalInstr (word : BitVec 96) (lane : Bool) (sub : Subcause)
  /-- IADD (R153): Per-lane integer add, wrapping or saturating. -/
  | iadd (w : LaneWord)
  /-- ISUB (R153): Per-lane integer subtract. -/
  | isub (w : LaneWord)
  /-- IMUL (R153): Per-lane integer multiply, low bits or clamped. -/
  | imul (w : LaneWord)
  /-- IMULH (R153): Per-lane high half of the integer product. -/
  | imulh (w : LaneWord)
  /-- IMAD (R153): Per-lane integer multiply-add. -/
  | imad (w : LaneWord)
  /-- IMIN (R153): Per-lane integer minimum. -/
  | imin (w : LaneWord)
  /-- IMAX (R153): Per-lane integer maximum. -/
  | imax (w : LaneWord)
  /-- IABS (R153): Per-lane integer absolute value. -/
  | iabs (w : LaneWord)
  /-- INEG (R153): Per-lane integer negation. -/
  | ineg (w : LaneWord)
  /-- IAND (R153): Per-lane bitwise AND. -/
  | iand (w : LaneWord)
  /-- IOR (R153): Per-lane bitwise OR. -/
  | ior (w : LaneWord)
  /-- IXOR (R153): Per-lane bitwise XOR. -/
  | ixor (w : LaneWord)
  /-- IANDN (R153): Per-lane a AND NOT b. -/
  | iandn (w : LaneWord)
  /-- ISHL (R153): Per-lane shift left. -/
  | ishl (w : LaneWord)
  /-- ISHR (R153): Per-lane shift right, arithmetic or logical by type. -/
  | ishr (w : LaneWord)
  /-- ICLZ (R153): Per-lane leading zero count. -/
  | iclz (w : LaneWord)
  /-- IPOPC (R153): Per-lane population count. -/
  | ipopc (w : LaneWord)
  /-- IBFE (R154): Per-lane bit-field extract. -/
  | ibfe (w : LaneWord)
  /-- IBFI (R154): Per-lane bit-field insert into D. -/
  | ibfi (w : LaneWord)
  /-- IMOV (R153): Per-lane move, with byte and nibble selectors. -/
  | imov (w : LaneWord)
  /-- LNOP (R155): Lane no-operation that charges its toll. -/
  | lnop (w : LaneWord)
  /-- FADD (R156): Per-lane floating-point add. -/
  | fadd (w : LaneWord)
  /-- FSUB (R156): Per-lane floating-point subtract. -/
  | fsub (w : LaneWord)
  /-- FMUL (R156): Per-lane floating-point multiply. -/
  | fmul (w : LaneWord)
  /-- FFMA (R156): Per-lane fused multiply-add with one rounding. -/
  | ffma (w : LaneWord)
  /-- FDIV (R156): Per-lane correctly rounded division; long-latency. -/
  | fdiv (w : LaneWord)
  /-- FMIN (R157): Per-lane floating-point minimum. -/
  | fmin (w : LaneWord)
  /-- FMAX (R157): Per-lane floating-point maximum. -/
  | fmax (w : LaneWord)
  /-- FABS (R157): Per-lane sign clear. -/
  | fabs (w : LaneWord)
  /-- FNEG (R157): Per-lane sign inversion. -/
  | fneg (w : LaneWord)
  /-- FRND (R156): Per-lane rounding to an integral value. -/
  | frnd (w : LaneWord)
  /-- FSQRT (R156): Per-lane correctly rounded square root; long-latency. -/
  | fsqrt (w : LaneWord)
  /-- FRCP (R158): Per-lane reciprocal; long-latency. -/
  | frcp (w : LaneWord)
  /-- FRSQ (R158): Per-lane reciprocal square root; long-latency. -/
  | frsq (w : LaneWord)
  /-- FEXP2 (R158): Per-lane base-2 exponential; long-latency. -/
  | fexp2 (w : LaneWord)
  /-- FLOG2 (R158): Per-lane base-2 logarithm; long-latency. -/
  | flog2 (w : LaneWord)
  /-- FSIN (R158): Per-lane sine; long-latency. -/
  | fsin (w : LaneWord)
  /-- FCOS (R158): Per-lane cosine; long-latency. -/
  | fcos (w : LaneWord)
  /-- FTANH (R158): Per-lane hyperbolic tangent; long-latency. -/
  | ftanh (w : LaneWord)
  /-- ICMPEQ (R159): Integer compare equal into a predicate. -/
  | icmpeq (w : LaneWord)
  /-- ICMPNE (R159): Integer compare not equal into a predicate. -/
  | icmpne (w : LaneWord)
  /-- ICMPLT (R159): Integer compare less into a predicate. -/
  | icmplt (w : LaneWord)
  /-- ICMPLE (R159): Integer compare less-or-equal into a predicate. -/
  | icmple (w : LaneWord)
  /-- ICMPGT (R159): Integer compare greater into a predicate. -/
  | icmpgt (w : LaneWord)
  /-- ICMPGE (R159): Integer compare greater-or-equal into a predicate. -/
  | icmpge (w : LaneWord)
  /-- FCMPEQ (R160): FP32 compare equal into a predicate. -/
  | fcmpeq (w : LaneWord)
  /-- FCMPNE (R160): FP32 compare not equal or unordered. -/
  | fcmpne (w : LaneWord)
  /-- FCMPLT (R160): FP32 compare less. -/
  | fcmplt (w : LaneWord)
  /-- FCMPLE (R160): FP32 compare less-or-equal. -/
  | fcmple (w : LaneWord)
  /-- FCMPGT (R160): FP32 compare greater. -/
  | fcmpgt (w : LaneWord)
  /-- FCMPGE (R160): FP32 compare greater-or-equal. -/
  | fcmpge (w : LaneWord)
  /-- FCMPUN (R160): FP32 unordered test. -/
  | fcmpun (w : LaneWord)
  /-- FCMPOR (R160): FP32 ordered test. -/
  | fcmpor (w : LaneWord)
  /-- PAND (R161): Predicate AND. -/
  | pand (w : LaneWord)
  /-- POR (R161): Predicate OR. -/
  | por (w : LaneWord)
  /-- PXOR (R161): Predicate XOR. -/
  | pxor (w : LaneWord)
  /-- PANDN (R161): Predicate a AND NOT b. -/
  | pandn (w : LaneWord)
  /-- PNOT (R161): Predicate NOT. -/
  | pnot (w : LaneWord)
  /-- EMAND (R162): ANDs the execution mask with an operand in active lanes. -/
  | emand (w : LaneWord)
  /-- EMSET (R162): Sets the execution mask in the predicated lanes. -/
  | emset (w : LaneWord)
  /-- EMGET (R162): Copies the execution mask into a predicate. -/
  | emget (w : LaneWord)
  /-- LANE_SEL (R163): Lane SEL: per-lane choice between A and B by a predicate. -/
  | laneSel (w : LaneWord)
  /-- CVT (R165): Converts one element per lane between formats. -/
  | cvt (w : LaneWord)
  /-- DOT4 (R166): Per-lane dot product of four 8-bit elements plus C. -/
  | dot4 (w : LaneWord)
  /-- DOT8 (R166): Per-lane dot product of eight E2M1 elements plus C. -/
  | dot8 (w : LaneWord)
  /-- DOT2 (R166): Per-lane dot product of two 16-bit elements plus C. -/
  | dot2 (w : LaneWord)
  /-- SCALE (R167): Multiplies an FP32 element by a selected E8F2 scale. -/
  | scale (w : LaneWord)
  /-- SEED (R168): Writes the stochastic generator state of each active lane. -/
  | seed (w : LaneWord)
  /-- LDG (R170): Per-lane memory load; long-latency. -/
  | ldg (w : LaneWord)
  /-- STG (R170): Per-lane memory store; long-latency. -/
  | stg (w : LaneWord)
  /-- LDS (R170): Per-lane scratchpad load; long-latency. -/
  | lds (w : LaneWord)
  /-- STS (R170): Per-lane scratchpad store; long-latency. -/
  | sts (w : LaneWord)
  /-- GAADD (R171): Per-lane memory atomic add in ascending lane order. -/
  | gaadd (w : LaneWord)
  /-- GAMIN (R171): Per-lane memory atomic signed minimum. -/
  | gamin (w : LaneWord)
  /-- GAMAX (R171): Per-lane memory atomic signed maximum. -/
  | gamax (w : LaneWord)
  /-- GAAND (R171): Per-lane memory atomic AND. -/
  | gaand (w : LaneWord)
  /-- GAOR (R171): Per-lane memory atomic OR. -/
  | gaor (w : LaneWord)
  /-- GAXOR (R171): Per-lane memory atomic XOR. -/
  | gaxor (w : LaneWord)
  /-- GASWAP (R171): Per-lane memory atomic swap. -/
  | gaswap (w : LaneWord)
  /-- GACAS (R171): Per-lane memory compare-and-swap. -/
  | gacas (w : LaneWord)
  /-- GAFADD (R171): Per-lane memory atomic FP32 add. -/
  | gafadd (w : LaneWord)
  /-- LAADD (R171): Per-lane scratchpad atomic add. -/
  | laadd (w : LaneWord)
  /-- LAMIN (R171): Per-lane scratchpad atomic signed minimum. -/
  | lamin (w : LaneWord)
  /-- LAMAX (R171): Per-lane scratchpad atomic signed maximum. -/
  | lamax (w : LaneWord)
  /-- LAAND (R171): Per-lane scratchpad atomic AND. -/
  | laand (w : LaneWord)
  /-- LAOR (R171): Per-lane scratchpad atomic OR. -/
  | laor (w : LaneWord)
  /-- LAXOR (R171): Per-lane scratchpad atomic XOR. -/
  | laxor (w : LaneWord)
  /-- LASWAP (R171): Per-lane scratchpad atomic swap. -/
  | laswap (w : LaneWord)
  /-- LACAS (R171): Per-lane scratchpad compare-and-swap. -/
  | lacas (w : LaneWord)
  /-- LAFADD (R171): Per-lane scratchpad atomic FP32 add. -/
  | lafadd (w : LaneWord)
  /-- SHFL (R173): Reads A from an indexed lane. -/
  | shfl (w : LaneWord)
  /-- SHFLU (R173): Reads A from the lane n below. -/
  | shflu (w : LaneWord)
  /-- SHFLD (R173): Reads A from the lane n above. -/
  | shfld (w : LaneWord)
  /-- SHFLX (R173): Reads A from lane l XOR n. -/
  | shflx (w : LaneWord)
  /-- BALLOT (R174): Writes the active predicate mask to every active lane. -/
  | ballot (w : LaneWord)
  /-- VANY (R174): Sets a predicate if any active lane's predicate holds. -/
  | vany (w : LaneWord)
  /-- VALL (R174): Sets a predicate if every active lane's predicate holds. -/
  | vall (w : LaneWord)
  /-- SCANADD (R175): Inclusive add scan in ascending lane order. -/
  | scanadd (w : LaneWord)
  /-- SCANMIN (R175): Inclusive minimum scan. -/
  | scanmin (w : LaneWord)
  /-- SCANMAX (R175): Inclusive maximum scan. -/
  | scanmax (w : LaneWord)
  /-- REDADD (R175): Add reduction over active lanes in lane order. -/
  | redadd (w : LaneWord)
  /-- REDMIN (R175): Minimum reduction over active lanes. -/
  | redmin (w : LaneWord)
  /-- REDMAX (R175): Maximum reduction over active lanes. -/
  | redmax (w : LaneWord)
  /-- TOPK (R176): Selects the k largest active values and their lanes into a register pair. -/
  | topk (w : LaneWord)
  /-- CLAUSE_TAKE (R51): The lane stream takes the oldest clause-queue entry, checks its header and waits on its WAIT flags. -/
  | clauseTake (g : Nat)
  /-- LANE_OP_COMPLETE (R147): A long-latency lane operation completes: results written, AFLAGS ORed, flag count lowered. -/
  | laneOpComplete (g id : Nat)
  /-- SCALAR_RESULT_ARRIVAL (R115): The data of a scalar load, atomic or QPOP arrives and writes its register unless superseded. -/
  | scalarResultArrival (g id : Nat)
  /-- LINE_FILL_COMPLETE (R31): A register line miss finishes its write-back and fill, and the access retries. -/
  | lineFillComplete (slot line : Nat)
  /-- FENCE_COMPLETE (R310): A pending fence's waits end; speculative state commits and held traps are taken. -/
  | fenceComplete (g : Nat)
  /-- ROLE_SWITCH (R184): After ROLE's drain, the checks are repeated and the fibre's window, LCBASE, s2 and SPC are switched. -/
  | roleSwitch (g : Nat)
  /-- PAGE_REQUEST_POST (R287): A waiting page request is written to the die's ring when room exists. -/
  | pageRequestPost (die : Nat)
  /-- PAGE_REQUEST_REPLY (R287): A reply written to the reply port ends a request with success, refusal, or is discarded as stale or malformed. -/
  | pageRequestReply (die : Nat) (data : List Byte)
  /-- PAGE_REQUEST_TIMEOUT (R288): A request with no reply after 100 ms ends as refused. -/
  | pageRequestTimeout (die req : Nat)
  /-- PARKED_REPLAY (R187): A parked fibre whose request succeeded replays its instruction for the unfinished lanes when next current. -/
  | parkedReplay (g : Nat)
  /-- PRQBASE_WRITE (R360): Host write of a die's page-request ring base, enabling or disabling the ring. -/
  | prqbaseWrite (die : Nat) (v : Word)
  /-- PRQHEAD_WRITE (R360): Host write of the ring head, freeing room for waiting requests. -/
  | prqheadWrite (die : Nat) (v : Word)
  /-- ENGINE_INSTRUCTION_COMPLETE (R225): A tile, matrix, accumulator or PUBLISH instruction completes, ORs its flags and lowers its flag. -/
  | engineInstructionComplete (id : Nat)
  /-- PUBLISH_EXCHANGE (R246): After earlier shadow writes are placed, every page of the range swaps visible and shadow frames in one event. -/
  | publishExchange (id : Nat)
  /-- TLBINV_COMPLETE (R286): Every TLB has removed the entries and dependent accesses are performed; the flag falls. -/
  | tlbinvComplete (id : Nat)
  /-- SWAPF_EXCHANGE (R291): The frames of two leaves are exchanged at one point of the memory order and TLBs are cleared. -/
  | swapfExchange (id : Nat)
  /-- NRED_ELEMENT (R293): A controller applies one NRED element update indivisibly; the last lowers the flag. -/
  | nredElement (id e : Nat)
  /-- CACHE_RANGE_COMPLETE (R261): Every line of a CWB, CINV or CPF range is processed or skipped and the flag falls. -/
  | cacheRangeComplete (id : Nat)
  /-- COPY (R241): Copy-engine command placing count bytes from source to destination. -/
  | copy (id : Nat)
  /-- GATHER (R241): Copy-engine command gathering indexed elements. -/
  | gather (id : Nat)
  /-- SCATTER (R241): Copy-engine command scattering elements to indexed places. -/
  | scatter (id : Nat)
  /-- FILL (R241): Copy-engine command repeating a pattern over a range. -/
  | fill (id : Nat)
  /-- CONVERT (R241): Copy-engine command converting elements, optionally to a block-scaled format. -/
  | convert (id : Nat)
  /-- COPY_INVALID_OPC (R243): A copy header with an invalid OPC is taken alone and completes MALFORMED. -/
  | copyInvalidOpc (id : Nat)
  /-- COPY_COMMAND_COMPLETE (R244): A copy command finishes or stops; its flag falls and a completion word is queued. -/
  | copyCommandComplete (id : Nat)
  /-- LW_ARRIVAL (R206): An arrival is applied to a landing word: checks, manifest, data placement and count. -/
  | lwArrival (id k : Nat)
  /-- DECK_ADMISSION (R329): An idle cluster admits the head record on its W lowest idle cores, or refuses its launch block. -/
  | deckAdmission (cluster : Nat)
  /-- GRACE_EXPIRY (R337): Grace ends by count or 16,384 clocks and the crew is force-yielded and saved in full. -/
  | graceExpiry (core : Nat)
  /-- SAVE_COMPLETE (R331): A crew's save completes, sealing a protected image; the crew enters draining. -/
  | saveComplete (core : Nat)
  /-- DRAIN_COMPLETE (R332): Draining ends: record queued, join link decremented, save area freed, cores idle. -/
  | drainComplete (deck : Nat)
  /-- CORE_SCRUB (R217): The background scrubber reads store units, poisoning uncorrectable ones. -/
  | coreScrub (core : Nat)
  /-- MEMORY_PATROL_SCRUB (R295): The patrol scrubber reads device-memory sectors, correcting or poisoning them. -/
  | memoryPatrolScrub (sector : Nat)
  /-- BANK_FLIP (R215): A requested flip exchanges a core's active and standby banks once both are in allowed states. -/
  | bankFlip (core : Nat)
  /-- BANK_TRANSFER (R348): The bank transfer engine finishes saving or loading a standby bank from context images. -/
  | bankTransfer (core : Nat)
  /-- SUBMIT_RECORD (R356): A 32-byte write to a record port checks a record and enqueues, holds or refuses it. -/
  | submitRecord (p offset : Nat) (data : List Byte)
  /-- REGISTER_CONTEXT (R319): A write to the registration port checks a context descriptor and makes the sailing live. -/
  | registerContext (p : Nat) (v : Word)
  /-- RELEASE_CONTEXT (R358): A write to the release port releases a context without crews or queued records. -/
  | releaseContext (p : Nat) (v : Word)
  /-- SUBMITSTAT_READ (R357): A read of SUBMITSTAT returns and clears the refused count. -/
  | submitstatRead (p : Nat)
  /-- HOST_CXL_ACCESS (R304): A host CXL.mem or CXL.cache access is performed as an event of the package order. -/
  | hostCxlAccess (x : HostAccess)
  /-- BAR_REGISTER_WRITE (R355): A host write to a BAR offset with no row of its own is performed or discarded. -/
  | barRegisterWrite (offset : Nat) (data : List Byte)
  /-- GET_STATUS (R364): Mailbox command returning BOOTSTAT, temperatures, power, clocks and retired units. -/
  | getStatus
  /-- LOAD_IMAGE (R373): Mailbox command reading, verifying and storing a firmware image. -/
  | loadImage
  /-- ATTEST (R375): Mailbox command returning a signed attestation report over a nonce. -/
  | attest
  /-- SET_PARTITIONS (R365): Mailbox command defining partitions, creating and destroying memory keys. -/
  | setPartitions
  /-- SWITCH_PARTITION (R348): Mailbox command halting a partition's crews and flipping its cores to the named partition. -/
  | switchPartition
  /-- SET_LIMITS (R366): Mailbox command setting power, clock and throttle limits within their ranges. -/
  | setLimits
  /-- KEY_TRANSPORT (R364): LOAD_KEY TRANSPORT returns the certified key-transport modulus. -/
  | keyTransport
  /-- KEY_LOAD (R374): LOAD_KEY LOAD unwraps a key into a slot bound to a tenant. -/
  | keyLoad
  /-- KEY_CLEAR (R364): LOAD_KEY CLEAR empties a key slot not named by a registered context. -/
  | keyClear
  /-- UNIT_RETURN (R379): UNIT_SERVICE return tests a retired core or cluster and returns it to service. -/
  | unitReturn
  /-- UNIT_KEEP_OUT (R379): UNIT_SERVICE keep-out records a unit in fuses. -/
  | unitKeepOut
  /-- RELEASE_STOP (R368): Mailbox command ending an emergency stop when temperatures allow. -/
  | releaseStop
  /-- MAILBOX_UNKNOWN_COMMAND (R363): A GO with an unlisted command code completes with INVALID. -/
  | mailboxUnknownCommand
  /-- MAILBOX_COMPLETE (R362): A running mailbox command completes, clears BUSY and raises vector 0. -/
  | mailboxComplete
  /-- FABRIC_CONFIG_JOIN (R381): FABRIC_CONFIG JOIN makes a context a crossing member and sends JOINED. -/
  | fabricConfigJoin
  /-- FABRIC_CONFIG_WINDOW (R408): FABRIC_CONFIG WINDOW replaces a port's tenant window table. -/
  | fabricConfigWindow
  /-- FABRIC_CONFIG_PAUSE (R381): FABRIC_CONFIG PAUSE starts a gang pause as GPAUSE does. -/
  | fabricConfigPause
  /-- FABRIC_CONFIG_RESUME (R416): FABRIC_CONFIG RESUME resumes a paused crossing. -/
  | fabricConfigResume
  /-- FABRIC_CONFIG_STATS (R381): FABRIC_CONFIG STATS returns a port's eight counters. -/
  | fabricConfigStats
  /-- EVENT_COUNTER_SELECT_WRITE (R377): A write of a counter's select word, effective from the next clock. -/
  | eventCounterSelectWrite (i : Nat) (v : Word)
  /-- EVENT_COUNTER_VALUE_WRITE (R377): A write of a counter's COUNT and W1C OVF. -/
  | eventCounterValueWrite (i : Nat) (v : Word)
  /-- DEVICE_RESET (R369): A reset starts the boot ROM, verifies the image or enters harbour mode. -/
  | deviceReset
  /-- POWER_LOSS (R370): Loss of power clears the failed-start count. -/
  | powerLoss
  /-- MEMORY_TRAINING_DONE (R369): Every stack is trained and self-tested, or the start fails. -/
  | memoryTrainingDone (result : TrainResult)
  /-- BOOT_READY (R369): Skapin reports ready; the start succeeds and records are accepted. -/
  | bootReady
  /-- BOOT_WATCHDOG_EXPIRY (R369): Stage 6 is not reached within 10 s of stage 3 and the start fails. -/
  | bootWatchdogExpiry
  /-- THROTTLE_STEP (R366): Every 10 µs over a power or junction limit the clock is lowered by 25 MHz. -/
  | throttleStep
  /-- EMERGENCY_STOP (R368): A junction at 115 °C or a stack at 105 °C halts every crew and raises vector 17. -/
  | emergencyStop
  /-- STACK_OVERHEAT (R366): A stack at 95 °C doubles its refresh. -/
  | stackOverheat (stack : Nat)
  /-- PTP_MESSAGE (R385): An IEEE 1588 message on a port updates the package's PTP time. -/
  | ptpMessage (port : Nat) (time : Word) (inBounds : Bool)
  /-- FABRIC_QUEUE_STORE (R395): A four-word queue-form STORE is accepted from q2 and sent. -/
  | fabricQueueStore (g : Nat)
  /-- FABRIC_QUEUE_COPY (R395): A four-word queue-form COPY is accepted and sent. -/
  | fabricQueueCopy (g : Nat)
  /-- FABRIC_QUEUE_REDUCE (R395): A four-word queue-form REDUCE is accepted and sent. -/
  | fabricQueueReduce (g : Nat)
  /-- FABRIC_QUEUE_BAD_KIND (R395): A q2 header with an invalid QK is taken alone and posts MALFORMED. -/
  | fabricQueueBadKind (g : Nat)
  /-- FABRIC_OPERATION_LEFT (R394): Every packet of a fabric operation has left the sender; the flag falls and DONE or VOID may post. -/
  | fabricOperationLeft (id : Nat)
  /-- FABRIC_CHUNK_ARRIVAL (R398): A STORE or COPY chunk arrives, is checked and placed, and credits its landing word. -/
  | fabricChunkArrival (port : Nat) (p : Packet)
  /-- REDUCE_CHUNK_ARRIVAL (R401): A REDUCE chunk arrives and its elements are combined into the target. -/
  | reduceChunkArrival (port : Nat) (p : Packet)
  /-- REMOTE_ATOMIC_ARRIVAL (R404): A remote atomic is performed indivisibly at its target and replies. -/
  | remoteAtomicArrival (port : Nat) (p : Packet)
  /-- FABRIC_REPLY_ARRIVAL (R399): A failure reply reaches the sender and posts a completion word. -/
  | fabricReplyArrival (port : Nat) (r : Reply)
  /-- ATOMIC_VALUE_REPLY (R404): A remote atomic's old value returns and writes sd. -/
  | atomicValueReply (port id : Nat) (v : Word)
  /-- JOINED_MESSAGE (R382): The coordinator records or refuses a JOINED and sends READY when the grid is full. -/
  | joinedMessage (port : Nat) (m : Joined)
  /-- READY_MESSAGE (R382): READY makes a member ready and releases its held records into their queues. -/
  | readyMessage (port crossing : Nat)
  /-- REFUSED_MESSAGE (R382): REFUSED ends a package's crossing membership. -/
  | refusedMessage (port crossing : Nat)
  /-- PAUSE_MESSAGE (R415): A member halts its crews and holds chunks at or above the stop chunk. -/
  | pauseMessage (port crossing stop : Nat)
  /-- PAUSE_DRAINED (R415): Once every sent chunk is placed, a member replies PAUSED. -/
  | pauseDrained (crossing : Nat)
  /-- PAUSED_MESSAGE (R415): The initiator counts PAUSED replies and sends SWITCH after all. -/
  | pausedMessage (port crossing source highest : Nat)
  /-- SWITCH_MESSAGE (R415): A member switches to its standby partition if configured. -/
  | switchMessage (port crossing : Nat)
  /-- RESUME_MESSAGE (R416): A member switches back, releases held chunks and resumes its crews. -/
  | resumeMessage (port crossing : Nat)
  /-- ROUTING_TOKEN (R417): A token record pushed to q4 is accepted into the fibre's open session or refused. -/
  | routingToken (g : Nat)
  /-- ROUTING_OPEN (R418): An open record checks a session block and opens the session. -/
  | routingOpen (g : Nat)
  /-- ROUTING_CLOSE (R417): A close record closes an open session. -/
  | routingClose (g : Nat)
  /-- ROUTING_BAD_RECORD (R417): A type-3 routing word is taken alone and refused. -/
  | routingBadRecord (g : Nat)
  /-- ROUTING_HEADER_ARRIVAL (R419): A token header reaches its expert's package and joins a round of a batch. -/
  | routingHeaderArrival (port : Nat) (h : RoutingHeader)
  /-- ROUTING_ROUND1_CLOSE (R419): At the batch close the destination ranks round-1 headers into slots and reports overflow. -/
  | routingRound1Close (session : Nat)
  /-- ROUTING_ROUND2_CLOSE (R419): At close plus W the destination ranks round-2 headers and drops the rest. -/
  | routingRound2Close (session : Nat)
  /-- TAPE_APPEND (R421): When ring room exists, entries are appended and the tape word credited before acceptances are sent. -/
  | tapeAppend (session : Nat)
  /-- ROUTING_DECISION_ARRIVAL (R420): An acceptance, overflow or drop reaches the sender; payloads go out or the second choice is offered and fate words posted. -/
  | routingDecisionArrival (port : Nat) (d : RoutingDecision)
  /-- ROUTING_PAYLOAD_ARRIVAL (R421): A payload piece is placed and credited to its entry's counter, or dropped if no entry exists. -/
  | routingPayloadArrival (port : Nat) (p : RoutingPayload)
  /-- PLACEMENT_ACKNOWLEDGEMENT (R406): A reply-class placement acknowledgement reaches the sender and records that a remote operation's chunks have been placed, completing an RFLUSH and letting a pausing member drain. -/
  | placementAcknowledgement (port id chunk source : Nat)
  /-- FLIT_RETRY (R406): A flit received with an uncorrectable link error is retransmitted until it is received whole, counting FLIT_RETRY. -/
  | flitRetry (port : Nat)
  /-- CXL_LINK_ENABLED (R369): The CXL link comes up and CXL.mem and CXL.cache are enabled, reaching boot stage 5 or failing the start with reason CXL. -/
  | cxlLinkEnabled (ok : Bool)
  /-- FABRIC_PORT_TRAINING (R369): A fabric port finishes link training, coming up or staying down and being reported. -/
  | fabricPortTraining (port : Nat) (ok : Bool)
  /-- REGISTRATION_COMPLETE (R357): A registration or release in progress finishes, clearing DBUSY and setting DCAUSE. -/
  | registrationComplete (p : Nat)
  deriving DecidableEq, Repr

end Sys2Proof
end

