-- ==== Sys2Proof/Machine/State.lean ====
section
/-! DEFINITION. The state of one Osrok 940 package: everything the spec gives it, as plain data.
Tables are lists of (key, value) pairs with rising keys. A core has two copies of its banked state (R199, R214):
`side` 0 and 1. Which copy is active is `Core.side`. The key of a banked thing is side × N + its number. -/

namespace Sys2Proof.Machine

/-- A sparse table in canonical form: keys strictly rising. -/
abbrev Tab (α : Type) := List (Nat × α)

/-- 32 lanes of a lane register (R25). -/
abbrev LaneVec := Vector Lane 32

/-- A lane mask (R18). -/
abbrev Mask := BitVec 32

/-! ### The fibre -/

/-- The causes of a trap (R190, R218, R223, R263, R297, R339, R391). -/
inductive Cause where
  | illegalInstr | privileged | regUnmapped | regReadonly | queueAccess | scratchRange | memAlign
  | memTranslate | memPermit | pcAlign | arith | brk | soft | fbarMismatch | roleInvalid
  | scratchEcc | tileShape | formatBlock | lwPlace | lwOperand | cbarCount | publishRange | deckBarrier
  | swapOperand | memPoison | nredOperand | budgetCarve | budgetRight | recordInvalid | phaseMismatch
  | fabricOperand | fabricPattern | collectiveStore | fabricPause
  deriving DecidableEq, Repr

/-- What a trap records beside the state of the fibre (R191). -/
structure Trap where
  cause : Cause
  sub : Nat := 0
  code : Nat := 0
  addr : Word := 0
  mask : Mask := 0
  pred : Mask := 0
  deriving DecidableEq, Repr

/-- What a stream finds full: the matrix unit or the tile path (R225), the swap engine (R291), NRED (R292), the held launches (R344), the unit of
a landing word (R413), the fibre's fabric operations (R394), the words of its `q2` (R395), or the words or commands of its `q0` (R239). -/
inductive FullUnit where
  | matrix | tilePath | swap | nred | launches
  | landing (place : Nat)
  | fabric | fabricWords | copyWords | copyCommands
  deriving DecidableEq, Repr

/-- Why a stream did not issue (R38). `clauses` waits for the queue, `clausesIssue` for the last word of its last clause, `laneOps` for what earlier clauses have issued, `drain` for what a FENCEN
names, `waiting` is an instruction that waits at its own address, `specLimit` a store past a FENCE that finds no room for `count` more,
`copying` a block of a swap, and `ownerDrains` a failed unit whose owner still drains (R218). -/
inductive Stall where
  | lineMiss (line : Nat)
  | clauseFull
  | flagFull (k : Nat)
  | full (u : FullUnit)
  | queueEmpty (q : Nat)
  | clauses
  | clausesIssue
  | laneOps
  | interlock (r : Nat)
  | snapshot (r : Nat)
  | fencePending
  | specLimit (count : Nat)
  | drain (scope : Nat) (engines remote : Bool)
  | waiting
  | copying (block : Nat)
  | ownerDrains (place : Nat)
  deriving DecidableEq, Repr

/-- An instruction of the scalar stream that has issued and waits to complete (R132, R178, R252, R253, R265, R336, R405). -/
inductive Wait where
  | flags (mask : BitVec 12)
  | clause (serial : Nat)
  | fbarClauses (p : BitVec 4)
  | fbar (p : BitVec 4)
  | role (n k : Nat)
  | tfence (mask : BitVec 6)
  | landing (place : Nat) (gen : BitVec 16)
  | cbarClauses (b : Nat)
  | cbar (b : Nat) (gen : BitVec 16)
  | cbaraClauses (b : Nat)
  | dbaraClauses (b : Nat)
  | dbar (b : Nat) (gen : BitVec 16)
  | yieldPoint
  | phase (x y : Word)
  | join (x : Word)
  | rflush (id : Nat)
  deriving DecidableEq, Repr

/-- A trap frame as the fibre holds it since entry (R191, R193), with the wait of a FWAIT or CLSWAIT that
had issued and the arrival that a CBAR at SPC has made (R212). -/
structure Frame where
  trap : Trap
  lane : Bool
  oldS1 : Word
  spc : Word
  lpc : Word
  wait : Option Wait
  cbarDone : Option (Word × Nat × BitVec 16)
  deriving DecidableEq, Repr

/-- How a fibre has arrived at the end of its phase or at a yield point (R336, R341, R342). -/
inductive Arrival where
  | yieldPoint
  | phase
  | join
  deriving DecidableEq, Repr

/-- An entry of the clause queue: its header address, a serial, the scalar registers as the CLS leaves them
(R22) and those whose value is still outstanding (register, result id). -/
structure Clause where
  header : Word
  serial : Nat
  snapshot : Vector Word 64
  awaiting : List (Nat × Nat)
  deriving DecidableEq, Repr

/-- The clause that the lane stream has taken (R21, R51): its header's fields and the number of the next
instruction, 1 to LEN. -/
structure Running where
  len : Nat
  fa : BitVec 4
  fb : BitVec 4
  wait : BitVec 12
  started : Bool
  pos : Nat
  deriving DecidableEq, Repr

/-- A scalar result not yet written (R24, R115): none while a remote value is still to come. -/
structure ScalarPending where
  id : Nat
  dest : BitVec 6
  value : Option Word
  live : Bool
  deriving DecidableEq, Repr

/-- A long-latency lane operation not yet complete (R147, R179): the berth register it writes, the lanes it
still writes and their values, the scratchpad bytes of a kind-10 destination, the registers that its last-read marks kill (R32),
the flags it will set and the completion flag it lowers. -/
structure LanePending where
  id : Nat
  reg : Option Nat
  mask : Mask
  value : LaneVec
  cells : List (Nat × Byte)
  marks : List Nat
  aflags : BitVec 6
  flag : Option Nat
  clause : Nat
  deriving DecidableEq, Repr

/-- A parked memory access (R186): the stream, the unfinished lanes, the request it waits for and what is
known of its outcome: none while outstanding; the address of the lowest unfinished lane;
the address and level of the entry it waits for; its word; and whether the access is the fetch of a word. -/
structure Parked where
  lane : Bool
  mask : Mask
  die : Nat
  request : Nat
  outcome : Option Bool
  first : Word
  addr : Word
  level : Nat
  word : BitVec 96
  fetch : Bool
  deriving DecidableEq, Repr

/-- A page request that an engine operation or a fabric operation waits for, or has seen end (R187, R243, R288, R396). -/
structure Asked where
  die : Nat
  request : Nat
  outcome : Option Bool
  level : Nat
  addr : Word
  deriving DecidableEq, Repr

/-- A store held in the speculative buffer (R311): the bytes by place, and the key of the mapping. -/
structure HeldStore where
  cells : List (Nat × Byte)
  key : Option Nat
  deriving DecidableEq, Repr

/-- A register line as it was before the fence (R311). -/
structure ShadowReg where
  reg : Nat
  dead : Bool
  value : LaneVec
  deriving DecidableEq, Repr

/-- What the fence checkpoints of a fibre (R311). -/
structure Checkpoint where
  sregs : Vector Word 64
  preds : Vector Mask 8
  em : Mask
  aflags : Word
  gens : Vector Lane 32
  spc : Word
  clauses : List Clause
  running : Option Running
  flags : Vector (BitVec 4) 12
  spend : List ScalarPending
  lpend : List LanePending
  deriving DecidableEq, Repr

/-- A pending FENCE (R310 to R312). -/
structure Fence where
  scope : Nat
  engines : Bool
  remote : Bool
  limit : Nat
  checkpoint : Checkpoint
  reads : List Nat
  stores : List HeldStore
  shadows : List ShadowReg
  heldTrap : Option (Bool × Trap × BitVec 96)
  issued : Nat
  rolledBack : Bool
  deriving DecidableEq, Repr

/-- A fibre (R19 to R29, R41). A stall is kept with the S bit that it behaves by (R39, R40); `lRaised` is the flag that the lane
word at LPC has raised already (R186, R193), `replayOf` marks a replay without toll and the level and address of the request that ended (R187, R288), `fetchOf` the same for a
parked fetch of a stream, `cbarDone` the CBAR that has arrived already: its address, barrier and the generation it waits for (R212), `trapped` whether
the fibre has taken a trap since it started (R429), `routeAsked` the page that the routing engine waits for before it takes the fibre's next
record (R417, R418). -/
structure Fibre where
  sregs : Vector Word 64
  preds : Vector Mask 8
  em : Mask
  flags : Vector (BitVec 4) 12
  aflags : Word
  gens : Vector Lane 32
  spc : Word
  lcbase : Word
  window : Word
  role : Nat
  index : Nat
  clauses : List Clause
  running : Option Running
  spend : List ScalarPending
  lpend : List LanePending
  nextId : Nat
  sStall : Option (Stall × Bool)
  lStall : Option (Stall × Bool)
  sWait : Option Wait
  waitWord : BitVec 32
  handler : Option Frame
  frozen : Bool
  parked : Option Parked
  sReplay : Option Mask
  lReplay : Option Mask
  lRaised : Option Nat
  replayOf : Option (Nat × Word)
  fetchOf : Option (Bool × Nat × Word)
  cbarDone : Option (Word × Nat × BitVec 16)
  trapped : Bool
  ended : Bool
  arrived : Option Arrival
  fence : Option Fence
  q0 : List Word
  q1 : List Word
  q2 : List Word
  q3 : List Word
  q3lost : Bool
  q4 : List Word
  q5 : List Word
  session : Option Nat
  routeAsked : Option Asked
  deriving DecidableEq, Repr

/-- The state of a register line (R30). -/
inductive LineState where
  | clean | dirty
  | evictable (dirty : Bool)
  deriving DecidableEq, Repr

/-- A register line that is held; an Invalid line is absent (R30). `dead` keeps the dead bits of an evictable line. -/
structure Line where
  tag : Nat
  state : LineState
  dead : BitVec 4
  data : Vector LaneVec 4
  deriving DecidableEq, Repr

/-- What the writes that completed in one clock have left to the fibres of a berth (R37): the clock, and for each register the writer and its lanes. -/
structure Writes where
  clock : Nat
  made : List (Nat × Nat × Mask)
  deriving DecidableEq, Repr

/-- A warp slot (R19, R28, R30, R39). It is held (R40) while a stream of its current fibre is stalled without the S bit. `latent` gives the bad bits
not yet met of each 8-byte unit of its register lines, `poison` the units marked poisoned (R217, R218): unit 16 × register + lane / 2. -/
structure Slot where
  current : Nat
  dead : BitVec 256
  lines : Tab Line
  latent : Tab Nat
  poison : List Nat
  wrote : Writes
  deriving DecidableEq, Repr

/-! ### The core and its crew -/

/-- A crew or deck barrier (R210, R262). -/
structure Barrier where
  expected : Nat
  arrived : Nat
  gen : BitVec 16
  deriving DecidableEq, Repr

/-- A fabric operation's four words (R393). -/
structure FabricWords where
  w0 : Word
  w1 : Word
  w2 : Word
  w3 : Word
  deriving DecidableEq, Repr

/-- A triggered send held by a landing unit (R413): the place of its landing word, the generation, the operation,
and the arming fibre with the serial of its crew. -/
structure Armed where
  id : Nat
  place : Nat
  gen : BitVec 16
  op : FabricWords
  ctx : Nat
  fibre : Nat
  serial : Nat
  flag : Option Nat
  deriving DecidableEq, Repr

/-- The states of an active bank (R214). The standby bank's Staging and Loaded are `Core.staging` and its content. -/
inductive BankState where
  | empty | running | halted
  deriving DecidableEq, Repr

/-- One bank of a core's stores (R199, R200, R217). `units` lists the units that are no longer fresh:
0-191 scratchpad blocks, 192-207 tiles, 208-215 accumulators. `latent` gives the bad bits not yet met of an 8-byte unit,
`poison` the units marked poisoned; a unit is named by its offset in the on-chip window divided by 8. -/
structure Bank where
  state : BankState
  store : Tab Byte
  units : List Nat
  latent : Tab Nat
  poison : List Nat
  armed : List Armed
  deriving DecidableEq, Repr

/-- A role entry of a launch block (R328). -/
structure Role where
  entry : Word
  count : Nat
  supervisor : Bool
  window : Word
  scalarCarry : BitVec 64
  laneCarry : BitVec 256
  laneBase : Word
  deriving DecidableEq, Repr

/-- A launch block (R328). -/
structure LaunchBlock where
  idempotent : Bool
  berths : Nat
  bi : BitVec 32
  bm : BitVec 32
  footprint : Nat
  accMask : BitVec 8
  tileMask : BitVec 16
  roles : List Role
  deriving DecidableEq, Repr

/-- A continuation record (R322). -/
structure Record where
  w0 : Word
  w1 : Word
  w2 : Word
  w3 : Word
  deriving DecidableEq, Repr

/-- Where a crew is in the life of its phase (R331). -/
inductive CrewState where
  | running
  | saving (full : Bool)
  | draining
  deriving DecidableEq, Repr

/-- How a crew's phase ends once it has drained (R331, R219, R330). -/
inductive CrewEnd where
  | phase (x y : Word)
  | resume
  | join (x : Word)
  | exit
  | faulted
  | killed
  | lost
  deriving DecidableEq, Repr

/-- The fields of a context descriptor as one admission has read them (R319, R329). -/
structure Admitted where
  gen : BitVec 16
  tenant : BitVec 12
  priv : Bool
  prot : Bool
  topUp : Bool
  keySlot : Nat
  root : Nat
  imageBase : Word
  sealedBase : Word
  stackTop : Word
  stackBytes : Word
  statusArea : Word
  deriving DecidableEq, Repr

/-- How a crew's addresses are translated beside what its context holds: the descriptor fields of its admission and its heap registers (R276 to
R278). -/
structure View where
  own : Admitted
  heapBase : Word
  heapLimit : Word
  heapOffset : Word
  heapRejected : Bool
  deriving DecidableEq, Repr

/-- The join link of a crew (R340, R341): the address of a join record, and how the crew that named it saw addresses. -/
structure Link where
  addr : Word
  view : View
  deriving DecidableEq, Repr

/-- A crew (R197, R198, R210, R227, R232, R277, R329, R333). -/
structure Crew where
  ctx : Nat
  own : Admitted
  serial : Nat
  gen : BitVec 16
  record : Record
  block : LaunchBlock
  deck : Nat
  index : Nat
  area : Nat
  frames : List Nat
  state : CrewState
  ending : Option CrewEnd
  saved : Bool
  bi : BitVec 32
  bm : BitVec 32
  grace : BitVec 9
  g : Bool
  graceClock : Nat
  yields : BitVec 32
  td : Vector Word 16
  fb : Vector Word 4
  heapBase : Word
  heapLimit : Word
  heapOffset : Word
  heapRejected : Bool
  trapbase : Word
  barriers : Vector Barrier 8
  notices : List Word
  noticesLost : Bool
  phaseArgs : Option (Word × Word)
  joinArg : Option Word
  joinLink : Option Link
  relaunches : Nat
  /-- The START or PHASE record that began the phase and the carved budgets, for a relaunch (R219). -/
  carve : BitVec 32 × BitVec 32
  /-- The code words fetched since the phase began, as first fetched: virtual address, place and bytes (R63). -/
  code : List (Nat × Nat × List Byte)
  /-- The save area has been written back since it was assigned (R33, R429). -/
  written : Bool
  deriving DecidableEq, Repr

/-- A deck (R254, R262): its members are bank keys in member order. -/
structure Deck where
  cluster : Nat
  width : Nat
  members : List Nat
  barriers : List Barrier
  ctx : Nat
  deriving DecidableEq, Repr

/-- A core (R197, R198, R215, R220). -/
structure Core where
  side : Nat
  serial : BitVec 16
  retired : Bool
  keptOut : Bool
  flipWanted : Bool
  staging : Bool
  errors : List (Nat × Nat)
  deriving DecidableEq, Repr

/-- What an image of a saved crew holds beyond the published fields (R29, R321): the crew header, the
implementation state of each fibre with the address in `Fibre` fields that no layout publishes, and the sends kept. `home` is the core
to which the bank transfer engine will load the crew back (R348). -/
structure Saved where
  crew : Crew
  full : Bool
  home : Option Nat
  fibres : Tab Fibre
  armed : List Armed
  barriers : List Barrier
  deriving DecidableEq, Repr

/-- A held indirect launch (R344). -/
structure Launch where
  ctx : Nat
  template : Record
  view : View
  extent : Word
  carve : BitVec 32 × BitVec 32
  joinLink : Option Link
  most : Nat
  place : Nat
  gen : BitVec 16
  deriving DecidableEq, Repr

/-! ### Engine operations -/

/-- A tile or accumulator operation, a copy command or another operation that completes after it issues,
with its operands as captured at issue (R225, R239, R246, R261, R286, R290, R292). -/
inductive EngineOp where
  | tzero (t : Nat)
  | tileLoad (t : Nat) (rowBytes : Nat) (rows : List Nat) (loc : Bool)
  | tileStore (t : Nat) (rowBytes : Nat) (rows : List Nat) (loc : Bool)
  | mma (acc a b : Nat) (m n k : Nat) (fb : Word) (density : Option Nat)
  | accz (acc : Nat) (fill : Lane)
  | accLoad (acc addr count : Nat)
  | accStore (acc addr count : Nat)
  | accConvert (acc addr m n : Nat) (fb : Word)
  | accMove (dst src : Nat)
  | publish (v n : Word) (exchanged : Bool)
  | cache (fn : Nat) (v : Word) (n : Nat)
  | tlbInvalidate (ctx : Nat) (addr : Option Word) (every : Bool)
  | swap (x y : Nat) (e1 e2 : Word)
  | nred (dst : Word) (src : Nat) (control : Word) (left : List Nat)
  | copy (header : Word) (words : List Word) (phase : Nat)
  | launch (l : Launch)
  deriving DecidableEq, Repr

/-- The part of a page of 512 KiB that an address lies in: its physical address, the key of its encryption, the pattern of a
collective region, the cache policy and the shadow bit. -/
structure Page where
  frame : Nat
  key : Option Nat
  collective : Option Nat
  policy : Nat
  shadowed : Bool
  deriving DecidableEq, Repr

/-- One byte of an access once translated: its physical address, its place (none where the window reaches no store, R202)
and the key of its mapping. -/
structure Spot where
  phys : Nat
  place : Option Nat
  page : Page
  deriving DecidableEq, Repr

/-- An arrival that a copy command still has to make (R245): its number, the local address of what it places where that is local, the bytes that it
places, and the landing word with the key of its mapping. -/
structure CopyArrival where
  k : Nat
  loc : Option Nat
  stores : List (Spot × Byte)
  place : Nat
  key : Option Nat
  deriving DecidableEq, Repr

/-- An operation in progress: the fibre and crew that issued it, the bank side of the crew, its completion flag. `kept` holds bytes of tiles and
accumulators that it reads as they were before a later write, `lost` the places where a later operation's value stays (R203, R226), `pages` the
translations made at its issue, by virtual address / 2^19 (R230, R293). -/
structure Engine where
  op : EngineOp
  fibre : Nat
  bank : Nat
  serial : Nat
  ctx : Nat
  flag : Option Nat
  aflags : BitVec 6
  arrivals : List CopyArrival
  status : Nat
  placed : Nat
  ready : Bool
  asked : Option Asked
  kept : Tab Byte
  lost : List Nat
  pages : Tab Page
  deriving DecidableEq, Repr

/-! ### The fabric -/

/-- A fabric operation that has been accepted and is not yet forgotten (R393 to R405); `refused` once one of its chunks has not left for its tenant
(R408). -/
structure FabricOp where
  words : FabricWords
  kind : Nat
  red : Nat
  queued : Bool
  taken : Bool
  fibre : Nat
  bank : Nat
  serial : Nat
  ctx : Nat
  core : Nat
  flag : Option Nat
  pattern : List (BitVec 16)
  members : Nat
  contributor : Nat
  remoteAddr : Word
  dest : Option Nat
  chunks : Nat
  sent : Nat
  left : Bool
  acks : List (Nat × Nat)
  void : Option Nat
  stopped : Bool
  refused : Bool
  data : List Byte
  asked : Option Asked
  deriving DecidableEq, Repr

/-- A RFLUSH in progress (R405): the operations it still waits for. -/
structure Flush where
  id : Nat
  fibre : Nat
  serial : Nat
  flag : Option Nat
  waits : List Nat
  deriving DecidableEq, Repr

/-- A port's state (R381, R408, R369), with the bytes of packets that it has received and sent (R432). -/
structure Port where
  window : List (BitVec 12)
  stats : Vector Word 8
  up : Bool
  received : Nat
  sent : Nat
  deriving DecidableEq, Repr

/-- A message or packet that has left the package (R382, R397, R399, R406, R415, R419). -/
inductive Sent where
  | packet (p : Packet)
  | reply (source : Nat) (r : Reply)
  | ack (source serial chunk : Nat)
  | value (source serial : Nat) (v : Word)
  | joined (m : Joined)
  | ready (crossing : Nat)
  | refused (crossing identity : Nat)
  | pause (crossing stop : Nat)
  | paused (crossing highest : Nat)
  | switch (crossing : Nat)
  | resume (crossing : Nat)
  | header (target : Nat) (h : RoutingHeader)
  | decision (source : Nat) (d : RoutingDecision)
  | payload (target : Nat) (p : RoutingPayload)
  deriving DecidableEq, Repr

/-- A context's membership of a crossing (R380 to R384). -/
structure Membership where
  crossing : Nat
  axes : Nat
  extents : List Nat
  coord : List Nat
  pauseCoord : List Nat
  ready : Bool
  deriving DecidableEq, Repr

/-- What the coordinator of a crossing records (R382). -/
structure Coordinator where
  recorded : List (List Nat × Nat)
  deriving DecidableEq, Repr

/-- A gang pause of a crossing at this package (R415, R416): `begun` once its PAUSE has arrived here, `resuming` once its RESUME has and the member
switches back. -/
structure Pause where
  stop : Nat
  begun : Bool
  initiator : Bool
  pausedFrom : List Nat
  drained : Bool
  switched : Bool
  resuming : Bool
  deriving DecidableEq, Repr

/-- A header held at the destination of a session (R419). -/
structure HeldHeader where
  header : RoutingHeader
  order : Nat
  batch : Nat
  round : Nat
  deriving DecidableEq, Repr

/-- An accepted token of a batch: its header, expert and slot (R419). -/
structure Accepted where
  header : RoutingHeader
  slot : Nat
  deriving DecidableEq, Repr

/-- A batch that is closed (R419, R421): what it accepted; acceptances go out once its tape entries are appended. -/
structure TapeBatch where
  batch : Nat
  accepted : List Accepted
  deriving DecidableEq, Repr

/-- A tape entry of an open session (R421): its expert and batch, and the virtual address of its dependence counter; none where the append was
dropped. -/
structure TapeEntry where
  expert : Nat
  batch : Nat
  counter : Option Word
  deriving DecidableEq, Repr

/-- An open session of a routing engine (R417 to R421): its block, its experts as package, capacity, opcode and offset, the headers held, what round 1
of the batch `ranked` has accepted, the first batches whose rounds are still open, the batch between its two closes with the time of the second, and
the TIME of the latest resume (R416). -/
structure Session where
  number : Nat
  engine : Nat
  ctx : Nat
  block : List Byte
  experts : List (Nat × Nat × Nat × Nat)
  headers : List HeldHeader
  round1 : List Accepted
  batch1 : Nat
  batch2 : Nat
  ranked : Option (Nat × Nat)
  appends : List TapeBatch
  entries : List TapeEntry
  resumed : Nat
  deriving DecidableEq, Repr

/-- A token that its fibre still expects a word for (R417, R420): its choices and the packages that host them; its batch; `round` 0 and 2 where its header for round 1 or 2 is to leave, 1 and 3
where it has left; once it is accepted its batch and slot, the pieces of its payload that have left, whether they go out void, and the page that the
next one waits for. -/
structure Token where
  fibre : Nat
  serial : Nat
  ctx : Nat
  session : Nat
  first : Nat
  second : Nat
  hosts : Nat × Nat
  token : BitVec 32
  payload : Word
  size : Nat
  round : Nat
  batch : Nat
  fate : Option (Nat × Nat)
  sent : Nat
  void : Bool
  asked : Option Asked
  deriving DecidableEq, Repr

/-! ### Contexts, partitions and the scheduler -/

/-- A pattern-table entry (R387). -/
structure Pattern where
  axis : List (BitVec 16)
  control : BitVec 16
  deriving DecidableEq, Repr

/-- A registered context (R318, R319). -/
structure Context where
  gen : BitVec 16
  tenant : BitVec 12
  priv : Bool
  prot : Bool
  topUp : Bool
  partition : Nat
  sailing : Nat
  keySlot : Nat
  areas : Nat
  root : Nat
  heapBase : Word
  heapLimit : Word
  heapOffset : Word
  trapbase : Word
  imageBase : Word
  sealedBase : Word
  stackTop : Word
  stackBytes : Word
  statusArea : Word
  descriptor : Nat
  started : Bool
  inUse : List Nat
  override : Option Nat
  patterns : Vector Pattern 64
  member : Option Membership
  refused : Bool
  /-- The places of join records that a JOIN has made HELD, with the join link that passes to their continuation (R341). -/
  joinLinks : List (Nat × Link)
  deriving DecidableEq, Repr

/-- A record in the run-queue store at an address of that store (R324 to R326), or held until its crossing is ready (R382). -/
structure Queued where
  addr : Nat
  record : Record
  ctx : Nat
  cluster : Nat
  time : Nat
  held : Bool
  joinLink : Option Link
  carve : BitVec 32 × BitVec 32
  relaunches : Nat
  deriving DecidableEq, Repr

/-- A partition (R365, R374). -/
structure Partition where
  dies : List Nat
  tenant : BitVec 12
  active : Bool
  key : Nat
  deriving DecidableEq, Repr

/-- A page request (R287): its bytes, and the time at which it was posted, if it has been (R288). -/
structure Request where
  addr : Word
  ctx : Nat
  gen : BitVec 16
  number : Nat
  kind : Nat
  access : Nat
  level : Nat
  posted : Option Nat
  deriving DecidableEq, Repr

/-- The page-request unit of a die (R287, R360). -/
structure Die where
  prqBase : Word
  prqTail : Nat
  prqHead : Nat
  requests : List Request
  nextRequest : Nat
  deriving DecidableEq, Repr

/-- A cached translation step (R285): the context, the level, the address bits above it, where the entry lies and the entry. -/
structure TlbEntry where
  ctx : Nat
  place : Nat
  level : Nat
  tag : Nat
  entry : Word
  deriving DecidableEq, Repr

/-- A submission page's status (R357). -/
structure Submission where
  refused : BitVec 16
  rcause : BitVec 8
  dcause : BitVec 8
  dbusy : Bool
  outcome : BitVec 8
  deriving DecidableEq, Repr

/-- A context key slot (R374). -/
structure KeySlot where
  tenant : BitVec 12
  key : List Byte
  deriving DecidableEq, Repr

/-- An event counter (R376). -/
structure Counter where
  select : Word
  value : Word
  deriving DecidableEq, Repr

/-- Boot and firmware state (R369 to R374); `since` is the time at which stage 3 was reached. -/
structure Boot where
  stage : Nat
  since : Nat
  fails : Nat
  reason : Nat
  harbour : Bool
  version : BitVec 16
  start : Nat
  image : List Byte
  running : List Byte
  deriving DecidableEq, Repr

/-- Limits, clocks and what the sensors read (R364, R366, R368); `stepped` is the time of the latest throttle step. -/
structure Health where
  powerLimit : Nat
  clockLimit : Nat
  throttle : Nat
  dieClock : Vector Nat 8
  junction : Vector Int 8
  stack : Vector Int 16
  power : Nat
  doubled : List Nat
  stop : Bool
  stepped : Nat
  deriving DecidableEq, Repr

/-- The mailbox (R355, R362): `running` is the code with which the last command started, `switching` whether it is a SWITCH_PARTITION that waits for the
flips that it asked for, `finished` the STATUS of a command that has ended and is still to complete. -/
structure Mailbox where
  request : Tab Byte
  response : Tab Byte
  status : BitVec 8
  opc : BitVec 8
  running : BitVec 8
  busy : Bool
  switching : Bool
  finished : Option (BitVec 8)
  deriving DecidableEq, Repr

/-- What the sensors of R364 and R366 read, as an input. -/
structure Readings where
  junction : Vector Int 8
  stack : Vector Int 16
  power : Nat
  deriving DecidableEq, Repr

/-- One entry of the schedule: which agent acts next, or what arrives from outside (the model's own). -/
inductive Turn where
  /-- The scalar stream of a fibre (its key) takes its turn. -/
  | scalar (fibre : Nat)
  /-- The lane stream of a fibre takes its turn. -/
  | lane (fibre : Nat)
  /-- An operation or event of the opcode table happens. -/
  | event (i : Instr)
  /-- Nothing happens; only time passes. -/
  | idle
  /-- The next request of a token leaves: its header, or a piece of its payload. -/
  | payload (token : Nat)
  /-- A storage upset: `bits` bits of an 8-byte unit of a core store (R217); unit 2^19 + k × 4096 + u stands for unit u of the register lines of warp
  slot k of the core. -/
  | upset (core side unit bits : Nat)
  /-- A storage upset of the bits at some positions, below 512, in a 64-byte sector of device memory (R295). -/
  | memUpset (sector : Nat) (bits : List Nat)
  /-- A storage upset of `bits` bits in a sector that an L2 slice holds (R269). -/
  | l2Upset (cluster sector bits : Nat)
  /-- A tag of an L2 slice fails in both copies (R270). -/
  | tagFault (cluster : Nat)
  /-- The sensors read new values. -/
  | sense (r : Readings)
  /-- The host reads `n` bytes of the first memory BAR at an offset (R355). -/
  | barRead (offset n : Nat)
  /-- The host places the range through which it reaches device memory (R354). -/
  | setRange (base : Nat)
  deriving DecidableEq, Repr

/-- A line of 128 bytes that an L2 slice holds (R259): its cluster, its address / 128, and its valid and dirty sectors. -/
structure L2Line where
  cluster : Nat
  line : Nat
  valid : BitVec 2
  dirty : BitVec 2
  deriving DecidableEq, Repr

/-- What is reported to the management controller: a sector with an uncorrectable error by its physical address (R295), a retired core (R220), a
cluster fault (R270), and a fabric port that failed training (R369). -/
inductive Report where
  | memory (addr : Nat)
  | core (g : Nat)
  | cluster (c : Nat)
  | port (p : Nat)
  deriving DecidableEq, Repr

/-- The package. `flights` lists the routing packets that have left and are not yet acknowledged: context, token, and which of its packets (R415).
`tick`, `cur`, `latch` and `agenda` are the model's own; `time` is the real time since power-on in nanoseconds (R367). -/
structure State where
  tick : Nat
  clock : Nat
  time : Nat
  agenda : List Turn
  cur : Nat
  latch : BitVec 96
  mem : Tab Byte
  memLatent : Tab (List Nat)
  poison : List Nat
  ciphered : Tab Nat
  plainSectors : Tab Unit
  tlb : List TlbEntry
  l2 : List L2Line
  fibres : Tab Fibre
  slots : Tab Slot
  banks : Tab Bank
  crews : Tab Crew
  cores : Tab Core
  lost : List Nat
  keptOutClusters : List Nat
  decks : Tab Deck
  engines : Tab Engine
  nextSerial : Nat
  saved : Tab Saved
  contexts : Tab Context
  partitions : Tab Partition
  keySerial : Nat
  queue : List Queued
  launches : List Launch
  sealCounters : Tab Nat
  dies : Tab Die
  memArmed : List Armed
  fabricOps : Tab FabricOp
  flushes : List Flush
  wire : List Sent
  ports : Vector Port 16
  ptp : Word
  ptpInBounds : Bool
  coordinators : Tab Coordinator
  heldJoined : List (Nat × Joined)
  pauses : Tab Pause
  sessions : List Session
  tokens : Tab Token
  earlyHeaders : List (Nat × RoutingHeader)
  flights : List (Nat × Nat × Nat)
  shutSessions : List (Nat × Nat)
  mailbox : Mailbox
  submissions : Vector Submission 8
  keySlots : Tab KeySlot
  counters : Vector Counter 64
  boot : Boot
  health : Health
  msix : List Nat
  reports : List Report
  rangeBase : Nat
  hostRead : List Byte
  deriving DecidableEq, Repr

/-- Why the model stops where the spec gives no effect. -/
inductive Fault where
  /-- A meaning was called for a fibre that does not exist; raised by every meaning that acts on `State.cur` when no
  such fibre is in the table. A step never calls one so. Safe: no hardware behaviour corresponds to it. -/
  | noFibre
  /-- A lane meaning was called for a fibre whose lane stream has taken no clause; raised by the lane meanings. A step never
  calls one so. Safe: no hardware behaviour corresponds to it. -/
  | noClause
  deriving DecidableEq, Repr

/-- Why an instruction has no meaning. -/
inductive Refusal where
  /-- The instruction's arm has no meaning yet; raised by Dispatch only. Safe: nothing is claimed of it. -/
  | notModelled (mnemonic : String)
  deriving DecidableEq, Repr

/-- An event counter after reset (R376). -/
def Counter.zero : Counter := { select := 0, value := 0 }

/-- A port after reset (R381, R408): no tenant, counters zero, not trained. -/
def Port.zero : Port := { window := [], stats := Vector.replicate 8 0, up := false, received := 0, sent := 0 }

/-- A submission page after reset (R357). -/
def Submission.zero : Submission :=
  { refused := 0, rcause := 0, dcause := 0, dbusy := false, outcome := 0 }

/-- The package right after reset (R42, R369): the boot ROM runs, nothing is configured, registered or admitted, and
memory lists nothing. -/
def State.reset : State where
  tick := 0
  clock := 0
  time := 0
  agenda := []
  cur := 0
  latch := 0
  mem := []
  memLatent := []
  poison := []
  ciphered := []
  plainSectors := []
  tlb := []
  l2 := []
  fibres := []
  slots := []
  banks := []
  crews := []
  cores := []
  lost := []
  keptOutClusters := []
  decks := []
  engines := []
  nextSerial := 0
  saved := []
  contexts := []
  partitions := []
  keySerial := 0
  queue := []
  launches := []
  sealCounters := []
  dies := []
  memArmed := []
  fabricOps := []
  flushes := []
  wire := []
  ports := Vector.replicate 16 Port.zero
  ptp := 0
  ptpInBounds := false
  coordinators := []
  heldJoined := []
  pauses := []
  sessions := []
  tokens := []
  earlyHeaders := []
  flights := []
  shutSessions := []
  mailbox := { request := [], response := [], status := 0, opc := 0, running := 0, busy := false, switching := false, finished := none }
  submissions := Vector.replicate 8 Submission.zero
  keySlots := []
  counters := Vector.replicate 64 Counter.zero
  boot := { stage := 1, since := 0, fails := 0, reason := 0, harbour := false, version := 0, start := 0, image := [], running := [] }
  health := { powerLimit := 3200, clockLimit := 1050, throttle := 105, dieClock := Vector.replicate 8 1050,
              junction := Vector.replicate 8 0, stack := Vector.replicate 16 0, power := 0, doubled := [], stop := false, stepped := 0 }
  msix := []
  reports := []
  rangeBase := 0
  hostRead := []

end Sys2Proof.Machine
end

