-- ==== Sys2Proof/Decode.lean ====
section
/-! DEFINITION. The encodings (02_encoding.md): the six scalar formats (R44), the opcode map (R46, R47), the lane
word (R52 to R57), the checks of R60 in the order of their subcauses, and after them the encoder, written from the same tables.
A word that is not an instruction is rejected with its subcause. -/

namespace Sys2Proof

/-! ### Scalar words -/

/-- A scalar word of format RR (R44). -/
def wordRR (op : Nat) (sw : Bool) (d a b : BitVec 6) (f7 : Nat) : BitVec 32 :=
  BitVec.ofNat 32 (op * 2 ^ 26 + sw.toNat * 2 ^ 25 + d.toNat * 2 ^ 19 + a.toNat * 2 ^ 13 + b.toNat * 2 ^ 7 + f7)

/-- A scalar word of format RI (R44). -/
def wordRI (op : Nat) (sw : Bool) (d : BitVec 6) (f3 : Nat) (imm : BitVec 16) : BitVec 32 :=
  BitVec.ofNat 32 (op * 2 ^ 26 + sw.toNat * 2 ^ 25 + d.toNat * 2 ^ 19 + f3 * 2 ^ 16 + imm.toNat)

/-- A scalar word of format BF or CF (R44): a 5-bit field and a 20-bit field. -/
def wordBF (op : Nat) (sw : Bool) (c5 : Nat) (off : BitVec 20) : BitVec 32 :=
  BitVec.ofNat 32 (op * 2 ^ 26 + sw.toNat * 2 ^ 25 + c5 * 2 ^ 20 + off.toNat)

/-- A scalar word of format MF (R44). -/
def wordMF (op : Nat) (sw : Bool) (d base : BitVec 6) (f3 : Nat) (off : BitVec 10) : BitVec 32 :=
  BitVec.ofNat 32 (op * 2 ^ 26 + sw.toNat * 2 ^ 25 + d.toNat * 2 ^ 19 + base.toNat * 2 ^ 13 + f3 * 2 ^ 10 + off.toNat)

/-- A scalar word of format QF (R44). -/
def wordQF (op : Nat) (sw : Bool) (x y flag z : Nat) (fn : Nat) : BitVec 32 :=
  BitVec.ofNat 32 (op * 2 ^ 26 + sw.toNat * 2 ^ 25 + x * 2 ^ 19 + y * 2 ^ 13 + flag * 2 ^ 9 + z * 2 ^ 3 + fn)

/-- Bits [lo+len-1 : lo] of a word (R8). -/
def bits {n : Nat} (w : BitVec n) (lo len : Nat) : BitVec len := w.extractLsb' lo len

/-- The major opcode (R44). -/
def fieldOp (w : BitVec 32) : Nat := (bits w 26 6).toNat

/-- The S bit (R43). -/
def fieldS (w : BitVec 32) : Bool := bits w 25 1 == 1#1

/-- The constructor of a three-register instruction. -/
abbrev Three := Bool → BitVec 6 → BitVec 6 → BitVec 6 → Instr

/-- What a check of R60 gives: the instruction, or the lowest subcause that applies. -/
abbrev Checked := Except Subcause Instr

/-- The subcause of the first listed condition that fails, or the instruction. The conditions stand in the order of
the subcauses' numbers. -/
def checked {α : Type} (conditions : List (Bool × Subcause)) (i : α) : Except Subcause α :=
  match conditions.find? (fun c => !c.1) with
  | some c => .error c.2
  | none => .ok i

/-- OP 0x00 by F7 (R47, R119). -/
def arithOf (f : Nat) : Option Three :=
  match f with
  | 0x00 => some .add
  | 0x01 => some .sub
  | 0x02 => some .mul
  | 0x03 => some .mulh
  | 0x04 => some .mulhn
  | 0x05 => some .div
  | 0x06 => some .divn
  | 0x07 => some .rem
  | 0x08 => some .remn
  | 0x09 => some .min
  | 0x0A => some .max
  | 0x0B => some .minn
  | 0x0C => some .maxn
  | _ => none

/-- OP 0x01 by F7, the two-source functions (R47, R121). -/
def logicOf (f : Nat) : Option Three :=
  match f with
  | 0x00 => some .and
  | 0x01 => some .or
  | 0x02 => some .xor
  | 0x03 => some .andn
  | 0x04 => some .shl
  | 0x05 => some .shr
  | 0x06 => some .sar
  | 0x07 => some .rotr
  | _ => none

/-- OP 0x01 by F7, the one-source functions, whose B is reserved (R47, R121). -/
def countOf (f : Nat) : Option (Bool → BitVec 6 → BitVec 6 → Instr) :=
  match f with
  | 0x08 => some .clz
  | 0x09 => some .ctz
  | 0x0A => some .popc
  | 0x0B => some .brev
  | _ => none

/-- OP 0x02 by F7 (R47, R122). -/
def compareOf (f : Nat) : Option Three :=
  match f with
  | 0x00 => some .seq
  | 0x01 => some .sne
  | 0x02 => some .slt
  | 0x03 => some .sle
  | 0x04 => some .sltn
  | 0x05 => some .slen
  | _ => none

/-- OP 0x10 by F3, the forms with a 16-bit immediate (R47, R125). -/
def immOf (f : Nat) : Option (Bool → BitVec 6 → BitVec 16 → Instr) :=
  match f with
  | 0 => some .addi
  | 1 => some .andi
  | 2 => some .ori
  | 3 => some .xori
  | 7 => some .muli
  | _ => none

/-- OP 0x10 by F3, the shifts, whose IMM16[15:6] is reserved (R47, R125). -/
def shiftImmOf (f : Nat) : Option (Bool → BitVec 6 → BitVec 6 → Instr) :=
  match f with
  | 4 => some .shli
  | 5 => some .shri
  | 6 => some .sari
  | _ => none

/-- OP 0x12 by F3 (R47, R127). -/
def compareImmOf (f : Nat) : Option (Bool → BitVec 6 → BitVec 16 → Instr) :=
  match f with
  | 0 => some .seqi
  | 1 => some .snei
  | 2 => some .slti
  | 3 => some .slei
  | 4 => some .sltni
  | 5 => some .sleni
  | _ => none

/-- OP 0x20 by F3 (R47, R134). -/
def loadOf (f : Nat) : Option (Bool → BitVec 6 → BitVec 6 → BitVec 10 → Instr) :=
  match f with
  | 0 => some .ldb
  | 1 => some .ldh
  | 2 => some .ldw
  | 3 => some .ldd
  | 4 => some .ldbn
  | 5 => some .ldhn
  | 6 => some .ldwn
  | _ => none

/-- OP 0x21 by F3 (R47, R134). -/
def storeOf (f : Nat) : Option (Bool → BitVec 6 → BitVec 6 → BitVec 10 → Instr) :=
  match f with
  | 0 => some .stb
  | 1 => some .sth
  | 2 => some .stw
  | 3 => some .std
  | _ => none

/-- OP 0x22 by F3 (R47, R134). -/
def scratchLoadOf (f : Nat) : Option (Bool → BitVec 6 → BitVec 6 → BitVec 10 → Instr) :=
  match f with
  | 0 => some .sldb
  | 1 => some .sldh
  | 2 => some .sldw
  | 3 => some .sldd
  | 4 => some .sldbn
  | 5 => some .sldhn
  | 6 => some .sldwn
  | _ => none

/-- OP 0x23 by F3 (R47, R134). -/
def scratchStoreOf (f : Nat) : Option (Bool → BitVec 6 → BitVec 6 → BitVec 10 → Instr) :=
  match f with
  | 0 => some .sstb
  | 1 => some .ssth
  | 2 => some .sstw
  | 3 => some .sstd
  | _ => none

/-- OP 0x26 by F3 (R47, R313). -/
def acquireOf (f : Nat) : Option (Bool → BitVec 6 → BitVec 6 → BitVec 10 → Instr) :=
  match f with
  | 0 => some .ldacqw
  | 1 => some .ldacqd
  | 2 => some .strelw
  | 3 => some .streld
  | _ => none

/-- OP 0x24 by F7 (R47, R139). -/
def atomicOf (f : Nat) : Option Three :=
  match f with
  | 0x00 => some .aaddw
  | 0x01 => some .aswapw
  | 0x02 => some .acasw
  | 0x03 => some .aminw
  | 0x04 => some .amaxw
  | 0x05 => some .aminnw
  | 0x06 => some .amaxnw
  | 0x07 => some .aandw
  | 0x08 => some .aorw
  | 0x09 => some .axorw
  | 0x10 => some .aaddd
  | 0x11 => some .aswapd
  | 0x12 => some .acasd
  | 0x13 => some .amind
  | 0x14 => some .amaxd
  | 0x15 => some .aminnd
  | 0x16 => some .amaxnd
  | 0x17 => some .aandd
  | 0x18 => some .aord
  | 0x19 => some .axord
  | _ => none

/-- OP 0x25 by F7 (R47, R139). -/
def scratchAtomicOf (f : Nat) : Option Three :=
  match f with
  | 0x00 => some .saaddw
  | 0x01 => some .saswapw
  | 0x02 => some .sacasw
  | 0x03 => some .saminw
  | 0x04 => some .samaxw
  | 0x05 => some .saminnw
  | 0x06 => some .samaxnw
  | 0x07 => some .saandw
  | 0x08 => some .saorw
  | 0x09 => some .saxorw
  | 0x10 => some .saaddd
  | 0x11 => some .saswapd
  | 0x12 => some .sacasd
  | 0x13 => some .samind
  | 0x14 => some .samaxd
  | 0x15 => some .saminnd
  | 0x16 => some .samaxnd
  | 0x17 => some .saandd
  | 0x18 => some .saord
  | 0x19 => some .saxord
  | _ => none

/-- Formats RR with three registers and F7 giving the function. -/
def decodeThree (k : Nat → Option Three) (w : BitVec 32) : Checked :=
  match k (bits w 0 7).toNat with
  | none => .error .unassigned
  | some c => .ok (c (fieldS w) (bits w 19 6) (bits w 13 6) (bits w 7 6))

/-- OP 0x01: two-source functions, and bit counts whose B is reserved (R121). -/
def decodeLogic (w : BitVec 32) : Checked :=
  match countOf (bits w 0 7).toNat with
  | some c => checked [(bits w 7 6 == 0#6, .reserved)] (c (fieldS w) (bits w 19 6) (bits w 13 6))
  | none => decodeThree logicOf w

/-- OP 0x10: the immediate ALU (R125). -/
def decodeImm (w : BitVec 32) : Checked :=
  match shiftImmOf (bits w 16 3).toNat with
  | some c => checked [(bits w 6 10 == 0#10, .reserved)] (c (fieldS w) (bits w 19 6) (bits w 0 6))
  | none =>
    match immOf (bits w 16 3).toNat with
    | some c => .ok (c (fieldS w) (bits w 19 6) (bits w 0 16))
    | none => .error .unassigned

/-- OP 0x11: MOVI and MOVK (R126). -/
def decodeMove (w : BitVec 32) : Checked :=
  if bits w 16 3 == 0#3 then .ok (.movi (fieldS w) (bits w 19 6) (bits w 0 16))
  else if bits w 18 1 == 1#1 then .ok (.movk (fieldS w) (bits w 19 6) (bits w 16 2) (bits w 0 16))
  else .error .unassigned

/-- OP 0x12: compares with an immediate (R127). -/
def decodeCompareImm (w : BitVec 32) : Checked :=
  match compareImmOf (bits w 16 3).toNat with
  | some c => .ok (c (fieldS w) (bits w 19 6) (bits w 0 16))
  | none => .error .unassigned

/-- The formats MF (R134, R313). -/
def decodeMem (k : Nat → Option (Bool → BitVec 6 → BitVec 6 → BitVec 10 → Instr)) (w : BitVec 32) : Checked :=
  match k (bits w 10 3).toNat with
  | some c => .ok (c (fieldS w) (bits w 19 6) (bits w 13 6) (bits w 0 10))
  | none => .error .unassigned

/-- OP 0x1E: JR and CALLR, whose D and B are reserved (R131). -/
def decodeJump (w : BitVec 32) : Checked :=
  let form := [(bits w 19 6 == 0#6 && bits w 7 6 == 0#6, Subcause.reserved)]
  match (bits w 0 7).toNat with
  | 0 => checked form (.jr (fieldS w) (bits w 13 6))
  | 1 => checked form (.callr (fieldS w) (bits w 13 6))
  | _ => .error .unassigned

/-- OP 0x1F: clause issue and flag waits (R132). -/
def decodeClause (w : BitVec 32) : Checked :=
  match (bits w 20 5).toNat with
  | 0 => .ok (.cls (fieldS w) (bits w 0 20))
  | 1 => checked [(bits w 12 8 == 0#8, .reserved)] (.fwait (fieldS w) (bits w 0 12))
  | 2 => .ok (.clswait (fieldS w) (bits w 0 20))
  | _ => .error .unassigned

/-- OP 0x2C: moves of predicates, `em` and flags (R144). -/
def decodeMaskMove (w : BitVec 32) : Checked :=
  let d := bits w 19 6
  let a := bits w 13 6
  let b0 := bits w 7 6 == 0#6
  match (bits w 0 7).toNat with
  | 0 => checked [(b0, .reserved), (a.toNat < 8, .range)] (.mfp (fieldS w) d a)
  | 1 => checked [(b0, .reserved), (d.toNat < 8, .range)] (.mtp (fieldS w) d a)
  | 2 => checked [(b0 && a == 0#6, .reserved)] (.mfem (fieldS w) d)
  | 3 => checked [(b0 && d == 0#6, .reserved)] (.mtem (fieldS w) a)
  | 4 => checked [(b0 && a == 0#6, .reserved)] (.mff (fieldS w) d)
  | _ => .error .unassigned

/-- The system registers of R48 by number. -/
def sysRegListed (n : BitVec 16) : Bool :=
  let k := n.toNat
  (1 ≤ k && k ≤ 0x0B) || (0x18 ≤ k && k ≤ 0x1A) || (0x20 ≤ k && k ≤ 0x33) || (0x40 ≤ k && k ≤ 0x7F) ||
    k == 0x8000 || (0x8010 ≤ k && k ≤ 0x8012) || k == 0xC001

/-- A FLAG field of an instruction that sets a flag: 0 to 11, or 0xF for none (R45). -/
def flagOk (f : BitVec 4) : Bool := f.toNat < 12 || f == 15#4

/-- The words of format QF (R44, R46): the fields X, Y, FLAG, Z of the word and what a form allows of them.
`xBits`, `yBits`, `zBits` give how many low bits of X, Y and Z the form uses (the others are reserved),
`sets` whether it sets a flag, `limit` the limits of R60 subcause 4. -/
def checkQF (w : BitVec 32) (xBits yBits zBits : Nat) (sets limit : Bool) (i : Instr) : Checked :=
  checked
    [((bits w 19 6).toNat < 2 ^ xBits && (bits w 13 6).toNat < 2 ^ yBits && (bits w 3 6).toNat < 2 ^ zBits &&
        (sets || bits w 9 4 == 15#4), .reserved),
     (limit && (!sets || flagOk (bits w 9 4)), .range)] i


/-- R309: scope code 0, or R = 1 with a scope other than crossing, is beyond the limit. -/
def scopeOk (w : BitVec 32) : Bool :=
  bits w 19 3 != 0#3 && (bits w 23 1 == 0#1 || bits w 19 3 == 7#3)

/-- OP 0x27 by FN (R46). -/
def decodeQ27 (w : BitVec 32) : Checked :=
  match (bits w 0 3).toNat with
  | 0 => checkQF w 5 0 0 false (scopeOk w) (.fence (fieldS w) (bits w 23 1) (bits w 22 1) (bits w 19 3))
  | 1 => checkQF w 5 0 0 false (scopeOk w) (.fencen (fieldS w) (bits w 23 1) (bits w 22 1) (bits w 19 3))
  | 2 => checkQF w 6 6 0 true true (.cwb (fieldS w) (bits w 19 6) (bits w 13 6) (bits w 9 4))
  | 3 => checkQF w 6 6 0 true true (.cinv (fieldS w) (bits w 19 6) (bits w 13 6) (bits w 9 4))
  | 4 => checkQF w 6 6 0 true true (.cpf (fieldS w) (bits w 19 6) (bits w 13 6) (bits w 9 4))
  | 5 => checkQF w 6 6 6 true true (.nred (fieldS w) (bits w 19 6) (bits w 13 6) (bits w 9 4) (bits w 3 6))
  | _ => .error .unassigned

/-- OP 0x30 by FN (R46). -/
def decodeQ30 (w : BitVec 32) : Checked :=
  match (bits w 0 3).toNat with
  | 0 => checkQF w 4 6 0 false true (.tdset (fieldS w) (bits w 19 4) (bits w 13 6))
  | 1 => checkQF w 4 6 0 false true (.tdget (fieldS w) (bits w 19 4) (bits w 13 6))
  | 2 => checkQF w 2 6 0 false true (.fbset (fieldS w) (bits w 19 2) (bits w 13 6))
  | 3 => checkQF w 4 0 0 true true (.tzero (fieldS w) (bits w 19 4) (bits w 9 4))
  | _ => .error .unassigned

/-- OP 0x31 by FN (R46). -/
def decodeQ31 (w : BitVec 32) : Checked :=
  match (bits w 0 3).toNat with
  | 0 => checkQF w 4 6 6 true true (.tld (fieldS w) (bits w 19 4) (bits w 13 6) (bits w 9 4) (bits w 3 6))
  | 1 => checkQF w 4 6 6 true true (.tst (fieldS w) (bits w 19 4) (bits w 13 6) (bits w 9 4) (bits w 3 6))
  | 2 => checkQF w 4 6 6 true true (.tldl (fieldS w) (bits w 19 4) (bits w 13 6) (bits w 9 4) (bits w 3 6))
  | 3 => checkQF w 4 6 6 true true (.tstl (fieldS w) (bits w 19 4) (bits w 13 6) (bits w 9 4) (bits w 3 6))
  | _ => .error .unassigned

/-- OP 0x32 by FN (R46). -/
def decodeQ32 (w : BitVec 32) : Checked :=
  match (bits w 0 3).toNat with
  | 0 => checkQF w 5 4 4 true true (.mma (fieldS w) (bits w 22 2) (bits w 19 3) (bits w 13 4) (bits w 9 4) (bits w 3 4))
  | 1 => checkQF w 6 4 4 true (bits w 13 1 == 0#1) (.mmas (fieldS w) (bits w 24 1) (bits w 22 2) (bits w 19 3) (bits w 13 4) (bits w 9 4) (bits w 3 4))
  | _ => .error .unassigned

/-- OP 0x33 by FN (R46). -/
def decodeQ33 (w : BitVec 32) : Checked :=
  match (bits w 0 3).toNat with
  | 0 => checkQF w 3 6 0 true true (.accz (fieldS w) (bits w 19 3) (bits w 13 6) (bits w 9 4))
  | 1 => checkQF w 3 6 6 true true (.accld (fieldS w) (bits w 19 3) (bits w 13 6) (bits w 9 4) (bits w 3 6))
  | 2 => checkQF w 3 6 6 true true (.accst (fieldS w) (bits w 19 3) (bits w 13 6) (bits w 9 4) (bits w 3 6))
  | 3 => checkQF w 5 6 6 true true (.acccvt (fieldS w) (bits w 22 2) (bits w 19 3) (bits w 13 6) (bits w 9 4) (bits w 3 6))
  | 4 => checkQF w 3 3 0 true true (.accmv (fieldS w) (bits w 19 3) (bits w 13 3) (bits w 9 4))
  | _ => .error .unassigned

/-- OP 0x34 by FN (R46). -/
def decodeQ34 (w : BitVec 32) : Checked :=
  match (bits w 0 3).toNat with
  | 0 => checkQF w 6 6 0 true true (.publish (fieldS w) (bits w 19 6) (bits w 13 6) (bits w 9 4))
  | _ => .error .unassigned

/-- OP 0x35 by FN (R46). -/
def decodeQ35 (w : BitVec 32) : Checked :=
  match (bits w 0 3).toNat with
  | 0 => checkQF w 6 6 6 false true (.lwinit (fieldS w) (bits w 19 6) (bits w 13 6) (bits w 3 6))
  | 1 => checkQF w 6 6 6 false true (.lwarm (fieldS w) (bits w 19 6) (bits w 13 6) (bits w 3 6))
  | 2 => checkQF w 6 6 6 false true (.lwadd (fieldS w) (bits w 19 6) (bits w 13 6) (bits w 3 6))
  | 3 => checkQF w 6 6 0 false true (.lwait (fieldS w) (bits w 19 6) (bits w 13 6))
  | 4 => checkQF w 6 6 0 false true (.lwtest (fieldS w) (bits w 19 6) (bits w 13 6))
  | _ => .error .unassigned

/-- OP 0x36 by FN (R46). -/
def decodeQ36 (w : BitVec 32) : Checked :=
  match (bits w 0 3).toNat with
  | 0 => checkQF w 3 6 0 false true (.cbar (fieldS w) (bits w 19 3) (bits w 13 6))
  | 1 => checkQF w 3 6 6 false true (.cbara (fieldS w) (bits w 19 3) (bits w 13 6) (bits w 3 6))
  | 2 => checkQF w 3 6 0 false true (.cbarw (fieldS w) (bits w 19 3) (bits w 13 6))
  | _ => .error .unassigned

/-- OP 0x38 by FN (R46). -/
def decodeQ38 (w : BitVec 32) : Checked :=
  match (bits w 0 3).toNat with
  | 0 => checkQF w 6 0 0 true ((bits w 19 6).toNat ≤ 60) (.rst (fieldS w) (bits w 19 6) (bits w 9 4))
  | 1 => checkQF w 6 0 0 true ((bits w 19 6).toNat ≤ 60) (.rcpy (fieldS w) (bits w 19 6) (bits w 9 4))
  | 2 => checkQF w 6 0 0 true true (.rflush (fieldS w) (bits w 19 6) (bits w 9 4))
  | 3 => checkQF w 6 6 6 true ((bits w 19 6).toNat ≤ 60) (.tsarm (fieldS w) (bits w 19 6) (bits w 13 6) (bits w 9 4) (bits w 3 6))
  | 4 => checkQF w 0 6 6 false true (.tscan (fieldS w) (bits w 13 6) (bits w 3 6))
  | _ => .error .unassigned

/-- OP 0x39 by FN (R46). -/
def decodeQ39 (w : BitVec 32) : Checked :=
  match (bits w 0 3).toNat with
  | 0 => checkQF w 6 0 6 true ((bits w 19 6).toNat ≤ 60) (.raadd (fieldS w) (bits w 19 6) (bits w 9 4) (bits w 3 6))
  | 1 => checkQF w 6 0 6 true ((bits w 19 6).toNat ≤ 60) (.raswap (fieldS w) (bits w 19 6) (bits w 9 4) (bits w 3 6))
  | 2 => checkQF w 6 0 6 true ((bits w 19 6).toNat ≤ 60) (.racas (fieldS w) (bits w 19 6) (bits w 9 4) (bits w 3 6))
  | 3 => checkQF w 6 0 6 true ((bits w 19 6).toNat ≤ 60) (.ramin (fieldS w) (bits w 19 6) (bits w 9 4) (bits w 3 6))
  | 4 => checkQF w 6 0 6 true ((bits w 19 6).toNat ≤ 60) (.ramax (fieldS w) (bits w 19 6) (bits w 9 4) (bits w 3 6))
  | 5 => checkQF w 6 0 6 true ((bits w 19 6).toNat ≤ 60) (.raand (fieldS w) (bits w 19 6) (bits w 9 4) (bits w 3 6))
  | 6 => checkQF w 6 0 6 true ((bits w 19 6).toNat ≤ 60) (.raor (fieldS w) (bits w 19 6) (bits w 9 4) (bits w 3 6))
  | 7 => checkQF w 6 0 6 true ((bits w 19 6).toNat ≤ 60) (.raxor (fieldS w) (bits w 19 6) (bits w 9 4) (bits w 3 6))
  | _ => .error .unassigned

/-- OP 0x3A by FN (R46). -/
def decodeQ3A (w : BitVec 32) : Checked :=
  match (bits w 0 3).toNat with
  | 0 => checkQF w 6 0 0 true ((bits w 19 6).toNat ≤ 60) (.rredf (fieldS w) (bits w 19 6) (bits w 9 4))
  | 1 => checkQF w 6 0 0 true ((bits w 19 6).toNat ≤ 60) (.rredb (fieldS w) (bits w 19 6) (bits w 9 4))
  | 2 => checkQF w 6 0 0 true ((bits w 19 6).toNat ≤ 60) (.rredi (fieldS w) (bits w 19 6) (bits w 9 4))
  | 3 => checkQF w 6 0 0 true ((bits w 19 6).toNat ≤ 60) (.rredx (fieldS w) (bits w 19 6) (bits w 9 4))
  | 4 => checkQF w 6 0 0 true ((bits w 19 6).toNat ≤ 60) (.rredn (fieldS w) (bits w 19 6) (bits w 9 4))
  | _ => .error .unassigned

/-- OP 0x3B by FN (R46). -/
def decodeQ3B (w : BitVec 32) : Checked :=
  match (bits w 0 3).toNat with
  | 0 => checkQF w 6 6 6 false true (.gpset (fieldS w) (bits w 19 6) (bits w 13 6) (bits w 3 6))
  | 1 => checkQF w 6 6 6 false true (.gpget (fieldS w) (bits w 19 6) (bits w 13 6) (bits w 3 6))
  | 2 => checkQF w 0 6 0 false true (.gpause (fieldS w) (bits w 13 6))
  | _ => .error .unassigned

/-- OP 0x3C by FN (R46). -/
def decodeQ3C (w : BitVec 32) : Checked :=
  match (bits w 0 3).toNat with
  | 0 => checkQF w 6 6 6 true true (.spawn (fieldS w) (bits w 19 6) (bits w 13 6) (bits w 9 4) (bits w 3 6))
  | 1 => checkQF w 6 0 0 false true (.join (fieldS w) (bits w 19 6))
  | 2 => checkQF w 6 6 0 false true (.phase (fieldS w) (bits w 19 6) (bits w 13 6))
  | 3 => checkQF w 0 0 0 false true (.exit (fieldS w))
  | 4 => checkQF w 6 6 6 true true (.launchi (fieldS w) (bits w 19 6) (bits w 13 6) (bits w 9 4) (bits w 3 6))
  | 5 => checkQF w 0 0 0 false true (.yield (fieldS w))
  | 6 => checkQF w 0 0 0 false true (.yieldpt (fieldS w))
  | 7 => checkQF w 6 6 0 false true (.bgrant (fieldS w) (bits w 19 6) (bits w 13 6))
  | _ => .error .unassigned

/-- OP 0x3D by FN (R46). -/
def decodeQ3D (w : BitVec 32) : Checked :=
  match (bits w 0 3).toNat with
  | 0 => checkQF w 4 0 0 false true (.fbar (fieldS w) (bits w 19 4))
  | 1 => checkQF w 6 0 6 false ((bits w 19 6).toNat < 4 && (bits w 3 6).toNat < 4) (.role (fieldS w) (bits w 19 6) (bits w 3 6))
  | 2 => checkQF w 6 0 0 false true (.tfence (fieldS w) (bits w 19 6))
  | 3 => checkQF w 6 0 6 false ((bits w 19 6).toNat < 8) (.brk (fieldS w) (bits w 19 6) (bits w 3 6))
  | 4 => checkQF w 6 0 6 false true (.trap (fieldS w) (bits w 19 6) (bits w 3 6))
  | 5 => checkQF w 6 6 0 false ((bits w 13 6).toNat < 2) (.tret (fieldS w) (bits w 19 6) (bits w 13 6))
  | 6 => checkQF w 4 6 6 false true (.dbara (fieldS w) (bits w 19 4) (bits w 13 6) (bits w 3 6))
  | 7 => checkQF w 4 6 0 false true (.dbarw (fieldS w) (bits w 19 4) (bits w 13 6))
  | _ => .error .unassigned

/-- OP 0x3E by FN (R46). -/
def decodeQ3E (w : BitVec 32) : Checked :=
  match (bits w 0 3).toNat with
  | 0 => checkQF w 6 6 0 false true (.qprio (fieldS w) (bits w 19 6) (bits w 13 6))
  | 1 => checkQF w 6 6 0 true true (.swapf (fieldS w) (bits w 19 6) (bits w 13 6) (bits w 9 4))
  | 2 => checkQF w 6 6 0 true true (.tlbinv (fieldS w) (bits w 19 6) (bits w 13 6) (bits w 9 4))
  | 3 => checkQF w 0 6 0 true true (.tlbinva (fieldS w) (bits w 13 6) (bits w 9 4))
  | _ => .error .unassigned

/-- A scalar word read as an instruction, or the lowest subcause that applies (R46, R60). -/
def decodeScalar (w : BitVec 32) : Checked :=
  match fieldOp w with
  | 0x00 => decodeThree arithOf w
  | 0x01 => decodeLogic w
  | 0x02 => decodeThree compareOf w
  | 0x03 => checked [(bits w 0 1 == 0#1, .reserved)]
      (.sel (fieldS w) (bits w 19 6) (bits w 13 6) (bits w 7 6) (bits w 1 6))
  | 0x04 => checked [(bits w 3 4 == 0#4, .reserved), ((bits w 0 3).toNat ≤ 4, .range)]
      (.addsh (fieldS w) (bits w 19 6) (bits w 13 6) (bits w 7 6) (bits w 0 3))
  | 0x10 => decodeImm w
  | 0x11 => decodeMove w
  | 0x12 => decodeCompareImm w
  | 0x18 => checked [(bits w 20 5 == 0#5, .reserved)] (.br (fieldS w) (bits w 0 20))
  | 0x19 => checked [(bits w 20 5 == 0#5, .reserved)] (.call (fieldS w) (bits w 0 20))
  | 0x1A => .ok (.bz (fieldS w) (bits w 20 5) (bits w 0 20))
  | 0x1B => .ok (.bnz (fieldS w) (bits w 20 5) (bits w 0 20))
  | 0x1C => checked [(bits w 20 5 != 0#5, .range)] (.loop (fieldS w) (bits w 20 5) (bits w 0 20))
  | 0x1D =>
    if bits w 20 5 == 0#5 then .ok (.bemz (fieldS w) (bits w 0 20))
    else checked [(bits w 20 5 == 1#5, .range)] (.bemnz (fieldS w) (bits w 0 20))
  | 0x1E => decodeJump w
  | 0x1F => decodeClause w
  | 0x20 => decodeMem loadOf w
  | 0x21 => decodeMem storeOf w
  | 0x22 => decodeMem scratchLoadOf w
  | 0x23 => decodeMem scratchStoreOf w
  | 0x24 =>
    if bits w 5 2 == 0#2 then decodeThree atomicOf w
    else if (bits w 0 4).toNat < 10 then .error .reserved else .error .unassigned
  | 0x25 =>
    if bits w 5 2 == 0#2 then decodeThree scratchAtomicOf w
    else if (bits w 0 4).toNat < 10 then .error .reserved else .error .unassigned
  | 0x26 => decodeMem acquireOf w
  | 0x28 => checked [(bits w 0 13 == 0#13, .reserved), ((bits w 19 6).toNat < 8, .range)]
      (.qpush (fieldS w) (bits w 19 6) (bits w 13 6))
  | 0x29 => checked [(bits w 0 13 == 0#13, .reserved), ((bits w 13 6).toNat < 8, .range)]
      (.qpop (fieldS w) (bits w 19 6) (bits w 13 6))
  | 0x2A => checked [(sysRegListed (bits w 0 16), .unassigned), (bits w 16 3 == 0#3, .reserved)]
      (.mfsr (fieldS w) (bits w 19 6) (bits w 0 16))
  | 0x2B => checked [(sysRegListed (bits w 0 16), .unassigned), (bits w 16 3 == 0#3, .reserved)]
      (.mtsr (fieldS w) (bits w 19 6) (bits w 0 16))
  | 0x2C => decodeMaskMove w
  | 0x27 => decodeQ27 w
  | 0x30 => decodeQ30 w
  | 0x31 => decodeQ31 w
  | 0x32 => decodeQ32 w
  | 0x33 => decodeQ33 w
  | 0x34 => decodeQ34 w
  | 0x35 => decodeQ35 w
  | 0x36 => decodeQ36 w
  | 0x38 => decodeQ38 w
  | 0x39 => decodeQ39 w
  | 0x3A => decodeQ3A w
  | 0x3B => decodeQ3B w
  | 0x3C => decodeQ3C w
  | 0x3D => decodeQ3D w
  | 0x3E => decodeQ3E w
  | _ => .error .unassigned

/-! ### Lane words -/

/-- The lane opcode map (R57). -/
def laneOf (opc : Nat) : Option LaneOp :=
  match opc with
  | 0x000 => some .iadd
  | 0x001 => some .isub
  | 0x002 => some .imul
  | 0x003 => some .imulh
  | 0x004 => some .imad
  | 0x005 => some .imin
  | 0x006 => some .imax
  | 0x007 => some .iabs
  | 0x008 => some .ineg
  | 0x009 => some .iand
  | 0x00A => some .ior
  | 0x00B => some .ixor
  | 0x00C => some .iandn
  | 0x00D => some .ishl
  | 0x00E => some .ishr
  | 0x00F => some .iclz
  | 0x010 => some .ipopc
  | 0x011 => some .ibfe
  | 0x012 => some .ibfi
  | 0x013 => some .imov
  | 0x07F => some .lnop
  | 0x080 => some .fadd
  | 0x081 => some .fsub
  | 0x082 => some .fmul
  | 0x083 => some .ffma
  | 0x084 => some .fdiv
  | 0x085 => some .fmin
  | 0x086 => some .fmax
  | 0x087 => some .fabs
  | 0x088 => some .fneg
  | 0x089 => some .frnd
  | 0x08A => some .fsqrt
  | 0x08B => some .frcp
  | 0x08C => some .frsq
  | 0x08D => some .fexp2
  | 0x08E => some .flog2
  | 0x08F => some .fsin
  | 0x090 => some .fcos
  | 0x091 => some .ftanh
  | 0x100 => some .icmpeq
  | 0x101 => some .icmpne
  | 0x102 => some .icmplt
  | 0x103 => some .icmple
  | 0x104 => some .icmpgt
  | 0x105 => some .icmpge
  | 0x108 => some .fcmpeq
  | 0x109 => some .fcmpne
  | 0x10A => some .fcmplt
  | 0x10B => some .fcmple
  | 0x10C => some .fcmpgt
  | 0x10D => some .fcmpge
  | 0x10E => some .fcmpun
  | 0x10F => some .fcmpor
  | 0x110 => some .pand
  | 0x111 => some .por
  | 0x112 => some .pxor
  | 0x113 => some .pandn
  | 0x114 => some .pnot
  | 0x118 => some .emand
  | 0x119 => some .emset
  | 0x11A => some .emget
  | 0x120 => some .laneSel
  | 0x140 => some .cvt
  | 0x148 => some .dot4
  | 0x149 => some .dot8
  | 0x14A => some .dot2
  | 0x150 => some .scale
  | 0x152 => some .seed
  | 0x1C0 => some .ldg
  | 0x1C1 => some .stg
  | 0x1C2 => some .lds
  | 0x1C3 => some .sts
  | 0x1D0 => some .gaadd
  | 0x1D1 => some .gamin
  | 0x1D2 => some .gamax
  | 0x1D3 => some .gaand
  | 0x1D4 => some .gaor
  | 0x1D5 => some .gaxor
  | 0x1D6 => some .gaswap
  | 0x1D7 => some .gacas
  | 0x1D8 => some .gafadd
  | 0x1E0 => some .laadd
  | 0x1E1 => some .lamin
  | 0x1E2 => some .lamax
  | 0x1E3 => some .laand
  | 0x1E4 => some .laor
  | 0x1E5 => some .laxor
  | 0x1E6 => some .laswap
  | 0x1E7 => some .lacas
  | 0x1E8 => some .lafadd
  | 0x200 => some .shfl
  | 0x201 => some .shflu
  | 0x202 => some .shfld
  | 0x203 => some .shflx
  | 0x208 => some .ballot
  | 0x209 => some .vany
  | 0x20A => some .vall
  | 0x210 => some .scanadd
  | 0x211 => some .scanmin
  | 0x212 => some .scanmax
  | 0x218 => some .redadd
  | 0x219 => some .redmin
  | 0x21A => some .redmax
  | 0x220 => some .topk
  | _ => none

/-- What a position of a lane word may hold (R56 and the definitions of 06_lane_isa.md). -/
inductive Position where
  | unused
  | kinds (k00 k01 k10 k11 : Bool)
  | pred
  | predOr (k01 k11 : Bool)
  deriving DecidableEq, Repr

/-- The form of a lane opcode: its positions, whether it may sweep, and the values of TY, RM and SAT it accepts. -/
structure LaneForm where
  d : Position
  a : Position
  b : Position
  c : Position
  sweeps : Bool
  /-- Selectors are accepted on every operand under TY 000 and 001 (R152). -/
  selectors : Bool := false
  /-- Selectors are accepted on A and B (R152). -/
  dotSelectors : Bool := false
  modifiers : (ty rm : Nat) → (sat : Bool) → Bool

/-- Kinds 00 and 10: a destination that may sweep (R56). -/
def Position.dest : Position := .kinds true false true false
/-- All four kinds (R56). -/
def Position.any : Position := .kinds true true true true
/-- Kinds 00, 01 and 11 (R56). -/
def Position.flat : Position := .kinds true true false true
/-- Kind 00 only. -/
def Position.vec : Position := .kinds true false false false

/-- The integer class (R153). -/
def intForm (b c : Position) (sat : Bool) (tys : Nat) : LaneForm :=
  { d := .dest, a := .any, b := b, c := c, sweeps := true, selectors := true,
    modifiers := fun ty rm s => ty < tys && rm == 0 && (sat || !s) }

/-- The floating-point class (R156 to R158). -/
def floatForm (b c : Position) (rms : Nat) (sat : Bool) (tys : Nat) : LaneForm :=
  { d := .dest, a := .any, b := b, c := c, sweeps := true,
    modifiers := fun ty rm s => ty < tys && rm < rms && (sat || !s) }

/-- The memory class (R169 to R171). -/
def memForm (load : Bool) (c : Position) (atomic : Bool) : LaneForm :=
  { d := if load then .vec else .unused, a := .kinds false true false false, b := .kinds true false false true, c := c,
    sweeps := false,
    modifiers := fun ty rm s => (ty == 0 || (!atomic && 2 ≤ ty && ty ≤ 5)) && rm == 0 && !s }

/-- Forms without a sweep that accept no modifier but TY below `tys` (R159 to R163, R173, R174). -/
def plainForm (d a b c : Position) (tys : Nat) : LaneForm :=
  { d := d, a := a, b := b, c := c, sweeps := false, modifiers := fun ty rm s => ty < tys && rm == 0 && !s }

/-- The dot products (R166): `floats` types are floating-point, the types from there to `tys` are integer. -/
def dotForm (floats tys : Nat) : LaneForm :=
  { d := .dest, a := .kinds true true true false, b := .kinds true true true false, c := .dest, sweeps := true,
    dotSelectors := true,
    modifiers := fun ty rm _ => ty < tys && (rm == 0 || (ty < floats && rm < 5)) }

/-- The scans and reductions (R175). -/
def scanForm (add : Bool) : LaneForm :=
  { d := .vec, a := .flat, b := .unused, c := .unused, sweeps := false,
    modifiers := fun ty rm s => (ty < 2 && rm == 0) || (ty == 2 && if add then rm < 5 else rm == 0 && !s) }

/-- The form of each lane opcode (R153 to R176). -/
def laneForm (opc : Nat) : LaneForm :=
  match opc with
  | 0x000 | 0x001 | 0x002 => intForm .any .unused true 6
  | 0x003 => intForm .any .unused false 6
  | 0x004 => intForm .any .any true 6
  | 0x005 | 0x006 => intForm .any .unused false 6
  | 0x007 | 0x008 => intForm .unused .unused true 6
  | 0x009 | 0x00A | 0x00B | 0x00C | 0x00D | 0x00E => intForm .any .unused false 6
  | 0x00F | 0x010 | 0x013 => intForm .unused .unused false 6
  | 0x011 | 0x012 => intForm .any .any false 2
  | 0x080 | 0x081 | 0x082 | 0x084 => floatForm .any .unused 5 true 3
  | 0x083 => floatForm .any .any 5 true 3
  | 0x085 | 0x086 => floatForm .any .unused 1 false 3
  | 0x087 | 0x088 => floatForm .unused .unused 1 false 3
  | 0x089 => floatForm .unused .unused 5 false 3
  | 0x08A => floatForm .unused .unused 5 true 3
  | 0x08B | 0x08C | 0x08D | 0x08E | 0x08F | 0x090 | 0x091 => floatForm .unused .unused 1 false 2
  | 0x100 | 0x101 | 0x102 | 0x103 | 0x104 | 0x105 => plainForm .pred .flat .flat .unused 2
  | 0x108 | 0x109 | 0x10A | 0x10B | 0x10C | 0x10D | 0x10E | 0x10F => plainForm .pred .flat .flat .unused 1
  | 0x110 | 0x111 | 0x112 | 0x113 => plainForm .pred .pred .pred .unused 1
  | 0x114 => plainForm .pred .pred .unused .unused 1
  | 0x118 | 0x119 => plainForm .unused (.predOr true true) .unused .unused 1
  | 0x11A => plainForm .pred .unused .unused .unused 1
  | 0x120 => plainForm .vec .flat .flat .pred 1
  | 0x140 => { d := .dest, a := .dest, b := .kinds false false false true, c := .kinds false false false true,
               sweeps := true, modifiers := fun ty rm _ => ty == 0 && rm < 5 }
  | 0x148 => dotForm 3 6
  | 0x149 => dotForm 1 1
  | 0x14A => dotForm 2 4
  | 0x150 => { d := .dest, a := .any, b := .any, c := .unused, sweeps := true, modifiers := fun ty rm _ => ty < 2 && rm < 5 }
  | 0x152 => plainForm .unused .flat .unused .unused 1
  | 0x1C0 | 0x1C2 => memForm true .unused false
  | 0x1C1 | 0x1C3 => memForm false .flat false
  | 0x1D0 | 0x1D1 | 0x1D2 | 0x1D3 | 0x1D4 | 0x1D5 | 0x1D6 | 0x1D7 | 0x1D8 => memForm true .flat true
  | 0x1E0 | 0x1E1 | 0x1E2 | 0x1E3 | 0x1E4 | 0x1E5 | 0x1E6 | 0x1E7 | 0x1E8 => memForm true .flat true
  | 0x200 | 0x201 | 0x202 | 0x203 => plainForm .vec .flat .flat .unused 3
  | 0x208 => plainForm .vec .pred .unused .unused 1
  | 0x209 | 0x20A => plainForm .pred .pred .unused .unused 1
  | 0x210 | 0x218 => scanForm true
  | 0x211 | 0x212 | 0x219 | 0x21A => scanForm false
  | 0x220 => plainForm .vec .flat (.kinds false true false true) .unused 3
  | _ => plainForm .unused .unused .unused .unused 1

/-- An operand field of 15 bits read by its kind (R53). -/
def operandOf (f : BitVec 15) : Operand :=
  match (bits f 13 2).toNat with
  | 0 => .reg (bits f 5 8) (bits f 4 1 == 1#1) (bits f 0 4)
  | 1 => .scalar (bits f 7 6)
  | 2 => .sweep (bits f 7 6) (bits f 0 7)
  | _ => .imm (bits f 0 13)

/-- A field is a predicate operand when bits [14:3] are zero (R56). -/
def predField (f : BitVec 15) : Bool := bits f 3 12 == 0#12

/-- The operand in a position. -/
def Position.read (p : Position) (f : BitVec 15) : Operand :=
  match p with
  | .unused => .unused
  | .kinds .. => operandOf f
  | .pred => .pred (bits f 0 3)
  | .predOr .. => if predField f then .pred (bits f 0 3) else operandOf f

/-- Subcause RESERVED of a field (R53, R54): an unused field that is not zero, reserved bits of a broadcast, and a last-read
bit in D. -/
def Position.reservedOk (p : Position) (isD : Bool) (f : BitVec 15) : Bool :=
  match p with
  | .unused => f == 0#15
  | .pred => true
  | .kinds .. | .predOr .. =>
    match operandOf f with
    | .scalar _ => bits f 0 7 == 0#7
    | .reg _ last _ => !(isD && last)
    | _ => true

/-- Subcause KIND of a field (R56). -/
def Position.kindOk (p : Position) (f : BitVec 15) : Bool :=
  match p with
  | .unused => true
  | .pred => predField f
  | .predOr k01 k11 =>
    predField f || (match operandOf f with | .scalar _ => k01 | .imm _ => k11 | _ => false)
  | .kinds k00 k01 k10 k11 =>
    match operandOf f with
    | .reg .. => k00
    | .scalar _ => k01
    | .sweep .. => k10
    | _ => k11

/-- Whether an operand is a sweep. -/
def Operand.isSweep : Operand → Bool
  | .sweep .. => true
  | _ => false

/-- Subcause RANGE of a selector (R54, R152): 0001 to 0011 are never valid, and another non-zero selector stands only where
it is accepted. -/
def Operand.selectorOk (o : Operand) (accepted : Bool) : Bool :=
  match o with
  | .reg _ _ sel => sel == 0#4 || (accepted && 4 ≤ sel.toNat)
  | _ => true

/-- How many elements of a CVT format a lane holds (R164). -/
def formatElements (code : Nat) : Nat :=
  if code == 0 || code == 10 || code == 13 then 1
  else if code == 1 || code == 2 || code == 9 || code == 12 || code == 14 then 2
  else if code == 7 then 8 else 4

/-- The immediate of an operand, 0 for another kind. -/
def Operand.immBits : Operand → BitVec 13
  | .imm x => x
  | _ => 0#13

/-- CVT: the zero fields of B and C (R164). -/
def cvtReservedOk (b c : Operand) : Bool :=
  bits b.immBits 8 5 == 0#5 && bits c.immBits 6 7 == 0#7

/-- CVT: format codes and element indices in range (R164). -/
def cvtRangeOk (b c : Operand) : Bool :=
  let src := (bits b.immBits 0 4).toNat
  let dst := (bits b.immBits 4 4).toNat
  let esrc := (bits c.immBits 0 3).toNat
  let edst := (bits c.immBits 3 3).toNat
  src != 15 && dst != 15 && (src != 14 || dst == 0) && (dst != 14 || src == 0) &&
    esrc < formatElements src && edst < formatElements dst

/-- TOPK: its register pair and its count (R176). -/
def topkRangeOk (d b : Operand) : Bool :=
  (match d with | .reg n _ _ => n != 255#8 | _ => true) &&
    (match b with | .imm x => 1 ≤ x.toInt && x.toInt ≤ 16 | _ => true)

/-- The fields of a lane word with its operands read in the positions of a form. -/
def laneWordOf (f : LaneForm) (w : BitVec 96) : LaneWord :=
  { sw := bits w 85 1 == 1#1, pn := bits w 84 1 == 1#1, pi := bits w 81 3, count := bits w 69 12,
    sat := bits w 68 1 == 1#1, rm := bits w 65 3, ty := bits w 62 3,
    d := f.d.read (bits w 47 15), a := f.a.read (bits w 32 15), b := f.b.read (bits w 17 15), c := f.c.read (bits w 2 15) }

/-- A lane word read as an instruction, or the lowest subcause that applies (R57, R60). -/
def decodeLane (w : BitVec 96) : Except Subcause (LaneOp × LaneWord) :=
  let opc := (bits w 86 10).toNat
  match laneOf opc with
  | none => .error .unassigned
  | some op =>
    let f := laneForm opc
    let fd := bits w 47 15
    let fa := bits w 32 15
    let fb := bits w 17 15
    let fc := bits w 2 15
    let l := laneWordOf f w
    let narrow := l.ty.toNat < 2
    checked
      [(bits w 0 2 == 0#2 && f.d.reservedOk true fd && f.a.reservedOk false fa && f.b.reservedOk false fb &&
          f.c.reservedOk false fc && (opc != 0x140 || cvtReservedOk l.b l.c) && (opc != 0x07F || bits w 62 19 == 0#19), .reserved),
       (f.d.kindOk fd && f.a.kindOk fa && f.b.kindOk fb && f.c.kindOk fc, .kind),
       (l.d.selectorOk (f.selectors && narrow) && l.a.selectorOk (f.dotSelectors || (f.selectors && narrow)) &&
          l.b.selectorOk (f.dotSelectors || (f.selectors && narrow)) && l.c.selectorOk (f.selectors && narrow) &&
          (opc != 0x140 || cvtRangeOk l.b l.c) && (opc != 0x220 || topkRangeOk l.d l.b), .range),
       (f.modifiers l.ty.toNat l.rm.toNat l.sat, .modifier),
       (l.count == 0#12 || (f.sweeps && (l.d.isSweep || l.a.isSweep || l.b.isSweep || l.c.isSweep)), .sweep)]
      (op, l)

/-- A clause header's fields (R51). -/
structure Header where
  len : Nat
  fa : BitVec 4
  fb : BitVec 4
  wait : BitVec 12
  deriving DecidableEq, Repr

/-- A clause header, none where it is malformed (R51). -/
def decodeHeader (w : BitVec 96) : Option Header :=
  let fa := bits w 76 4
  let fb := bits w 72 4
  if bits w 86 10 == 0x3FF#10 && bits w 80 6 != 0#6 && flagOk fa && flagOk fb && bits w 0 60 == 0#60 then
    some { len := (bits w 80 6).toNat, fa := fa, fb := fb, wait := bits w 60 12 }
  else none

/-- A clause header word from its fields (R51). -/
def encodeHeader (h : Header) : BitVec 96 :=
  BitVec.ofNat 96 (0x3FF * 2 ^ 86 + h.len * 2 ^ 80 + h.fa.toNat * 2 ^ 76 + h.fb.toNat * 2 ^ 72 + h.wait.toNat * 2 ^ 60)


/-! ### The encoder -/

/-- The 32-bit word of a scalar instruction (R44, R46, R47); none for what is no scalar instruction. -/
def encodeScalar (i : Instr) : Option (BitVec 32) :=
  match i with
  | .add sw d a b => some (wordRR 0x00 sw d a b 0x00)
  | .sub sw d a b => some (wordRR 0x00 sw d a b 0x01)
  | .mul sw d a b => some (wordRR 0x00 sw d a b 0x02)
  | .mulh sw d a b => some (wordRR 0x00 sw d a b 0x03)
  | .mulhn sw d a b => some (wordRR 0x00 sw d a b 0x04)
  | .div sw d a b => some (wordRR 0x00 sw d a b 0x05)
  | .divn sw d a b => some (wordRR 0x00 sw d a b 0x06)
  | .rem sw d a b => some (wordRR 0x00 sw d a b 0x07)
  | .remn sw d a b => some (wordRR 0x00 sw d a b 0x08)
  | .min sw d a b => some (wordRR 0x00 sw d a b 0x09)
  | .max sw d a b => some (wordRR 0x00 sw d a b 0x0A)
  | .minn sw d a b => some (wordRR 0x00 sw d a b 0x0B)
  | .maxn sw d a b => some (wordRR 0x00 sw d a b 0x0C)
  | .and sw d a b => some (wordRR 0x01 sw d a b 0x00)
  | .or sw d a b => some (wordRR 0x01 sw d a b 0x01)
  | .xor sw d a b => some (wordRR 0x01 sw d a b 0x02)
  | .andn sw d a b => some (wordRR 0x01 sw d a b 0x03)
  | .shl sw d a b => some (wordRR 0x01 sw d a b 0x04)
  | .shr sw d a b => some (wordRR 0x01 sw d a b 0x05)
  | .sar sw d a b => some (wordRR 0x01 sw d a b 0x06)
  | .rotr sw d a b => some (wordRR 0x01 sw d a b 0x07)
  | .clz sw d a => some (wordRR 0x01 sw d a 0 0x08)
  | .ctz sw d a => some (wordRR 0x01 sw d a 0 0x09)
  | .popc sw d a => some (wordRR 0x01 sw d a 0 0x0A)
  | .brev sw d a => some (wordRR 0x01 sw d a 0 0x0B)
  | .seq sw d a b => some (wordRR 0x02 sw d a b 0x00)
  | .sne sw d a b => some (wordRR 0x02 sw d a b 0x01)
  | .slt sw d a b => some (wordRR 0x02 sw d a b 0x02)
  | .sle sw d a b => some (wordRR 0x02 sw d a b 0x03)
  | .sltn sw d a b => some (wordRR 0x02 sw d a b 0x04)
  | .slen sw d a b => some (wordRR 0x02 sw d a b 0x05)
  | .sel sw d a b c => some (wordRR 0x03 sw d a b (c.toNat * 2))
  | .addsh sw d a b h => some (wordRR 0x04 sw d a b h.toNat)
  | .addi sw d i => some (wordRI 0x10 sw d 0 i)
  | .andi sw d i => some (wordRI 0x10 sw d 1 i)
  | .ori sw d i => some (wordRI 0x10 sw d 2 i)
  | .xori sw d i => some (wordRI 0x10 sw d 3 i)
  | .shli sw d i => some (wordRI 0x10 sw d 4 (i.setWidth 16))
  | .shri sw d i => some (wordRI 0x10 sw d 5 (i.setWidth 16))
  | .sari sw d i => some (wordRI 0x10 sw d 6 (i.setWidth 16))
  | .muli sw d i => some (wordRI 0x10 sw d 7 i)
  | .movi sw d i => some (wordRI 0x11 sw d 0 i)
  | .movk sw d k i => some (wordRI 0x11 sw d (4 + k.toNat) i)
  | .seqi sw d i => some (wordRI 0x12 sw d 0 i)
  | .snei sw d i => some (wordRI 0x12 sw d 1 i)
  | .slti sw d i => some (wordRI 0x12 sw d 2 i)
  | .slei sw d i => some (wordRI 0x12 sw d 3 i)
  | .sltni sw d i => some (wordRI 0x12 sw d 4 i)
  | .sleni sw d i => some (wordRI 0x12 sw d 5 i)
  | .br sw o => some (wordBF 0x18 sw 0 o)
  | .call sw o => some (wordBF 0x19 sw 0 o)
  | .bz sw c o => some (wordBF 0x1A sw c.toNat o)
  | .bnz sw c o => some (wordBF 0x1B sw c.toNat o)
  | .loop sw c o => some (wordBF 0x1C sw c.toNat o)
  | .bemz sw o => some (wordBF 0x1D sw 0 o)
  | .bemnz sw o => some (wordBF 0x1D sw 1 o)
  | .jr sw a => some (wordRR 0x1E sw 0 a 0 0)
  | .callr sw a => some (wordRR 0x1E sw 0 a 0 1)
  | .cls sw k => some (wordBF 0x1F sw 0 k)
  | .fwait sw m => some (wordBF 0x1F sw 1 (m.setWidth 20))
  | .clswait sw k => some (wordBF 0x1F sw 2 k)
  | .ldb sw d b o => some (wordMF 0x20 sw d b 0 o)
  | .ldh sw d b o => some (wordMF 0x20 sw d b 1 o)
  | .ldw sw d b o => some (wordMF 0x20 sw d b 2 o)
  | .ldd sw d b o => some (wordMF 0x20 sw d b 3 o)
  | .ldbn sw d b o => some (wordMF 0x20 sw d b 4 o)
  | .ldhn sw d b o => some (wordMF 0x20 sw d b 5 o)
  | .ldwn sw d b o => some (wordMF 0x20 sw d b 6 o)
  | .stb sw d b o => some (wordMF 0x21 sw d b 0 o)
  | .sth sw d b o => some (wordMF 0x21 sw d b 1 o)
  | .stw sw d b o => some (wordMF 0x21 sw d b 2 o)
  | .std sw d b o => some (wordMF 0x21 sw d b 3 o)
  | .sldb sw d b o => some (wordMF 0x22 sw d b 0 o)
  | .sldh sw d b o => some (wordMF 0x22 sw d b 1 o)
  | .sldw sw d b o => some (wordMF 0x22 sw d b 2 o)
  | .sldd sw d b o => some (wordMF 0x22 sw d b 3 o)
  | .sldbn sw d b o => some (wordMF 0x22 sw d b 4 o)
  | .sldhn sw d b o => some (wordMF 0x22 sw d b 5 o)
  | .sldwn sw d b o => some (wordMF 0x22 sw d b 6 o)
  | .sstb sw d b o => some (wordMF 0x23 sw d b 0 o)
  | .ssth sw d b o => some (wordMF 0x23 sw d b 1 o)
  | .sstw sw d b o => some (wordMF 0x23 sw d b 2 o)
  | .sstd sw d b o => some (wordMF 0x23 sw d b 3 o)
  | .aaddw sw d a b => some (wordRR 0x24 sw d a b 0x00)
  | .aswapw sw d a b => some (wordRR 0x24 sw d a b 0x01)
  | .acasw sw d a b => some (wordRR 0x24 sw d a b 0x02)
  | .aminw sw d a b => some (wordRR 0x24 sw d a b 0x03)
  | .amaxw sw d a b => some (wordRR 0x24 sw d a b 0x04)
  | .aminnw sw d a b => some (wordRR 0x24 sw d a b 0x05)
  | .amaxnw sw d a b => some (wordRR 0x24 sw d a b 0x06)
  | .aandw sw d a b => some (wordRR 0x24 sw d a b 0x07)
  | .aorw sw d a b => some (wordRR 0x24 sw d a b 0x08)
  | .axorw sw d a b => some (wordRR 0x24 sw d a b 0x09)
  | .aaddd sw d a b => some (wordRR 0x24 sw d a b 0x10)
  | .aswapd sw d a b => some (wordRR 0x24 sw d a b 0x11)
  | .acasd sw d a b => some (wordRR 0x24 sw d a b 0x12)
  | .amind sw d a b => some (wordRR 0x24 sw d a b 0x13)
  | .amaxd sw d a b => some (wordRR 0x24 sw d a b 0x14)
  | .aminnd sw d a b => some (wordRR 0x24 sw d a b 0x15)
  | .amaxnd sw d a b => some (wordRR 0x24 sw d a b 0x16)
  | .aandd sw d a b => some (wordRR 0x24 sw d a b 0x17)
  | .aord sw d a b => some (wordRR 0x24 sw d a b 0x18)
  | .axord sw d a b => some (wordRR 0x24 sw d a b 0x19)
  | .saaddw sw d a b => some (wordRR 0x25 sw d a b 0x00)
  | .saswapw sw d a b => some (wordRR 0x25 sw d a b 0x01)
  | .sacasw sw d a b => some (wordRR 0x25 sw d a b 0x02)
  | .saminw sw d a b => some (wordRR 0x25 sw d a b 0x03)
  | .samaxw sw d a b => some (wordRR 0x25 sw d a b 0x04)
  | .saminnw sw d a b => some (wordRR 0x25 sw d a b 0x05)
  | .samaxnw sw d a b => some (wordRR 0x25 sw d a b 0x06)
  | .saandw sw d a b => some (wordRR 0x25 sw d a b 0x07)
  | .saorw sw d a b => some (wordRR 0x25 sw d a b 0x08)
  | .saxorw sw d a b => some (wordRR 0x25 sw d a b 0x09)
  | .saaddd sw d a b => some (wordRR 0x25 sw d a b 0x10)
  | .saswapd sw d a b => some (wordRR 0x25 sw d a b 0x11)
  | .sacasd sw d a b => some (wordRR 0x25 sw d a b 0x12)
  | .samind sw d a b => some (wordRR 0x25 sw d a b 0x13)
  | .samaxd sw d a b => some (wordRR 0x25 sw d a b 0x14)
  | .saminnd sw d a b => some (wordRR 0x25 sw d a b 0x15)
  | .samaxnd sw d a b => some (wordRR 0x25 sw d a b 0x16)
  | .saandd sw d a b => some (wordRR 0x25 sw d a b 0x17)
  | .saord sw d a b => some (wordRR 0x25 sw d a b 0x18)
  | .saxord sw d a b => some (wordRR 0x25 sw d a b 0x19)
  | .ldacqw sw d b o => some (wordMF 0x26 sw d b 0 o)
  | .ldacqd sw d b o => some (wordMF 0x26 sw d b 1 o)
  | .strelw sw d b o => some (wordMF 0x26 sw d b 2 o)
  | .streld sw d b o => some (wordMF 0x26 sw d b 3 o)
  | .fence sw r e k => some (wordQF 0x27 sw (r.toNat * 16 + e.toNat * 8 + k.toNat) 0 15 0 0)
  | .fencen sw r e k => some (wordQF 0x27 sw (r.toNat * 16 + e.toNat * 8 + k.toNat) 0 15 0 1)
  | .cwb sw x y f => some (wordQF 0x27 sw x.toNat y.toNat f.toNat 0 2)
  | .cinv sw x y f => some (wordQF 0x27 sw x.toNat y.toNat f.toNat 0 3)
  | .cpf sw x y f => some (wordQF 0x27 sw x.toNat y.toNat f.toNat 0 4)
  | .nred sw x y f z => some (wordQF 0x27 sw x.toNat y.toNat f.toNat z.toNat 5)
  | .qpush sw q a => some (wordRR 0x28 sw q a 0 0)
  | .qpop sw d q => some (wordRR 0x29 sw d q 0 0)
  | .mfsr sw d n => some (wordRI 0x2A sw d 0 n)
  | .mtsr sw d n => some (wordRI 0x2B sw d 0 n)
  | .mfp sw d p => some (wordRR 0x2C sw d p 0 0)
  | .mtp sw p a => some (wordRR 0x2C sw p a 0 1)
  | .mfem sw d => some (wordRR 0x2C sw d 0 0 2)
  | .mtem sw a => some (wordRR 0x2C sw 0 a 0 3)
  | .mff sw d => some (wordRR 0x2C sw d 0 0 4)
  | .tdset sw i y => some (wordQF 0x30 sw i.toNat y.toNat 15 0 0)
  | .tdget sw i y => some (wordQF 0x30 sw i.toNat y.toNat 15 0 1)
  | .fbset sw j y => some (wordQF 0x30 sw j.toNat y.toNat 15 0 2)
  | .tzero sw i f => some (wordQF 0x30 sw i.toNat 0 f.toNat 0 3)
  | .tld sw i y f z => some (wordQF 0x31 sw i.toNat y.toNat f.toNat z.toNat 0)
  | .tst sw i y f z => some (wordQF 0x31 sw i.toNat y.toNat f.toNat z.toNat 1)
  | .tldl sw i y f z => some (wordQF 0x31 sw i.toNat y.toNat f.toNat z.toNat 2)
  | .tstl sw i y f z => some (wordQF 0x31 sw i.toNat y.toNat f.toNat z.toNat 3)
  | .mma sw j i y f z => some (wordQF 0x32 sw (j.toNat * 8 + i.toNat) y.toNat f.toNat z.toNat 0)
  | .mmas sw n j i y f z => some (wordQF 0x32 sw (n.toNat * 32 + j.toNat * 8 + i.toNat) y.toNat f.toNat z.toNat 1)
  | .accz sw i y f => some (wordQF 0x33 sw i.toNat y.toNat f.toNat 0 0)
  | .accld sw i y f z => some (wordQF 0x33 sw i.toNat y.toNat f.toNat z.toNat 1)
  | .accst sw i y f z => some (wordQF 0x33 sw i.toNat y.toNat f.toNat z.toNat 2)
  | .acccvt sw j i y f z => some (wordQF 0x33 sw (j.toNat * 8 + i.toNat) y.toNat f.toNat z.toNat 3)
  | .accmv sw x y f => some (wordQF 0x33 sw x.toNat y.toNat f.toNat 0 4)
  | .publish sw x y f => some (wordQF 0x34 sw x.toNat y.toNat f.toNat 0 0)
  | .lwinit sw x y z => some (wordQF 0x35 sw x.toNat y.toNat 15 z.toNat 0)
  | .lwarm sw x y z => some (wordQF 0x35 sw x.toNat y.toNat 15 z.toNat 1)
  | .lwadd sw x y z => some (wordQF 0x35 sw x.toNat y.toNat 15 z.toNat 2)
  | .lwait sw x y => some (wordQF 0x35 sw x.toNat y.toNat 15 0 3)
  | .lwtest sw x y => some (wordQF 0x35 sw x.toNat y.toNat 15 0 4)
  | .cbar sw b y => some (wordQF 0x36 sw b.toNat y.toNat 15 0 0)
  | .cbara sw b y z => some (wordQF 0x36 sw b.toNat y.toNat 15 z.toNat 1)
  | .cbarw sw b y => some (wordQF 0x36 sw b.toNat y.toNat 15 0 2)
  | .rst sw x f => some (wordQF 0x38 sw x.toNat 0 f.toNat 0 0)
  | .rcpy sw x f => some (wordQF 0x38 sw x.toNat 0 f.toNat 0 1)
  | .rflush sw x f => some (wordQF 0x38 sw x.toNat 0 f.toNat 0 2)
  | .tsarm sw x y f z => some (wordQF 0x38 sw x.toNat y.toNat f.toNat z.toNat 3)
  | .tscan sw y z => some (wordQF 0x38 sw 0 y.toNat 15 z.toNat 4)
  | .raadd sw x f z => some (wordQF 0x39 sw x.toNat 0 f.toNat z.toNat 0)
  | .raswap sw x f z => some (wordQF 0x39 sw x.toNat 0 f.toNat z.toNat 1)
  | .racas sw x f z => some (wordQF 0x39 sw x.toNat 0 f.toNat z.toNat 2)
  | .ramin sw x f z => some (wordQF 0x39 sw x.toNat 0 f.toNat z.toNat 3)
  | .ramax sw x f z => some (wordQF 0x39 sw x.toNat 0 f.toNat z.toNat 4)
  | .raand sw x f z => some (wordQF 0x39 sw x.toNat 0 f.toNat z.toNat 5)
  | .raor sw x f z => some (wordQF 0x39 sw x.toNat 0 f.toNat z.toNat 6)
  | .raxor sw x f z => some (wordQF 0x39 sw x.toNat 0 f.toNat z.toNat 7)
  | .rredf sw x f => some (wordQF 0x3A sw x.toNat 0 f.toNat 0 0)
  | .rredb sw x f => some (wordQF 0x3A sw x.toNat 0 f.toNat 0 1)
  | .rredi sw x f => some (wordQF 0x3A sw x.toNat 0 f.toNat 0 2)
  | .rredx sw x f => some (wordQF 0x3A sw x.toNat 0 f.toNat 0 3)
  | .rredn sw x f => some (wordQF 0x3A sw x.toNat 0 f.toNat 0 4)
  | .gpset sw x y z => some (wordQF 0x3B sw x.toNat y.toNat 15 z.toNat 0)
  | .gpget sw x y z => some (wordQF 0x3B sw x.toNat y.toNat 15 z.toNat 1)
  | .gpause sw y => some (wordQF 0x3B sw 0 y.toNat 15 0 2)
  | .spawn sw x y f z => some (wordQF 0x3C sw x.toNat y.toNat f.toNat z.toNat 0)
  | .join sw x => some (wordQF 0x3C sw x.toNat 0 15 0 1)
  | .phase sw x y => some (wordQF 0x3C sw x.toNat y.toNat 15 0 2)
  | .exit sw => some (wordQF 0x3C sw 0 0 15 0 3)
  | .launchi sw x y f z => some (wordQF 0x3C sw x.toNat y.toNat f.toNat z.toNat 4)
  | .yield sw => some (wordQF 0x3C sw 0 0 15 0 5)
  | .yieldpt sw => some (wordQF 0x3C sw 0 0 15 0 6)
  | .bgrant sw x y => some (wordQF 0x3C sw x.toNat y.toNat 15 0 7)
  | .fbar sw m => some (wordQF 0x3D sw m.toNat 0 15 0 0)
  | .role sw n k => some (wordQF 0x3D sw n.toNat 0 15 k.toNat 1)
  | .tfence sw m => some (wordQF 0x3D sw m.toNat 0 15 0 2)
  | .brk sw p c => some (wordQF 0x3D sw p.toNat 0 15 c.toNat 3)
  | .trap sw x c => some (wordQF 0x3D sw x.toNat 0 15 c.toNat 4)
  | .tret sw x k => some (wordQF 0x3D sw x.toNat k.toNat 15 0 5)
  | .dbara sw b y z => some (wordQF 0x3D sw b.toNat y.toNat 15 z.toNat 6)
  | .dbarw sw b y => some (wordQF 0x3D sw b.toNat y.toNat 15 0 7)
  | .qprio sw x y => some (wordQF 0x3E sw x.toNat y.toNat 15 0 0)
  | .swapf sw x y f => some (wordQF 0x3E sw x.toNat y.toNat f.toNat 0 1)
  | .tlbinv sw x y f => some (wordQF 0x3E sw x.toNat y.toNat f.toNat 0 2)
  | .tlbinva sw y f => some (wordQF 0x3E sw 0 y.toNat f.toNat 0 3)
  | _ => none

/-- The lane opcode of an instruction (R57). -/
def LaneOp.opcode : LaneOp → Nat
  | .iadd => 0x000
  | .isub => 0x001
  | .imul => 0x002
  | .imulh => 0x003
  | .imad => 0x004
  | .imin => 0x005
  | .imax => 0x006
  | .iabs => 0x007
  | .ineg => 0x008
  | .iand => 0x009
  | .ior => 0x00A
  | .ixor => 0x00B
  | .iandn => 0x00C
  | .ishl => 0x00D
  | .ishr => 0x00E
  | .iclz => 0x00F
  | .ipopc => 0x010
  | .ibfe => 0x011
  | .ibfi => 0x012
  | .imov => 0x013
  | .lnop => 0x07F
  | .fadd => 0x080
  | .fsub => 0x081
  | .fmul => 0x082
  | .ffma => 0x083
  | .fdiv => 0x084
  | .fmin => 0x085
  | .fmax => 0x086
  | .fabs => 0x087
  | .fneg => 0x088
  | .frnd => 0x089
  | .fsqrt => 0x08A
  | .frcp => 0x08B
  | .frsq => 0x08C
  | .fexp2 => 0x08D
  | .flog2 => 0x08E
  | .fsin => 0x08F
  | .fcos => 0x090
  | .ftanh => 0x091
  | .icmpeq => 0x100
  | .icmpne => 0x101
  | .icmplt => 0x102
  | .icmple => 0x103
  | .icmpgt => 0x104
  | .icmpge => 0x105
  | .fcmpeq => 0x108
  | .fcmpne => 0x109
  | .fcmplt => 0x10A
  | .fcmple => 0x10B
  | .fcmpgt => 0x10C
  | .fcmpge => 0x10D
  | .fcmpun => 0x10E
  | .fcmpor => 0x10F
  | .pand => 0x110
  | .por => 0x111
  | .pxor => 0x112
  | .pandn => 0x113
  | .pnot => 0x114
  | .emand => 0x118
  | .emset => 0x119
  | .emget => 0x11A
  | .laneSel => 0x120
  | .cvt => 0x140
  | .dot4 => 0x148
  | .dot8 => 0x149
  | .dot2 => 0x14A
  | .scale => 0x150
  | .seed => 0x152
  | .ldg => 0x1C0
  | .stg => 0x1C1
  | .lds => 0x1C2
  | .sts => 0x1C3
  | .gaadd => 0x1D0
  | .gamin => 0x1D1
  | .gamax => 0x1D2
  | .gaand => 0x1D3
  | .gaor => 0x1D4
  | .gaxor => 0x1D5
  | .gaswap => 0x1D6
  | .gacas => 0x1D7
  | .gafadd => 0x1D8
  | .laadd => 0x1E0
  | .lamin => 0x1E1
  | .lamax => 0x1E2
  | .laand => 0x1E3
  | .laor => 0x1E4
  | .laxor => 0x1E5
  | .laswap => 0x1E6
  | .lacas => 0x1E7
  | .lafadd => 0x1E8
  | .shfl => 0x200
  | .shflu => 0x201
  | .shfld => 0x202
  | .shflx => 0x203
  | .ballot => 0x208
  | .vany => 0x209
  | .vall => 0x20A
  | .scanadd => 0x210
  | .scanmin => 0x211
  | .scanmax => 0x212
  | .redadd => 0x218
  | .redmin => 0x219
  | .redmax => 0x21A
  | .topk => 0x220

/-- The instruction of a lane opcode and its fields. No code runs this: the compiler builds no constructor beyond
the 244th that has fields. -/
noncomputable def LaneOp.instr (op : LaneOp) (w : LaneWord) : Instr :=
  match op with
  | .iadd => .iadd w
  | .isub => .isub w
  | .imul => .imul w
  | .imulh => .imulh w
  | .imad => .imad w
  | .imin => .imin w
  | .imax => .imax w
  | .iabs => .iabs w
  | .ineg => .ineg w
  | .iand => .iand w
  | .ior => .ior w
  | .ixor => .ixor w
  | .iandn => .iandn w
  | .ishl => .ishl w
  | .ishr => .ishr w
  | .iclz => .iclz w
  | .ipopc => .ipopc w
  | .ibfe => .ibfe w
  | .ibfi => .ibfi w
  | .imov => .imov w
  | .lnop => .lnop w
  | .fadd => .fadd w
  | .fsub => .fsub w
  | .fmul => .fmul w
  | .ffma => .ffma w
  | .fdiv => .fdiv w
  | .fmin => .fmin w
  | .fmax => .fmax w
  | .fabs => .fabs w
  | .fneg => .fneg w
  | .frnd => .frnd w
  | .fsqrt => .fsqrt w
  | .frcp => .frcp w
  | .frsq => .frsq w
  | .fexp2 => .fexp2 w
  | .flog2 => .flog2 w
  | .fsin => .fsin w
  | .fcos => .fcos w
  | .ftanh => .ftanh w
  | .icmpeq => .icmpeq w
  | .icmpne => .icmpne w
  | .icmplt => .icmplt w
  | .icmple => .icmple w
  | .icmpgt => .icmpgt w
  | .icmpge => .icmpge w
  | .fcmpeq => .fcmpeq w
  | .fcmpne => .fcmpne w
  | .fcmplt => .fcmplt w
  | .fcmple => .fcmple w
  | .fcmpgt => .fcmpgt w
  | .fcmpge => .fcmpge w
  | .fcmpun => .fcmpun w
  | .fcmpor => .fcmpor w
  | .pand => .pand w
  | .por => .por w
  | .pxor => .pxor w
  | .pandn => .pandn w
  | .pnot => .pnot w
  | .emand => .emand w
  | .emset => .emset w
  | .emget => .emget w
  | .laneSel => .laneSel w
  | .cvt => .cvt w
  | .dot4 => .dot4 w
  | .dot8 => .dot8 w
  | .dot2 => .dot2 w
  | .scale => .scale w
  | .seed => .seed w
  | .ldg => .ldg w
  | .stg => .stg w
  | .lds => .lds w
  | .sts => .sts w
  | .gaadd => .gaadd w
  | .gamin => .gamin w
  | .gamax => .gamax w
  | .gaand => .gaand w
  | .gaor => .gaor w
  | .gaxor => .gaxor w
  | .gaswap => .gaswap w
  | .gacas => .gacas w
  | .gafadd => .gafadd w
  | .laadd => .laadd w
  | .lamin => .lamin w
  | .lamax => .lamax w
  | .laand => .laand w
  | .laor => .laor w
  | .laxor => .laxor w
  | .laswap => .laswap w
  | .lacas => .lacas w
  | .lafadd => .lafadd w
  | .shfl => .shfl w
  | .shflu => .shflu w
  | .shfld => .shfld w
  | .shflx => .shflx w
  | .ballot => .ballot w
  | .vany => .vany w
  | .vall => .vall w
  | .scanadd => .scanadd w
  | .scanmin => .scanmin w
  | .scanmax => .scanmax w
  | .redadd => .redadd w
  | .redmin => .redmin w
  | .redmax => .redmax w
  | .topk => .topk w

/-- The lane opcode and the fields of a lane instruction; none for what is no lane instruction. -/
def laneFields (i : Instr) : Option (LaneOp × LaneWord) :=
  match i with
  | .iadd w => some (.iadd, w)
  | .isub w => some (.isub, w)
  | .imul w => some (.imul, w)
  | .imulh w => some (.imulh, w)
  | .imad w => some (.imad, w)
  | .imin w => some (.imin, w)
  | .imax w => some (.imax, w)
  | .iabs w => some (.iabs, w)
  | .ineg w => some (.ineg, w)
  | .iand w => some (.iand, w)
  | .ior w => some (.ior, w)
  | .ixor w => some (.ixor, w)
  | .iandn w => some (.iandn, w)
  | .ishl w => some (.ishl, w)
  | .ishr w => some (.ishr, w)
  | .iclz w => some (.iclz, w)
  | .ipopc w => some (.ipopc, w)
  | .ibfe w => some (.ibfe, w)
  | .ibfi w => some (.ibfi, w)
  | .imov w => some (.imov, w)
  | .lnop w => some (.lnop, w)
  | .fadd w => some (.fadd, w)
  | .fsub w => some (.fsub, w)
  | .fmul w => some (.fmul, w)
  | .ffma w => some (.ffma, w)
  | .fdiv w => some (.fdiv, w)
  | .fmin w => some (.fmin, w)
  | .fmax w => some (.fmax, w)
  | .fabs w => some (.fabs, w)
  | .fneg w => some (.fneg, w)
  | .frnd w => some (.frnd, w)
  | .fsqrt w => some (.fsqrt, w)
  | .frcp w => some (.frcp, w)
  | .frsq w => some (.frsq, w)
  | .fexp2 w => some (.fexp2, w)
  | .flog2 w => some (.flog2, w)
  | .fsin w => some (.fsin, w)
  | .fcos w => some (.fcos, w)
  | .ftanh w => some (.ftanh, w)
  | .icmpeq w => some (.icmpeq, w)
  | .icmpne w => some (.icmpne, w)
  | .icmplt w => some (.icmplt, w)
  | .icmple w => some (.icmple, w)
  | .icmpgt w => some (.icmpgt, w)
  | .icmpge w => some (.icmpge, w)
  | .fcmpeq w => some (.fcmpeq, w)
  | .fcmpne w => some (.fcmpne, w)
  | .fcmplt w => some (.fcmplt, w)
  | .fcmple w => some (.fcmple, w)
  | .fcmpgt w => some (.fcmpgt, w)
  | .fcmpge w => some (.fcmpge, w)
  | .fcmpun w => some (.fcmpun, w)
  | .fcmpor w => some (.fcmpor, w)
  | .pand w => some (.pand, w)
  | .por w => some (.por, w)
  | .pxor w => some (.pxor, w)
  | .pandn w => some (.pandn, w)
  | .pnot w => some (.pnot, w)
  | .emand w => some (.emand, w)
  | .emset w => some (.emset, w)
  | .emget w => some (.emget, w)
  | .laneSel w => some (.laneSel, w)
  | .cvt w => some (.cvt, w)
  | .dot4 w => some (.dot4, w)
  | .dot8 w => some (.dot8, w)
  | .dot2 w => some (.dot2, w)
  | .scale w => some (.scale, w)
  | .seed w => some (.seed, w)
  | .ldg w => some (.ldg, w)
  | .stg w => some (.stg, w)
  | .lds w => some (.lds, w)
  | .sts w => some (.sts, w)
  | .gaadd w => some (.gaadd, w)
  | .gamin w => some (.gamin, w)
  | .gamax w => some (.gamax, w)
  | .gaand w => some (.gaand, w)
  | .gaor w => some (.gaor, w)
  | .gaxor w => some (.gaxor, w)
  | .gaswap w => some (.gaswap, w)
  | .gacas w => some (.gacas, w)
  | .gafadd w => some (.gafadd, w)
  | .laadd w => some (.laadd, w)
  | .lamin w => some (.lamin, w)
  | .lamax w => some (.lamax, w)
  | .laand w => some (.laand, w)
  | .laor w => some (.laor, w)
  | .laxor w => some (.laxor, w)
  | .laswap w => some (.laswap, w)
  | .lacas w => some (.lacas, w)
  | .lafadd w => some (.lafadd, w)
  | .shfl w => some (.shfl, w)
  | .shflu w => some (.shflu, w)
  | .shfld w => some (.shfld, w)
  | .shflx w => some (.shflx, w)
  | .ballot w => some (.ballot, w)
  | .vany w => some (.vany, w)
  | .vall w => some (.vall, w)
  | .scanadd w => some (.scanadd, w)
  | .scanmin w => some (.scanmin, w)
  | .scanmax w => some (.scanmax, w)
  | .redadd w => some (.redadd, w)
  | .redmin w => some (.redmin, w)
  | .redmax w => some (.redmax, w)
  | .topk w => some (.topk, w)
  | _ => none

/-- The 15-bit field of an operand (R53). -/
def Operand.field (o : Operand) : BitVec 15 :=
  match o with
  | .unused => 0#15
  | .reg n last sel => BitVec.ofNat 15 (n.toNat * 2 ^ 5 + last.toNat * 2 ^ 4 + sel.toNat)
  | .scalar n => BitVec.ofNat 15 (1 * 2 ^ 13 + n.toNat * 2 ^ 7)
  | .sweep base step => BitVec.ofNat 15 (2 * 2 ^ 13 + base.toNat * 2 ^ 7 + step.toNat)
  | .imm x => BitVec.ofNat 15 (3 * 2 ^ 13 + x.toNat)
  | .pred p => BitVec.ofNat 15 p.toNat

/-- The 96-bit word of an opcode and its fields (R52). -/
def laneWordBits (opc : Nat) (w : LaneWord) : BitVec 96 :=
  BitVec.ofNat 96 (opc * 2 ^ 86 + w.sw.toNat * 2 ^ 85 + w.pn.toNat * 2 ^ 84 + w.pi.toNat * 2 ^ 81 + w.count.toNat * 2 ^ 69 +
    w.sat.toNat * 2 ^ 68 + w.rm.toNat * 2 ^ 65 + w.ty.toNat * 2 ^ 62 + w.d.field.toNat * 2 ^ 47 + w.a.field.toNat * 2 ^ 32 +
    w.b.field.toNat * 2 ^ 17 + w.c.field.toNat * 2 ^ 2)

/-- The 96-bit word of a lane instruction (R52, R57). -/
def encodeLane (i : Instr) : Option (BitVec 96) :=
  (laneFields i).map (fun x => laneWordBits x.1.opcode x.2)

/-- The words of an instruction: a scalar word or a lane word; none for an operation or event, which has no encoding. -/
inductive Encoded where
  | scalar (w : BitVec 32)
  | lane (w : BitVec 96)
  deriving DecidableEq, Repr

/-- The encoder. -/
def encode (i : Instr) : Option Encoded :=
  match encodeScalar i, encodeLane i with
  | some w, _ => some (.scalar w)
  | none, some w => some (.lane w)
  | none, none => none

/-- The decoder on encoded words: an instruction, or ILLEGAL_INSTR with its subcause. -/
noncomputable def decode (e : Encoded) : Instr :=
  match e with
  | .scalar w => match decodeScalar w with
    | .ok i => i
    | .error sub => .illegalInstr (w.setWidth 96) false sub
  | .lane w => match decodeLane w with
    | .ok (op, l) => op.instr l
    | .error sub => .illegalInstr w true sub

/-- The little-endian bytes of an encoded instruction as the part stores them (R8, R43, R50). -/
def Encoded.bytes (e : Encoded) : List Byte :=
  match e with
  | .scalar w => (List.range 4).map (fun k => bits w (8 * k) 8)
  | .lane w => (List.range 12).map (fun k => bits w (8 * k) 8)

/-- The number whose little-endian bytes are the list (R8). -/
def leNat (l : List Byte) : Nat :=
  match l with
  | [] => 0
  | b :: rest => b.toNat + 256 * leNat rest

/-- The decoder on stored bytes: a scalar instruction from four bytes, a lane instruction from twelve; with the rest of the list.
Fewer bytes hold no instruction. -/
noncomputable def decodeBytes (lane : Bool) (l : List Byte) : Option (Instr × List Byte) :=
  if lane then
    if l.length < 12 then none else some (decode (.lane (BitVec.ofNat 96 (leNat (l.take 12)))), l.drop 12)
  else
    if l.length < 4 then none else some (decode (.scalar (BitVec.ofNat 32 (leNat (l.take 4)))), l.drop 4)

/-- The instruction the decoder reads from a word numbered as the opcode table numbers it: up to 32 bits a scalar word, more
a lane word; none where the word is no instruction. -/
noncomputable def decodeTableWord (nbits w : Nat) : Option Instr :=
  if nbits ≤ 32 then
    match decodeScalar (BitVec.ofNat 32 (w % 2 ^ nbits)) with
    | .ok i => some i
    | .error _ => none
  else
    match decodeLane (BitVec.ofNat 96 (w % 2 ^ nbits)) with
    | .ok (op, l) => some (op.instr l)
    | .error _ => none

end Sys2Proof
end

