-- ==== Sys2Proof/Machine/Tab.lean ====
section
/-! DEFINITION. Sparse tables, byte order and memory contents: the operations that every other file of the machine uses. -/

namespace Sys2Proof.Machine

/-! ### Tables -/

/-- The value of a key. -/
def lookup {α : Type} (t : Tab α) (k : Nat) : Option α :=
  match t with
  | [] => none
  | (j, x) :: r => if j = k then some x else lookup r k

/-- The table with a key set, keys kept rising. -/
def put {α : Type} (t : Tab α) (k : Nat) (v : α) : Tab α :=
  match t with
  | [] => [(k, v)]
  | (j, x) :: r => if k < j then (k, v) :: (j, x) :: r else if k = j then (k, v) :: r else (j, x) :: put r k v

/-- The table without a key. -/
def del {α : Type} (t : Tab α) (k : Nat) : Tab α := t.filter (fun x => x.1 != k)

/-- The value of a key, or a default. -/
def lookupD {α : Type} (t : Tab α) (k : Nat) (d : α) : α := (lookup t k).getD d

/-- The table with a key changed where it is present. -/
def alter {α : Type} (t : Tab α) (k : Nat) (f : α → α) : Tab α :=
  match lookup t k with
  | some x => put t k (f x)
  | none => t

/-- The table with a key set to a byte; a zero byte is not listed. -/
def putByte (t : Tab Byte) (k : Nat) (v : Byte) : Tab Byte :=
  if v = 0#8 then del t k else put t k v

/-- The byte of a table of bytes: an unlisted byte reads as zero (log 5). -/
def byteOf (t : Tab Byte) (k : Nat) : Byte := lookupD t k 0#8

/-- Keys strictly rising. -/
def rising {α : Type} (t : Tab α) : Bool :=
  match t with
  | [] => true
  | [_] => true
  | (j, _) :: (k, x) :: r => j < k && rising ((k, x) :: r)

/-- The canonical form of a memory: addresses strictly rising and no entry equal to what an unlisted address reads as. -/
def Memory.wf (m : Tab Byte) : Bool := rising m && m.all (fun c => c.2 != 0#8)

/-! ### Byte order (R8) -/

/-- The `n` little-endian bytes of a number. -/
def leBytes (n v : Nat) : List Byte := (List.range n).map (fun k => BitVec.ofNat 8 (v / 256 ^ k))

/-- The bytes from address `a`. -/
def bytesOf (t : Tab Byte) (a n : Nat) : List Byte := (List.range n).map (fun k => byteOf t (a + k))

/-- The little-endian number at address `a`. -/
def numberOf (t : Tab Byte) (a n : Nat) : Nat := leNat (bytesOf t a n)

/-- Bytes written from address `a` up. -/
def putBytes (t : Tab Byte) (a : Nat) (l : List Byte) : Tab Byte :=
  match l with
  | [] => t
  | b :: r => putBytes (putByte t a b) (a + 1) r

/-- A number of `n` bits from a bit vector's toNat, field [lo+len-1:lo] (R8). -/
def fld (v lo len : Nat) : Nat := v / 2 ^ lo % 2 ^ len

/-- A word's field as a number. -/
def wfld (w : Word) (lo len : Nat) : Nat := fld w.toNat lo len

/-- Sign extension of a 64-bit word from its low `n` bits (R45). -/
def sext64 {n : Nat} (x : BitVec n) : Word := x.signExtend 64

/-- Canonical virtual addresses: bits [63:55] are copies of bit 54 (R118). -/
def canonical (v : Word) : Bool := (bits v 0 55).signExtend 64 == v

/-- Distinct elements, in order of first appearance. -/
def distinct (l : List Nat) : List Nat := l.eraseDups

/-- The aligned 64-byte lines of the bytes at the given addresses (R116, R150). -/
def linesTouched (addresses : List Nat) : Nat := (distinct (addresses.map (· / 64))).length

end Sys2Proof.Machine
end

