-- ==== Sys2Proof/Machine/Memory.lean ====
section
/-! DEFINITION. Physical places and their contents: device and host memory (R274, R275), the stores of a core's banks
(R199, R202), poison and correctable errors (R217, R295, R296), encrypted sectors (R298), and the conflicts that a write makes
with speculation past a FENCE (R312).
A place is a physical address below 2^52, or 2^52 + bank key × 2^22 + offset of R202 for a store of a bank. -/

namespace Sys2Proof.Machine

/-! ### Event counters (R376 to R378) -/

/-- A counter after `n` events of a source of unit `index` of a level (R376, R377). -/
def Counter.add (c : Counter) (level index source n : Nat) : Counter :=
  if wfld c.select 63 1 = 1 ∧ wfld c.select 24 3 = level ∧ wfld c.select 0 8 = source ∧
      (wfld c.select 62 1 = 1 ∨ wfld c.select 8 16 = index) then
    let total := wfld c.value 0 48 + n
    let ovf := if 2 ^ 48 ≤ total then 1 else wfld c.value 63 1
    { c with value := BitVec.ofNat 64 (ovf * 2 ^ 63 + total % 2 ^ 48) }
  else c

/-- `n` events of a source of one unit of a level: 3 core, 4 cluster, 5 die, 6 package (R376). -/
def count (s : State) (level index source n : Nat) : State :=
  { s with counters := s.counters.map (fun c => c.add level index source n) }

/-- A core by number (R197): in service and empty where nothing has happened to it. -/
def coreOf (s : State) (g : Nat) : Core :=
  lookupD s.cores g { side := 0, serial := 0, retired := false, keptOut := false, flipWanted := false, staging := false, errors := [] }

/-- A bank by key: Empty and fresh where nothing has happened to it (R200, R214). -/
def bankOf (s : State) (k : Nat) : Bank :=
  lookupD s.banks k { state := .empty, store := [], units := [], latent := [], poison := [], armed := [] }

/-- The key of a core's active bank. -/
def activeBank (s : State) (g : Nat) : Nat := (coreOf s g).side * 1024 + g

/-- One event of a core source (R221); a retired core counts nothing (R377). -/
def countCore (s : State) (g source n : Nat) : State :=
  if (coreOf s g).retired then s else count s 3 g source n

/-- A cluster that is out of service (R270, R379). -/
def clusterOut (s : State) (c : Nat) : Bool := decide (c ∈ s.lost) || decide (c ∈ s.keptOutClusters)

/-- One event of a cluster source (R271); a cluster out of service counts nothing (R377). -/
def countCluster (s : State) (c source n : Nat) : State := if clusterOut s c then s else count s 4 c source n

/-- One event of a die source, or of a memory controller's source (R299). -/
def countDie (s : State) (d source n : Nat) : State := count s 5 d source n

/-- One event of the package (R378). -/
def countPackage (s : State) (source n : Nat) : State := count s 6 0 source n

/-- The die that owns a physical address of device memory (R274). -/
def dieOf (a : Nat) : Nat := a / 2 ^ 37

/-- One event of the controller of a place of device memory: bit 7 set and the stack within the die in bit 4 (R274, R299). -/
def countController (s : State) (a source n : Nat) : State :=
  countDie s (dieOf a) (source + (a / 256 % 2) * 16) n

/-! ### Places -/

/-- The place of an offset of a bank's region (R202). -/
def bankPlace (key off : Nat) : Nat := 2 ^ 52 + key * 2 ^ 22 + off

/-- A place in a bank's store. -/
def inStore (p : Nat) : Bool := 2 ^ 52 ≤ p

/-- The bank key of a store place. -/
def placeBank (p : Nat) : Nat := (p - 2 ^ 52) / 2 ^ 22

/-- The offset of a store place in its region. -/
def placeOffset (p : Nat) : Nat := (p - 2 ^ 52) % 2 ^ 22

/-- Device memory (R275). -/
def inDevice (p : Nat) : Bool := p < 2 ^ 40

/-- Host memory (R275). -/
def inHost (p : Nat) : Bool := 0x2000_0000_0000 ≤ p && p < 2 ^ 52

/-- The on-chip window (R275). -/
def inWindow (p : Nat) : Bool := 0x1000_0000_0000 ≤ p && p < 0x1001_0000_0000

/-- A region of the physical map that is reserved (R275). -/
def inReserved (p : Nat) : Bool := !(inDevice p || inHost p || inWindow p) && p < 2 ^ 52

/-- Whether an offset of a core's region holds a store: 0 scratchpad, 1 tile, 2 accumulator (R202). -/
def offsetStore (o : Nat) : Option Nat :=
  if o < 0xC0000 then some 0
  else if 0x100000 ≤ o ∧ o < 0x140000 then some 1
  else if 0x200000 ≤ o ∧ o < 0x240000 then some 2
  else none

/-- The fresh unit of an offset: 4 KiB blocks of scratchpad, tiles, accumulators (R200). -/
def unitOf (o : Nat) : Nat :=
  if o < 0xC0000 then o / 0x1000 else if o < 0x140000 then 192 + (o - 0x100000) / 0x4000 else 208 + (o - 0x200000) / 0x8000

/-- The core of a window address. -/
def windowCore (p : Nat) : Nat := (p - 0x1000_0000_0000) / 2 ^ 22

/-- What a window address reaches (R202): the place in the active bank; none for a reserved offset, an Empty bank or a
retired core. -/
def windowPlace (s : State) (p : Nat) : Option Nat :=
  let g := windowCore p
  let o := (p - 0x1000_0000_0000) % 2 ^ 22
  let k := activeBank s g
  if (coreOf s g).retired ∨ (bankOf s k).state = .empty ∨ (offsetStore o).isNone then none else some (bankPlace k o)

/-- The byte of a place. -/
def byteAt (s : State) (p : Nat) : Byte :=
  if inStore p then byteOf (bankOf s (placeBank p)).store (placeOffset p) else byteOf s.mem p

/-- The number in the `n` bytes from a place (R8). -/
def numberAt (s : State) (p n : Nat) : Nat := leNat ((List.range n).map (fun k => byteAt s (p + k)))

/-- A bank with one byte written: the first write to a fresh unit clears its mark (R200). -/
def Bank.set (b : Bank) (o : Nat) (v : Byte) : Bank :=
  { b with store := putByte b.store o v, units := if unitOf o ∈ b.units then b.units else unitOf o :: b.units }

/-- A bank changed. -/
def onBank (s : State) (k : Nat) (f : Bank → Bank) : State := { s with banks := put s.banks k (f (bankOf s k)) }

/-- One byte written at a place. -/
def setByte (s : State) (p : Nat) (v : Byte) : State :=
  if inStore p then
    let k := placeBank p
    let o := placeOffset p
    let s' := if unitOf o ∈ (bankOf s k).units then s else countCore s (k % 1024) 0x16 1
    onBank s' k (fun b => b.set o v)
  else { s with mem := putByte s.mem p v }

/-- Bytes written at places, in order. -/
def setCells (s : State) (l : List (Nat × Byte)) : State := l.foldl (fun t c => setByte t c.1 c.2) s

/-! ### Errors and poison -/

/-- A store unit of 8 bytes, by the place divided by 8; a sector of 64 bytes of memory, by the place divided by 64. -/
def unitPoisoned (s : State) (p : Nat) : Bool :=
  if inStore p then (placeOffset p / 8) ∈ (bankOf s (placeBank p)).poison else (p / 64) ∈ s.poison

/-- A sector of device memory becomes poisoned: counted, reported with its address, and a health event (R295, R361). -/
def poisonSector (s : State) (sector : Nat) : State :=
  let t := if sector ∈ s.poison then s else { s with poison := sector :: s.poison }
  { countController t (sector * 64) 0x83 1 with msix := 17 :: s.msix, reports := .memory (sector * 64) :: s.reports }

/-- A unit of a bank becomes poisoned (R217). -/
def poisonUnit (s : State) (k u : Nat) : State :=
  onBank s k (fun b => { b with poison := if u ∈ b.poison then b.poison else u :: b.poison })

/-- Bad bits of a sector that the code corrects: all in one aligned 4-bit symbol (R295). -/
def oneSymbol (bits : List Nat) : Bool := (distinct (bits.map (· / 4))).length ≤ 1

/-- What an access meets at a place: a correctable error is corrected and counted, an uncorrectable one poisons its unit
or sector, a health event (R217, R295, R361). -/
def meetOne (s : State) (p : Nat) : State :=
  if inStore p then
    let k := placeBank p
    let u := placeOffset p / 8
    match lookup (bankOf s k).latent u with
    | none => s
    | some n =>
      let s' := onBank s k (fun b => { b with latent := del b.latent u })
      if n ≤ 1 then countCore s' (k % 1024) 0x13 1
      else
        let s'' := poisonUnit s' k u
        { s'' with msix := 17 :: s''.msix }
  else
    match lookup s.memLatent (p / 64) with
    | none => s
    | some bits =>
      let s' := { s with memLatent := del s.memLatent (p / 64) }
      if oneSymbol bits then countController s' p 0x82 1 else poisonSector s' (p / 64)

/-- What an access meets at its places. -/
def meet (s : State) (l : List Nat) : State := l.foldl meetOne s

/-- The lowest-listed poisoned place of an access. -/
def firstPoison (s : State) (l : List Nat) : Option Nat := l.find? (unitPoisoned s)

/-- Whether a list of places covers all `n` bytes of the block of `p` (R217, R296). -/
def covers (l : List Nat) (n p : Nat) : Bool := (List.range n).all (fun k => decide (p / n * n + k ∈ l))

/-- A bank whose 8-byte units that a write covers whole lose their errors and poison marks (R217). -/
def Bank.clearWhole (b : Bank) (offsets : List Nat) : Bank :=
  { b with
    poison := b.poison.filter (fun u => !covers offsets 8 (u * 8))
    latent := b.latent.filter (fun x => !covers offsets 8 (x.1 * 8)) }

/-- A write clears the poison and errors of each unit or sector that it covers whole (R217, R296). -/
def clearWhole (s : State) (l : List Nat) : State :=
  let s' := { s with
    poison := s.poison.filter (fun q => !covers l 64 (q * 64))
    memLatent := s.memLatent.filter (fun x => !covers l 64 (x.1 * 64)) }
  (distinct ((l.filter inStore).map placeBank)).foldl
    (fun t k =>
      let b := bankOf t k
      if b.poison.isEmpty && b.latent.isEmpty then t
      else onBank t k (fun b => b.clearWhole ((l.filter (fun p => inStore p && placeBank p == k)).map placeOffset))) s'

/-! ### Encrypted sectors (R298) -/

/-- Whether nothing has written a sector, in either form: it has no stored form to fail a tag (log 114). -/
def untouched (s : State) (q : Nat) : Bool :=
  (lookup s.plainSectors q).isNone && (List.range 64).all (fun i => byteAt s (q * 64 + i) == 0#8)

/-- A sector takes the plain form. -/
def markPlain (s : State) (q : Nat) : State := { s with plainSectors := put s.plainSectors q () }

/-- A byte as an access sees it: through a protected mapping of key `key`, or plain. None where the tag fails. -/
def viewByte (s : State) (p : Nat) (key : Option Nat) : Option Byte :=
  if inStore p then some (byteAt s p)
  else match lookup s.ciphered (p / 64), key with
    | none, none => some (byteAt s p)
    | some k, some k' => if k = k' then some (byteAt s p) else none
    | none, some _ => if untouched s (p / 64) then some (byteAt s p) else none
    | some k, none =>
      let stored := Config.storedCipher k (p / 64) ((List.range 64).map (fun i => byteAt s (p / 64 * 64 + i)))
      some (stored.getD (p % 64) 0#8)

/-- The sectors of an access whose tag fails are poisoned and counted (R298). -/
def tagFailures (s : State) (l : List Nat) (key : Option Nat) : State :=
  (distinct (l.map (· / 64))).foldl
    (fun t q => if (viewByte s (q * 64) key).isNone then poisonSector (countController t (q * 64) 0x85 1) q else t) s

/-- The stored form that a write leaves (R298): a sector written whole takes the writer's form; a partial write through a
mapping of another form leaves a sector whose tag fails, or overlays stored ciphertext. A sector that nothing has written takes
the writer's form from its first write. -/
def storeForm (s : State) (l : List Nat) (key : Option Nat) : State :=
  (distinct ((l.filter (fun p => !inStore p)).map (· / 64))).foldl
    (fun t q =>
      match lookup t.ciphered q, key with
      | none, none => markPlain t q
      | some k, some k' =>
        if k = k' then t
        else if covers l 64 (q * 64) then { t with ciphered := put t.ciphered q k' }
        else poisonSector (countController t (q * 64) 0x85 1) q
      | none, some k' =>
        if covers l 64 (q * 64) || untouched t q then { t with ciphered := put t.ciphered q k', plainSectors := del t.plainSectors q }
        else poisonSector (countController (markPlain t q) (q * 64) 0x85 1) q
      | some k, none =>
        let stored := Config.storedCipher k q ((List.range 64).map (fun i => byteAt t (q * 64 + i)))
        { markPlain t q with ciphered := del t.ciphered q, mem := putBytes t.mem (q * 64) ((List.range 64).map (fun i => stored.getD i 0#8)) }) s

/-! ### Speculation past a FENCE (R311, R312) -/

/-- A slot's berth register with its dead bit, restored. -/
def Slot.restore (sl : Slot) (x : ShadowReg) : Slot :=
  { sl with
    dead := if x.dead then sl.dead ||| BitVec.twoPow 256 x.reg else sl.dead &&& ~~~(BitVec.twoPow 256 x.reg)
    lines := alter sl.lines (x.reg / 4) (fun ln => { ln with data := ln.data.set! (x.reg % 4) x.value }) }

/-- Whether the clause at the head was enqueued before the pending FENCE: its words are not past the fence (R310, R311). -/
def Fibre.prefence (f : Fibre) : Bool :=
  match f.fence, f.clauses with
  | some x, c :: _ => x.checkpoint.clauses.any (fun d => d.serial == c.serial)
  | _, _ => false

/-- The fibre at its state just after the fence issued (R312). -/
def Fibre.rolledBack (f : Fibre) (x : Fence) : Fibre :=
  let c := x.checkpoint
  { f with
    sregs := c.sregs, preds := c.preds, em := c.em, aflags := c.aflags, gens := c.gens, spc := c.spc, clauses := c.clauses,
    running := c.running, flags := c.flags, spend := c.spend, lpend := c.lpend, sStall := none, lStall := none, sWait := none,
    parked := if f.prefence then f.parked else none, lReplay := if f.prefence then f.lReplay else none,
    lRaised := if f.prefence then f.lRaised else none, replayOf := if f.prefence then f.replayOf else none, sReplay := none,
    fence := some { x with reads := [], stores := [], shadows := [], heldTrap := none, issued := 0, rolledBack := true } }

/-- The key of a fibre's slot. -/
def slotOfFibre (fk : Nat) : Nat := fk / 65536 * 16384 + fk % 65536 / 4

/-- The key of a fibre's bank and crew. -/
def bankOfFibre (fk : Nat) : Nat := fk / 65536 * 1024 + fk % 65536 / 64

/-- A fibre is rolled back to its pending fence (R312). -/
def rollback (s : State) (fk : Nat) : State :=
  match lookup s.fibres fk with
  | none => s
  | some f =>
    match f.fence with
    | none => s
    | some x =>
      { s with
        fibres := put s.fibres fk (f.rolledBack x)
        slots := alter s.slots (slotOfFibre fk) (fun sl => x.shadows.foldl Slot.restore sl) }

/-- Every fibre that has read one of the sectors speculatively is rolled back (R312): the writes of what a fibre issued before its fence count
too, since no observer can tell a FENCE from a FENCEN (log 113). -/
def conflict (s : State) (sectors : List Nat) : State :=
  s.fibres.foldl
    (fun t e =>
      match e.2.fence with
      | none => t
      | some x => if x.reads.any (fun q => decide (q ∈ sectors)) then rollback t e.1 else t) s

/-! ### Writing -/

/-- A write of bytes at places by one access: the stored form, the bytes, what it clears, and the conflicts it makes. -/
def write (s : State) (key : Option Nat) (l : List (Nat × Byte)) : State :=
  let ps := l.map (·.1)
  conflict (clearWhole (setCells (storeForm s ps key) l) ps) (distinct (ps.map (· / 64)))

/-- The cells of bytes laid from a place up. -/
def cells (p : Nat) (l : List Byte) : List (Nat × Byte) := (List.range l.length).zipWith (fun k b => (p + k, b)) l

/-- The cells of a number of `n` bytes at a place (R8). -/
def numberCells (p n v : Nat) : List (Nat × Byte) := cells p (leBytes n v)

end Sys2Proof.Machine
end

