-- ==== Sys2Proof/Machine/Translate.lean ====
section
/-! DEFINITION. Translation (R276 to R285): canonical form, the heap window, the page tables with their cached entries, and
local scratchpad addresses (R138, R204, R257). -/

namespace Sys2Proof.Machine

/-- Why an access fails (R282, R296, R218): `resolvable` gives the level and KIND of the invalid entry; `ecc` is a failed unit
of another deck's store; `killed` ends the accessing crew itself. -/
inductive Fail where
  | ecc
  | killed
  | translate
  | permit
  | poison
  | resolvable (level kind : Nat)
  deriving DecidableEq, Repr

/-- What an access wants of a page (R282). -/
inductive Want where
  | read | write | fetch
  deriving DecidableEq, Repr

/-- Whose addresses are translated: the context, its rights, its partition's dies and memory key, and its heap window. -/
structure Env where
  ctx : Nat
  tenant : BitVec 12
  prot : Bool
  root : Nat
  dies : List Nat
  key : Nat
  heapBase : Word
  heapLimit : Word
  heapOffset : Word
  heapOn : Bool
  deriving DecidableEq, Repr

/-- The heap window's bounds as signed addresses (R278). -/
def heapBounds (base limit : Word) : Int × Int :=
  (((bits base 19 36 ++ 0#19).signExtend 64).toInt, ((bits limit 19 36 ++ 0#19).signExtend 64).toInt)

/-- Whether [a, b) lies inside the device memory of the dies of a partition (R278). -/
def insideDies (dies : List Nat) (a b : Int) : Bool :=
  0 ≤ a && a < b && b ≤ 2 ^ 40 &&
    (List.range 8).all (fun d => decide (d ∈ dies) || decide (b ≤ (d : Int) * 2 ^ 37) || decide (((d : Int) + 1) * 2 ^ 37 ≤ a))

/-- The check of R278: the window is rejected. -/
def heapRejects (dies : List Nat) (base limit offset : Word) : Bool :=
  let (b, t) := heapBounds base limit
  b ≥ t || !insideDies dies (b + offset.toInt) (t + offset.toInt)

/-- The fields of a context's descriptor as they were registered (R319). -/
def Context.admitted (c : Context) : Admitted :=
  { gen := c.gen, tenant := c.tenant, priv := c.priv, prot := c.prot, topUp := c.topUp, keySlot := c.keySlot, root := c.root, imageBase := c.imageBase,
    sealedBase := c.sealedBase, stackTop := c.stackTop, stackBytes := c.stackBytes, statusArea := c.statusArea }

/-- The environment of a context by descriptor fields and heap registers. -/
def envWith (s : State) (n : Nat) (c : Context) (o : Admitted) (base limit offset : Word) (rejected : Bool) : Env :=
  let p := lookup s.partitions c.partition
  { ctx := n, tenant := o.tenant, prot := o.prot, root := o.root,
    dies := match p with | some p => p.dies | none => []
    key := match p with | some p => p.key | none => 0
    heapBase := base, heapLimit := limit, heapOffset := offset,
    heapOn := bits base 0 1 == 1#1 && !rejected }

/-- How a crew sees addresses. -/
def Crew.view (w : Crew) : View :=
  { own := w.own, heapBase := w.heapBase, heapLimit := w.heapLimit, heapOffset := w.heapOffset, heapRejected := w.heapRejected }

/-- The environment of a context's addresses as a crew of it sees or saw them. -/
def envOfView (s : State) (n : Nat) (v : View) : Option Env :=
  (lookup s.contexts n).map (fun c => envWith s n c v.own v.heapBase v.heapLimit v.heapOffset v.heapRejected)

/-- The environment of a crew (R276): by the descriptor fields that its admission read (R319). -/
def envOf (s : State) (w : Crew) : Option Env := envOfView s w.ctx w.view

/-- The environment of a context outside any crew, by descriptor fields: its descriptor's heap window (R319, R398). -/
def envOfAdmitted (s : State) (n : Nat) (o : Admitted) : Option Env :=
  (lookup s.contexts n).map (fun c =>
    let e := envWith s n c o c.heapBase c.heapLimit c.heapOffset false
    { e with heapOn := e.heapOn && !heapRejects e.dies c.heapBase c.heapLimit c.heapOffset })

/-- The environment of a context outside any crew, by its registered descriptor. -/
def envOfContext (s : State) (n : Nat) : Option Env := (lookup s.contexts n).bind (fun c => envOfAdmitted s n c.admitted)

/-- The index of an address at a level (R279). -/
def levelIndex (v : Word) (level : Nat) : Nat := v.toNat / 2 ^ (19 + 9 * level) % 512

/-- The page size of a leaf of a level (R279). -/
def pageSize (level : Nat) : Nat := 2 ^ (19 + 9 * level)

/-- The tag of a cached entry: the address bits that it covers (R285). -/
def tlbTag (v : Word) (level : Nat) : Nat := v.toNat % 2 ^ 55 / 2 ^ (19 + 9 * level)

/-- A well-formed table entry (R281). -/
def tableOk (level : Nat) (e : Word) : Bool :=
  wfld e 52 12 == 0 && wfld e 2 10 == 0 && level != 0 && inDevice (wfld e 12 40 * 2 ^ 12)

/-- A well-formed leaf (R281). -/
def leafOk (level : Nat) (e : Word) : Bool :=
  let frame := wfld e 19 33 * 2 ^ 19
  let size := wfld e 17 2
  level != 3 && size == level && frame % pageSize level == 0 && wfld e 5 2 != 3 &&
    !(wfld e 3 1 == 1 && wfld e 2 1 == 0) && !inReserved frame &&
    !(inWindow frame && size != 0) &&
    !(wfld e 7 1 == 1 && (size != 0 || wfld e 19 1 == 1 || !inDevice frame)) &&
    !((wfld e 8 1 == 1 || wfld e 15 1 == 1) && !inDevice frame)

/-- The entry a walk uses at a level: the entry's current value, or a value that a TLB still holds (R285). -/
def walkEntry (s : State) (ctx : Nat) (v : Word) (level table : Nat) : Word :=
  let now := BitVec.ofNat 64 (numberAt s (table + 8 * levelIndex v level) 8)
  let cached := s.tlb.filter (fun t => t.ctx == ctx && t.level == level && t.tag == tlbTag v level && t.entry != now)
  match cached.find? (fun t => Config.choice s.tick t.entry.toNat level) with
  | some t => t.entry
  | none => now

/-- A walk (R279 to R282): the leaf's level and value, with the entries used. `n` levels remain. -/
def walk (s : State) (ctx : Nat) (v : Word) (n table : Nat) : Except Fail (Nat × Word × List TlbEntry) :=
  match n with
  | 0 => .error .translate
  | n + 1 =>
    if unitPoisoned s (table + 8 * levelIndex v n) then .error .poison
    else
      let e := walkEntry s ctx v n table
      let used : TlbEntry := { ctx := ctx, place := table + 8 * levelIndex v n, level := n, tag := tlbTag v n, entry := e }
      if wfld e 0 1 = 0 then
        if wfld e 1 2 = 1 ∨ wfld e 1 2 = 2 then .error (.resolvable n (wfld e 1 2)) else .error .translate
      else if wfld e 1 1 = 1 then
        if leafOk n e then .ok (n, e, [used]) else .error .translate
      else if tableOk n e then
        match walk s ctx v n (wfld e 12 40 * 2 ^ 12) with
        | .ok (k, leaf, l) => .ok (k, leaf, used :: l)
        | .error x => .error x
      else .error .translate

/-- The places of the entries that a walk reads, in order. `n` levels remain. -/
def walkPlaces (s : State) (ctx : Nat) (v : Word) (n table : Nat) : List Nat :=
  match n with
  | 0 => []
  | n + 1 =>
    let e := walkEntry s ctx v n table
    (table + 8 * levelIndex v n) ::
      (if wfld e 0 2 = 1 ∧ tableOk n e = true then walkPlaces s ctx v n (wfld e 12 40 * 2 ^ 12) else [])

/-- The frame of a leaf that an access uses: of a shadowed pair the visible one, or the shadow for an engine's write (R283). -/
def leafFrame (e : Word) (shadowWrite : Bool) : Nat :=
  let frame := wfld e 19 33 * 2 ^ 19
  if wfld e 7 1 = 1 then
    if shadowWrite then frame + (1 - wfld e 16 1) * 2 ^ 19 else frame + wfld e 16 1 * 2 ^ 19
  else frame

/-- The checks of a leaf in the order of R282, steps 3 to 6. -/
def leafDenied (env : Env) (w : Want) (e : Word) : Bool :=
  let frame := wfld e 19 33 * 2 ^ 19
  wfld e 52 12 != env.tenant.toNat || (inDevice frame && !decide (dieOf frame ∈ env.dies)) ||
    (wfld e 15 1 == 1 && !env.prot) ||
    (match w with | .read => wfld e 2 1 == 0 | .write => wfld e 3 1 == 0 | .fetch => wfld e 4 1 == 0)

/-- Whether an address lies in the heap window (R278). -/
def inHeap (env : Env) (v : Word) : Bool :=
  env.heapOn && decide ((heapBounds env.heapBase env.heapLimit).1 ≤ v.toInt) &&
    decide (v.toInt < (heapBounds env.heapBase env.heapLimit).2)

/-- The translation of one address (R276): the page, or why it fails. `engine` marks an asynchronous engine's access. -/
def translate (s : State) (env : Env) (v : Word) (w : Want) (engine : Bool) : Except Fail Page :=
  if !canonical v then .error .translate
  else if inHeap env v then
    if w = .fetch then .error .permit
    else .ok { frame := (v + env.heapOffset).toNat / 2 ^ 19 * 2 ^ 19, key := if env.prot then some env.key else none,
               collective := none, policy := 0, shadowed := false }
  else
    match walk s env.ctx v 4 env.root with
    | .error x => .error x
    | .ok (level, e, _) =>
      if leafDenied env w e then .error .permit
      else
        .ok { frame := leafFrame e (engine && w == .write) + v.toNat % pageSize level / 2 ^ 19 * 2 ^ 19,
              key := if wfld e 15 1 = 1 then some env.key else none,
              collective := if wfld e 8 1 = 1 then some (wfld e 9 6) else none,
              policy := wfld e 5 2, shadowed := wfld e 7 1 == 1 }

/-- The entries that a successful translation leaves in the TLBs (R285). -/
def remember (s : State) (env : Env) (v : Word) : State :=
  if !canonical v || inHeap env v then s
  else
    match walk s env.ctx v 4 env.root with
    | .error _ => s
    | .ok (_, _, l) => { s with tlb := l.filter (fun t => !decide (t ∈ s.tlb)) ++ s.tlb }

/-- What the walk for an address meets (R295, R296, R299): the errors of the sectors of its entries, and the first that is poisoned. -/
def walked (s : State) (env : Env) (v : Word) : State :=
  if (s.memLatent.isEmpty && s.poison.isEmpty) || !canonical v || inHeap env v then s
  else
    let l := walkPlaces s env.ctx v 4 env.root
    let t := meet s l
    match l.find? (unitPoisoned t) with
    | some p => countController t p 0x84 1
    | none => t

/-- The same for the pages of `n` bytes at each of some addresses. -/
def walkedRanges (s : State) (env : Env) (l : List Word) (n : Nat) : State :=
  if s.memLatent.isEmpty && s.poison.isEmpty then s
  else
    (distinct (l.flatMap (fun v => (List.range ((v.toNat % 2 ^ 19 + n - 1) / 2 ^ 19 + 1)).map (fun k => (v.toNat / 2 ^ 19 + k) % 2 ^ 45)))).foldl
      (fun t k => walked t env (BitVec.ofNat 64 (k * 2 ^ 19))) s

/-- The same for the pages of `n` bytes at an address. -/
def walkedRange (s : State) (env : Env) (v : Word) (n : Nat) : State := walkedRanges s env [v] n

/-- The place of a physical address. -/
def placeOf (s : State) (p : Nat) : Option Nat := if inWindow p then windowPlace s p else some p

/-- The spots of `n` bytes from an address, translated page by page; the address of the first byte that fails, and why. -/
def spotsFrom (s : State) (env : Env) (w : Want) (engine : Bool) (n : Nat) (v : Word) (memo : Option (Nat × Page)) :
    Except (Word × Fail) (List Spot) :=
  match n with
  | 0 => .ok []
  | n + 1 =>
    let page := match memo with
      | some (k, p) => if k = v.toNat / 2 ^ 19 then Except.ok p else translate s env v w engine
      | none => translate s env v w engine
    match page with
    | .error x => .error (v, x)
    | .ok p =>
      match spotsFrom s env w engine n (v + 1) (some (v.toNat / 2 ^ 19, p)) with
      | .error x => .error x
      | .ok l =>
        let phys := p.frame + v.toNat % 2 ^ 19
        .ok ({ phys := phys, place := placeOf s phys, page := p } :: l)

/-- The spots of an access of `n` bytes at `v`. -/
def spots (s : State) (env : Env) (v : Word) (n : Nat) (w : Want) (engine : Bool) : Except (Word × Fail) (List Spot) :=
  spotsFrom s env w engine n v none

/-! ### Local scratchpad addresses -/

/-- The region of a local address (R138): none outside every region, `some none` the own scratchpad, `some (some k)` the
peer window `k`. -/
def localRegion (a : Nat) : Option (Option Nat) :=
  if a < 0xC0000 then some none
  else if 0x800000 ≤ a ∧ a < 0x1000000 ∧ (a - 0x800000) % 0x100000 < 0xC0000 then some (some ((a - 0x800000) / 0x100000))
  else none

/-- The place of a local address for a crew of bank `k` (R138, R204, R257). -/
def localPlace (s : State) (k : Nat) (a : Nat) : Option Nat :=
  match localRegion a with
  | none => none
  | some none => some (bankPlace k a)
  | some (some m) =>
    match (lookup s.crews k).bind (fun w => lookup s.decks w.deck) with
    | none => none
    | some d => (d.members[m]?).map (fun b => bankPlace b ((a - 0x800000) % 0x100000))

/-- The places of `n` bytes from a local address, all in one region (R138). -/
def localPlaces (s : State) (k a n : Nat) : Option (List Nat) :=
  if n = 0 then some []
  else if localRegion a = localRegion (a + n - 1) ∧ a + n ≤ 2 ^ 24 then
    (localPlace s k a).map (fun p => (List.range n).map (fun i => p + i))
  else none

/-- Whether a local address lies in a deck-peer window (R116). -/
def isPeer (a : Nat) : Bool := 0x800000 ≤ a

end Sys2Proof.Machine
end

