-- ==== Sys2Proof/Machine/Flags.lean ====
section
/-! DEFINITION. Number formats, rounding, conversions and the flags they raise (R83 to R104, R111). -/

namespace Sys2Proof.Machine

/-! ### The arithmetic flags (R111) -/

/-- A set of `AFLAGS`[5:0] bits. -/
abbrev Fl := BitVec 6

namespace Fl

/-- invalid. -/
def invalid : BitVec 6 := 1#6
/-- divzero. -/
def divzero : BitVec 6 := 2#6
/-- overflow. -/
def overflow : BitVec 6 := 4#6
/-- underflow. -/
def underflow : BitVec 6 := 8#6
/-- inexact. -/
def inexact : BitVec 6 := 16#6
/-- sat. -/
def sat : BitVec 6 := 32#6

end Fl

/-- A flag where a condition holds. -/
def raiseIf (c : Bool) (x : Fl) : Fl := if c then x else 0#6

/-! ### Formats (R85, R88) -/

/-- A floating-point format: widths, bias, the code of the largest finite magnitude, the codes of infinity and the canonical NaN
where it has them. -/
structure Fmt where
  width : Nat
  mbits : Nat
  bias : Nat
  maxCode : Nat
  inf : Option Nat
  nan : Option Nat
  /-- Whether NaNs with a clear top fraction bit are signalling (R87, R88). -/
  signals : Bool
  deriving DecidableEq, Repr

/-- FP32. -/
def Fmt.fp32 : Fmt := { width := 32, mbits := 23, bias := 127, maxCode := 0x7F7FFFFF, inf := some 0x7F800000, nan := some 0x7FC00000, signals := true }
/-- FP16. -/
def Fmt.fp16 : Fmt := { width := 16, mbits := 10, bias := 15, maxCode := 0x7BFF, inf := some 0x7C00, nan := some 0x7E00, signals := true }
/-- BF16. -/
def Fmt.bf16 : Fmt := { width := 16, mbits := 7, bias := 127, maxCode := 0x7F7F, inf := some 0x7F80, nan := some 0x7FC0, signals := true }
/-- E4M3. -/
def Fmt.e4m3 : Fmt := { width := 8, mbits := 3, bias := 7, maxCode := 0x7E, inf := none, nan := some 0x7F, signals := false }
/-- E5M2. -/
def Fmt.e5m2 : Fmt := { width := 8, mbits := 2, bias := 15, maxCode := 0x7B, inf := some 0x7C, nan := some 0x7E, signals := false }
/-- E3M2. -/
def Fmt.e3m2 : Fmt := { width := 6, mbits := 2, bias := 3, maxCode := 0x1F, inf := none, nan := none, signals := false }
/-- E2M3. -/
def Fmt.e2m3 : Fmt := { width := 6, mbits := 3, bias := 1, maxCode := 0x1F, inf := none, nan := none, signals := false }
/-- E2M1. -/
def Fmt.e2m1 : Fmt := { width := 4, mbits := 1, bias := 1, maxCode := 0x7, inf := none, nan := none, signals := false }

/-- The floating-point format of a code of R59. -/
def fmtOf (code : Nat) : Option Fmt :=
  match code with
  | 0 => some .fp32
  | 1 => some .fp16
  | 2 => some .bf16
  | 3 => some .e4m3
  | 4 => some .e5m2
  | 5 => some .e3m2
  | 6 => some .e2m3
  | 7 => some .e2m1
  | _ => none

/-- The exponent of the smallest normal. -/
def Fmt.emin (f : Fmt) : Int := 1 - (f.bias : Int)

/-! ### Values -/

/-- What an operand encodes: a NaN, an infinity, a signed zero, or (−1)^neg × m × 2^e with m > 0. -/
inductive Val where
  | nan (signalling : Bool)
  | inf (neg : Bool)
  | zero (neg : Bool)
  | fin (neg : Bool) (m : Nat) (e : Int)
  deriving DecidableEq, Repr

/-- The value of an encoding (R85, R88). -/
def Fmt.decode (f : Fmt) (x : Nat) : Val :=
  let neg := x / 2 ^ (f.width - 1) % 2 == 1
  let mag := x % 2 ^ (f.width - 1)
  let top := match f.inf with | some i => decide (i < mag) | none => (match f.nan with | some n => mag == n | none => false)
  if top then .nan (f.signals && mag / 2 ^ (f.mbits - 1) % 2 == 0)
  else if f.inf = some mag then .inf neg
  else if mag = 0 then .zero neg
  else
    let ex := mag / 2 ^ f.mbits
    let fr := mag % 2 ^ f.mbits
    if ex = 0 then .fin neg fr (f.emin - f.mbits) else .fin neg (fr + 2 ^ f.mbits) (f.emin - f.mbits + (ex - 1 : Nat))

/-- An encoding with its sign. -/
def Fmt.sign (f : Fmt) (neg : Bool) (mag : Nat) : Nat := if neg then mag + 2 ^ (f.width - 1) else mag

/-- The canonical NaN; a format without one has no such result (R99 gives +0). -/
def Fmt.canonicalNaN (f : Fmt) : Nat := f.nan.getD 0

/-! ### Rounding (R93 to R95) -/

/-- The rounding modes, by their RM code (R52). -/
inductive Mode where
  | rne | rz | ru | rd | rs
  deriving DecidableEq, Repr

/-- The mode of an RM field; the codes 101 to 111 are refused at decoding. -/
def modeOf (rm : BitVec 3) : Mode :=
  match rm.toNat with
  | 1 => .rz
  | 2 => .ru
  | 3 => .rd
  | 4 => .rs
  | _ => .rne

/-- An exact magnitude: between m × 2^e and (m + 1) × 2^e, and equal to the first unless `sticky`. -/
structure Mag where
  m : Nat
  e : Int
  sticky : Bool

/-- The exponent of the leading bit. -/
def Mag.top (x : Mag) : Int := (Nat.log2 x.m : Int) + x.e

/-- A magnitude in units of 2^q rounded down, the part cut off as a fraction of 2^shift, and shift. -/
def Mag.cut (x : Mag) (q : Int) : Nat × Nat × Nat :=
  if q ≤ x.e then (x.m * 2 ^ (x.e - q).toNat, 0, 0)
  else (x.m / 2 ^ (q - x.e).toNat, x.m % 2 ^ (q - x.e).toNat, (q - x.e).toNat)

/-- Whether a magnitude cut at 2^shift is rounded up (R94); `r` is the generator's value under RS. -/
def roundsUp (rm : Mode) (neg : Bool) (k rem shift : Nat) (sticky : Bool) (r : Nat) : Bool :=
  match rm with
  | .rne =>
    if 2 * rem < 2 ^ shift then false
    else if 2 * rem = 2 ^ shift ∧ !sticky then k % 2 == 1
    else 0 < shift
  | .rz => false
  | .ru => !neg
  | .rd => neg
  | .rs => 2 ^ 32 ≤ rem * 2 ^ 32 / 2 ^ shift + r

/-- The overflow results of R95: the magnitude's code and the flags. -/
def Fmt.overflow (f : Fmt) (neg : Bool) (rm : Mode) (sat : Bool) : Nat × Fl :=
  let base := Fl.overflow ||| Fl.inexact
  match f.inf with
  | none => (f.maxCode, base ||| Fl.sat)
  | some i =>
    let toInf := match rm with
      | .rne | .rs => true
      | .rz => false
      | .ru => !neg
      | .rd => neg
    if sat || !toInf then (f.maxCode, base ||| Fl.sat) else (i, base)

/-- `round_fmt` (R94): the encoding of a non-zero exact value, and the flags. -/
def Fmt.round (f : Fmt) (neg : Bool) (x : Mag) (rm : Mode) (sat : Bool) (r : Nat) : Nat × Fl :=
  let e := max x.top f.emin
  let (k, rem, shift) := x.cut (e - f.mbits)
  let inexact := rem != 0 || x.sticky
  let y := if inexact && roundsUp rm neg k rem shift x.sticky r then k + 1 else k
  let code := (e - f.emin).toNat * 2 ^ f.mbits + y
  if f.maxCode < code then
    let o := f.overflow neg rm sat
    (f.sign neg o.1, o.2 ||| raiseIf inexact Fl.inexact)
  else
    (f.sign neg code,
      raiseIf inexact Fl.inexact ||| raiseIf (inexact && e == f.emin && decide (y < 2 ^ f.mbits)) Fl.underflow)

/-- The encoding of a value in a format that has its special cases (R87, R99): NaN canonical, infinities kept. -/
def Fmt.encode (f : Fmt) (v : Val) (rm : Mode) (sat : Bool) (r : Nat) : Nat × Fl :=
  match v with
  | .nan sig => (f.canonicalNaN, raiseIf sig Fl.invalid)
  | .inf neg => (f.sign neg (f.inf.getD f.maxCode), 0#6)
  | .zero neg => (f.sign neg 0, 0#6)
  | .fin neg m e => f.round neg { m := m, e := e, sticky := false } rm sat r

/-! ### Exact arithmetic -/

/-- Whether a value is a NaN. -/
def Val.isNaN : Val → Bool
  | .nan _ => true
  | _ => false

/-- Whether a value is a signalling NaN. -/
def Val.isSignalling : Val → Bool
  | .nan s => s
  | _ => false

/-- The value negated. -/
def Val.neg : Val → Val
  | .nan s => .nan s
  | .inf n => .inf !n
  | .zero n => .zero !n
  | .fin n m e => .fin (!n) m e

/-- The exact product, and whether it is invalid (0 × ∞). -/
def Val.mul (a b : Val) : Val × Bool :=
  match a, b with
  | .nan s, .nan t => (.nan false, s || t)
  | .nan s, _ => (.nan false, s)
  | _, .nan s => (.nan false, s)
  | .inf _, .zero _ => (.nan false, true)
  | .zero _, .inf _ => (.nan false, true)
  | .inf n, .inf k => (.inf (n != k), false)
  | .inf n, .fin k _ _ => (.inf (n != k), false)
  | .fin k _ _, .inf n => (.inf (n != k), false)
  | .zero n, .zero k => (.zero (n != k), false)
  | .zero n, .fin k _ _ => (.zero (n != k), false)
  | .fin k _ _, .zero n => (.zero (n != k), false)
  | .fin n m e, .fin k m' e' => (.fin (n != k) (m * m') (e + e'), false)

/-- The sign of a value. -/
def Val.negative : Val → Bool
  | .nan _ => false
  | .inf n => n
  | .zero n => n
  | .fin n _ _ => n

/-- A finite value as a signed mantissa at exponent `e`, which is at most its own. -/
def Val.at (v : Val) (e : Int) : Int :=
  match v with
  | .fin n m x => let y : Nat := m * 2 ^ (x - e).toNat; if n then -(y : Int) else (y : Int)
  | _ => 0

/-- The exponent of a value, or a default. -/
def Val.exp (v : Val) (d : Int) : Int :=
  match v with
  | .fin _ _ e => e
  | _ => d

/-- The exact sum of values with the sign of a zero result (R96), and whether it is invalid (∞ − ∞). A NaN among them gives a
NaN; a signalling one is invalid. -/
def sumVals (l : List Val) (down : Bool) : Val × Bool :=
  if l.any Val.isNaN then (.nan false, l.any Val.isSignalling)
  else
    let pos := l.any (fun v => v == .inf false)
    let neg := l.any (fun v => v == .inf true)
    if pos && neg then (.nan false, true)
    else if pos then (.inf false, false)
    else if neg then (.inf true, false)
    else
      let e : Int := l.foldl (fun a v => min a (v.exp a)) (l.foldl (fun a v => max a (v.exp a)) 0)
      let t : Int := l.foldl (fun a v => a + v.at e) 0
      if t = 0 then
        if l.all (fun v => v == .zero false) then (.zero false, false)
        else if l.all (fun v => v == .zero true) then (.zero true, false)
        else (.zero down, false)
      else (.fin (t < 0) t.natAbs e, false)

/-- The exact order of two finite or infinite values, −0 below +0: negative, zero or positive as the first is less, the same or
greater. -/
def Val.compare (a b : Val) : Int :=
  let rank (v : Val) : Int := match v with | .inf true => -2 | .inf false => 2 | _ => 0
  if rank a ≠ rank b then rank a - rank b
  else
    let e := min (a.exp (b.exp 0)) (b.exp (a.exp 0))
    let d := a.at e - b.at e
    if d ≠ 0 then d
    else
      let z (v : Val) : Int := match v with | .zero true => -1 | _ => 0
      match a, b with
      | .zero _, .zero _ => z a - z b
      | _, _ => 0

/-- A quotient of positive numbers of the form m × 2^e, to 96 bits with a sticky mark. -/
def divMag (m : Nat) (e : Int) (m' : Nat) (e' : Int) : Mag :=
  let k := 96 + Nat.log2 m'
  { m := m * 2 ^ k / m', e := e - e' - k, sticky := m * 2 ^ k % m' != 0 }

/-- The integer square root by bits: `n` steps from the top. -/
def isqrt (n x r : Nat) : Nat :=
  match n with
  | 0 => r
  | k + 1 => if (r + 2 ^ k) * (r + 2 ^ k) ≤ x then isqrt k x (r + 2 ^ k) else isqrt k x r

/-- A square root of m × 2^e, to more than 96 bits with a sticky mark. -/
def sqrtMag (m : Nat) (e : Int) : Mag :=
  let k : Nat := if e % 2 = 0 then 200 else 201
  let x := m * 2 ^ k
  let s := isqrt (Nat.log2 x / 2 + 1) x 0
  { m := s, e := (e - k) / 2, sticky := s * s != x }

/-! ### Operations on elements (R156, R157) -/

/-- The result of an operation with an invalid NaN or a value to encode. -/
def Fmt.finish (f : Fmt) (v : Val × Bool) (rm : Mode) (sat : Bool) (r : Nat) : Nat × Fl :=
  let (x, fl) := f.encode v.1 rm sat r
  (x, fl ||| raiseIf v.2 Fl.invalid)

/-- *a* + *b*. -/
def Fmt.add (f : Fmt) (a b : Nat) (rm : Mode) (sat : Bool) (r : Nat) : Nat × Fl :=
  f.finish (sumVals [f.decode a, f.decode b] (rm == .rd)) rm sat r

/-- *a* − *b*. -/
def Fmt.sub (f : Fmt) (a b : Nat) (rm : Mode) (sat : Bool) (r : Nat) : Nat × Fl :=
  f.finish (sumVals [f.decode a, (f.decode b).neg] (rm == .rd)) rm sat r

/-- *a* × *b*. -/
def Fmt.mul (f : Fmt) (a b : Nat) (rm : Mode) (sat : Bool) (r : Nat) : Nat × Fl :=
  f.finish ((f.decode a).mul (f.decode b)) rm sat r

/-- *a* × *b* + *c* with one rounding; 0 × ∞ is invalid even where *c* is a quiet NaN. -/
def Fmt.fma (f : Fmt) (a b c : Nat) (rm : Mode) (sat : Bool) (r : Nat) : Nat × Fl :=
  let p := (f.decode a).mul (f.decode b)
  let s := sumVals [p.1, f.decode c] (rm == .rd)
  f.finish (s.1, s.2 || p.2) rm sat r

/-- *a* / *b*, correctly rounded. -/
def Fmt.div (f : Fmt) (a b : Nat) (rm : Mode) (sat : Bool) (r : Nat) : Nat × Fl :=
  let x := f.decode a
  let y := f.decode b
  let neg := x.negative != y.negative
  match x, y with
  | .nan s, .nan t => f.finish (.nan false, s || t) rm sat r
  | .nan s, _ => f.finish (.nan false, s) rm sat r
  | _, .nan s => f.finish (.nan false, s) rm sat r
  | .inf _, .inf _ => f.finish (.nan false, true) rm sat r
  | .zero _, .zero _ => f.finish (.nan false, true) rm sat r
  | .inf _, _ => f.finish (.inf neg, false) rm sat r
  | _, .inf _ => f.finish (.zero neg, false) rm sat r
  | .zero _, _ => f.finish (.zero neg, false) rm sat r
  | .fin _ _ _, .zero _ => (f.sign neg (f.inf.getD f.maxCode), Fl.divzero)
  | .fin _ m e, .fin _ m' e' => f.round neg (divMag m e m' e') rm sat r

/-- √*a*, correctly rounded. -/
def Fmt.sqrt (f : Fmt) (a : Nat) (rm : Mode) (sat : Bool) (r : Nat) : Nat × Fl :=
  match f.decode a with
  | .nan s => f.finish (.nan false, s) rm sat r
  | .zero n => f.finish (.zero n, false) rm sat r
  | .inf false => f.finish (.inf false, false) rm sat r
  | .inf true => f.finish (.nan false, true) rm sat r
  | .fin true _ _ => f.finish (.nan false, true) rm sat r
  | .fin false m e => f.round false (sqrtMag m e) rm sat r

/-- FMIN or FMAX (R157). -/
def Fmt.select (f : Fmt) (larger : Bool) (a b : Nat) : Nat × Fl :=
  let x := f.decode a
  let y := f.decode b
  let fl := raiseIf (x.isSignalling || y.isSignalling) Fl.invalid
  if x.isNaN && y.isNaN then (f.canonicalNaN, fl)
  else if x.isNaN then (b, fl)
  else if y.isNaN then (a, fl)
  else if (x.compare y < 0) != larger then (a, fl) else (b, fl)

/-- FABS (R157). -/
def Fmt.abs (f : Fmt) (a : Nat) : Nat × Fl :=
  match f.decode a with
  | .nan s => (f.canonicalNaN, raiseIf s Fl.invalid)
  | _ => (a % 2 ^ (f.width - 1), 0#6)

/-- FNEG (R157). -/
def Fmt.negate (f : Fmt) (a : Nat) : Nat × Fl :=
  match f.decode a with
  | .nan s => (f.canonicalNaN, raiseIf s Fl.invalid)
  | _ => ((a + 2 ^ (f.width - 1)) % 2 ^ f.width, 0#6)

/-- A finite value rounded to an integer: the magnitude, and whether it changed (R100, R156). -/
def integral (neg : Bool) (m : Nat) (e : Int) (rm : Mode) (r : Nat) : Nat × Bool :=
  let (k, rem, shift) := ({ m := m, e := e, sticky := false } : Mag).cut 0
  (if rem != 0 && roundsUp rm neg k rem shift false r then k + 1 else k, rem != 0)

/-- FRND: rounded to an integral value in its own format (R156). -/
def Fmt.roundIntegral (f : Fmt) (a : Nat) (rm : Mode) (r : Nat) : Nat × Fl :=
  match f.decode a with
  | .nan s => (f.canonicalNaN, raiseIf s Fl.invalid)
  | .inf _ | .zero _ => (a, 0#6)
  | .fin neg m e =>
    let (k, inexact) := integral neg m e rm r
    if k = 0 then (f.sign neg 0, raiseIf inexact Fl.inexact)
    else ((f.round neg { m := k, e := 0, sticky := false } .rz false 0).1, raiseIf inexact Fl.inexact)

/-- The relations of R160. -/
inductive FRel where
  | eq | ne | lt | le | gt | ge | un | or
  deriving DecidableEq, Repr

/-- A floating-point compare with its flag (R160): −0 = +0. -/
def Fmt.compare (f : Fmt) (rel : FRel) (a b : Nat) : Bool × Fl :=
  let x := f.decode a
  let y := f.decode b
  let nan := x.isNaN || y.isNaN
  let sig := x.isSignalling || y.isSignalling
  let d : Int := match x, y with
    | .zero _, .zero _ => 0
    | _, _ => x.compare y
  let quiet := raiseIf sig Fl.invalid
  let loud := raiseIf nan Fl.invalid
  match rel with
  | .eq => (!nan && d == 0, quiet)
  | .ne => (nan || d != 0, quiet)
  | .lt => (!nan && decide (d < 0), loud)
  | .le => (!nan && decide (d ≤ 0), loud)
  | .gt => (!nan && decide (0 < d), loud)
  | .ge => (!nan && decide (0 ≤ d), loud)
  | .un => (nan, quiet)
  | .or => (!nan, quiet)

/-! ### Integers (R83, R101) -/

/-- The integer formats of R59: width and signedness. -/
def intFmtOf (code : Nat) : Option (Nat × Bool) :=
  match code with
  | 8 => some (8, true)
  | 9 => some (16, true)
  | 10 => some (32, true)
  | 11 => some (8, false)
  | 12 => some (16, false)
  | 13 => some (32, false)
  | _ => none

/-- The value of an integer encoding. -/
def intValue (w : Nat) (signed : Bool) (x : Nat) : Int :=
  if signed then (BitVec.ofNat w x).toInt else ((x % 2 ^ w : Nat) : Int)

/-- The ends of an integer range. -/
def intMin (w : Nat) (signed : Bool) : Int := if signed then -(2 ^ (w - 1)) else 0
/-- The largest integer of a format. -/
def intMax (w : Nat) (signed : Bool) : Int := if signed then 2 ^ (w - 1) - 1 else 2 ^ w - 1

/-- The encoding of an integer modulo 2^w. -/
def intCode (w : Nat) (v : Int) : Nat := (BitVec.ofInt w v).toNat

/-- An integer clamped to a format's range, with sat where it was clamped. -/
def clampInt (w : Nat) (signed : Bool) (v : Int) : Nat × Fl :=
  if v < intMin w signed then (intCode w (intMin w signed), Fl.sat)
  else if intMax w signed < v then (intCode w (intMax w signed), Fl.sat)
  else (intCode w v, 0#6)

/-- An integer result: clamped under SAT, else modulo 2^w (R13, R101, R153). -/
def intResult (w : Nat) (signed sat : Bool) (v : Int) : Nat × Fl := if sat then clampInt w signed v else (intCode w v, 0#6)

/-! ### E8F2 (R90, R103, R104) -/

/-- The value of a scale as m × 2^e; none for a NaN scale. -/
def scaleValue (x : Nat) : Option (Nat × Int) :=
  if x / 4 % 256 = 255 then none else some (4 + x % 4, (x / 4 % 256 : Nat) - 129)

/-- E8F2 to FP32 (R103). -/
def scaleToFp32 (x : Nat) : Nat :=
  match scaleValue x with
  | none => 0x7FC00000
  | some (m, e) => (Fmt.fp32.round false { m := m, e := e, sticky := false } .rne false 0).1

/-- FP32 to E8F2 (R103). -/
def fp32ToScale (x : Nat) (rm : Mode) (r : Nat) : Nat × Fl :=
  match Fmt.fp32.decode x with
  | .nan _ | .inf _ | .fin true _ _ => (0x3FC, Fl.invalid)
  | .zero _ => (0, Fl.sat)
  | .fin false m e =>
    let v : Mag := { m := m, e := e, sticky := false }
    let (k, rem, shift) := v.cut (v.top - 2)
    let y := if rem != 0 && roundsUp rm false k rem shift false r then k + 1 else k
    let code : Int := (v.top + 127) * 4 + (y - 4 : Int)
    if code < 0 then (0, Fl.sat ||| Fl.inexact)
    else if 0x3FB < code then (0x3FB, Fl.sat ||| Fl.overflow ||| Fl.inexact)
    else (code.toNat, raiseIf (rem != 0) Fl.inexact)

/-! ### Conversions (R99 to R103) -/

/-- Float to float (R99). -/
def convertFloat (d : Fmt) (v : Val) (rm : Mode) (sat : Bool) (r : Nat) : Nat × Fl :=
  match v with
  | .nan s =>
    match d.nan with
    | some n => (n, raiseIf s Fl.invalid)
    | none => (0, Fl.invalid)
  | .inf neg =>
    match d.inf with
    | some i => if sat then (d.sign neg d.maxCode, Fl.sat) else (d.sign neg i, 0#6)
    | none => (d.sign neg d.maxCode, Fl.sat ||| Fl.invalid)
  | .zero neg => (d.sign neg 0, 0#6)
  | .fin neg m e => d.round neg { m := m, e := e, sticky := false } rm sat r

/-- Float to integer (R100). -/
def floatToInt (w : Nat) (signed : Bool) (v : Val) (rm : Mode) (r : Nat) : Nat × Fl :=
  match v with
  | .nan _ => (0, Fl.invalid)
  | .inf neg => (intCode w (if neg then intMin w signed else intMax w signed), Fl.sat)
  | .zero _ => (0, 0#6)
  | .fin neg m e =>
    let (k, inexact) := integral neg m e rm r
    let c := clampInt w signed (if neg then -(k : Int) else (k : Int))
    (c.1, c.2 ||| raiseIf inexact Fl.inexact)

/-- Integer to float (R102). -/
def intToFloat (d : Fmt) (v : Int) (rm : Mode) (sat : Bool) (r : Nat) : Nat × Fl :=
  if v = 0 then (0, 0#6) else d.round (v < 0) { m := v.natAbs, e := 0, sticky := false } rm sat r

/-- A conversion by R99 to R103: the result and its flags. -/
def convertAny (src dst x : Nat) (rm : Mode) (sat : Bool) (r : Nat) : Nat × Fl :=
  if src = 14 then (scaleToFp32 x, 0#6)
  else if dst = 14 then fp32ToScale x rm r
  else
    match fmtOf src, fmtOf dst with
    | some s, some d => convertFloat d (s.decode x) rm sat r
    | some s, none =>
      match intFmtOf dst with
      | some (w, sg) => floatToInt w sg (s.decode x) rm r
      | none => (0, 0#6)
    | none, some d =>
      match intFmtOf src with
      | some (w, sg) => intToFloat d (intValue w sg x) rm sat r
      | none => (0, 0#6)
    | none, none =>
      match intFmtOf src, intFmtOf dst with
      | some (w, sg), some (w', sg') => intResult w' sg' sat (intValue w sg x)
      | _, _ => (0, 0#6)

/-- The conversion of CVT (R165): between one format and itself it returns its element, but for a NaN. -/
def convert (src dst x : Nat) (rm : Mode) (sat : Bool) (r : Nat) : Nat × Fl :=
  if src = dst then
    match fmtOf src with
    | some s =>
      match s.decode x with
      | .nan sig => (s.canonicalNaN, raiseIf sig Fl.invalid)
      | _ => (x, 0#6)
    | none => (x, 0#6)
  else convertAny src dst x rm sat r

/-- The bits of an element of a format as a register or an array holds it (R59, R164). -/
def elementWidth (code : Nat) : Nat :=
  match code with
  | 0 | 10 | 13 => 32
  | 1 | 2 | 9 | 12 | 14 => 16
  | 3 | 4 | 5 | 6 | 8 | 11 => 8
  | _ => 4

/-- Whether m × 2^e ÷ s is at most the largest finite magnitude of a format. -/
def scaleFits (f : Fmt) (m : Nat) (e : Int) (s : Nat × Int) : Bool :=
  match f.decode f.maxCode with
  | .fin _ k x => (Val.fin false m e).compare (.fin false (k * s.1) (x + s.2)) ≤ 0
  | _ => true

/-- `choose_scale` (R104) of FP32 elements for an element format. -/
def chooseScale (block : List Nat) (f : Fmt) : Nat × Fl :=
  let vs := block.map Fmt.fp32.decode
  if vs.any (fun v => match v with | .nan _ | .inf _ => true | _ => false) then (0x3FC, Fl.invalid)
  else
    let larger (a v : Val) : Val := match v with
      | .fin _ m e => if a.compare (.fin false m e) < 0 then .fin false m e else a
      | _ => a
    match vs.foldl larger (.zero false) with
    | .fin _ m e =>
      (((List.range 0x3FC).find? (fun c => match scaleValue c with | some s => scaleFits f m e s | none => false)).getD 0x3FB, 0#6)
    | _ => (0x1FC, 0#6)

/-- An FP32 element divided by a scale and rounded with SAT (R104). -/
def scaledElement (f : Fmt) (x scale : Nat) : Nat × Fl :=
  match Fmt.fp32.decode x, scaleValue scale with
  | .fin neg m e, some (k, q) => f.round neg (divMag m e k q) .rne true 0
  | .zero neg, some _ => (f.sign neg 0, 0#6)
  | _, _ => (0, 0#6)

/-! ### The stochastic generator (R97) -/

/-- One step of a generator. -/
def xorshift (x : BitVec 32) : BitVec 32 :=
  let a := x ^^^ (x <<< 13)
  let b := a ^^^ (a >>> 17)
  b ^^^ (b <<< 5)

end Sys2Proof.Machine
end

