-- ==== Sys2Proof/Machine/Matrix.lean ====
section
/-! DEFINITION. What the matrix unit computes (R105 to R110, R234 to R236, R238): tile descriptors and format blocks, packed elements,
group sums, semirings, and the conversion of accumulators. -/

namespace Sys2Proof.Machine

/-! ### Tile descriptors (R227) -/

/-- The element width that EW names. -/
def ewWidth (d : Word) : Nat :=
  match wfld d 16 4 with
  | 0 => 4
  | 1 => 6
  | 2 => 8
  | 3 => 16
  | _ => 32

/-- 16·ROWS. -/
def tdRows (d : Word) : Nat := 16 * wfld d 8 8
/-- 16·COLS. -/
def tdCols (d : Word) : Nat := 16 * wfld d 0 8
/-- RB, the bytes of a row. -/
def tdRowBytes (d : Word) : Nat := tdCols d * ewWidth d / 8

/-- A valid descriptor. -/
def tdOk (d : Word) : Bool :=
  decide (wfld d 16 4 < 5) && wfld d 8 8 != 0 && wfld d 0 8 != 0 && decide (tdRows d * tdCols d * ewWidth d ≤ 131072)

/-! ### Format blocks (R232, R233) -/

/-- The semiring field. -/
def fbSR (w : Word) : Nat := wfld w 61 3
/-- A's format code. -/
def fbFA (w : Word) : Nat := wfld w 47 4
/-- B's format code. -/
def fbFB (w : Word) : Nat := wfld w 51 4
/-- SCA. -/
def fbSCA (w : Word) : Bool := wfld w 55 1 == 1
/-- SCB. -/
def fbSCB (w : Word) : Bool := wfld w 56 1 == 1
/-- The block length of A. -/
def fbBLA (w : Word) : Nat := if wfld w 57 1 = 1 then 32 else 16
/-- The block length of B. -/
def fbBLB (w : Word) : Nat := if wfld w 58 1 = 1 then 32 else 16
/-- I4A. -/
def fbI4A (w : Word) : Bool := wfld w 59 1 == 1
/-- I4B. -/
def fbI4B (w : Word) : Bool := wfld w 60 1 == 1
/-- The local address of A's scales. -/
def fbSADA (w : Word) : Nat := wfld w 1 23 * 2
/-- The local address of B's scales. -/
def fbSADB (w : Word) : Nat := wfld w 24 23 * 2

/-- A valid format block. -/
def fbOk (w : Word) : Bool :=
  !(fbI4A w && fbFA w != 8) && !(fbI4B w && fbFB w != 8) && !(wfld w 57 1 == 1 && !fbSCA w) && !(wfld w 58 1 == 1 && !fbSCB w) &&
    decide (fbSR w < 5) && fbFA w != 15 && fbFB w != 15

/-- The width of an element in a tile: 6-bit formats are packed (R89). -/
def packedWidth (code : Nat) (i4 : Bool) : Nat :=
  if code = 8 ∧ i4 then 4
  else
    match code with
    | 0 | 10 | 13 => 32
    | 1 | 2 | 9 | 12 | 14 => 16
    | 5 | 6 => 6
    | 7 => 4
    | _ => 8

/-- The combinations of R233. -/
def fbAccepted (w : Word) : Bool :=
  let a := fbFA w
  let b := fbFB w
  let scaled := fbSCA w || fbSCB w
  let narrow (x : Nat) : Bool := decide (3 ≤ x) && decide (x ≤ 7)
  match fbSR w with
  | 0 => (decide (a ≤ 2) && a == b && !scaled) || (narrow a && narrow b) || ((a == 8 || a == 11) && (b == 8 || b == 11) && !scaled)
  | 1 | 2 | 3 => decide (a ≤ 2) && a == b && !scaled
  | 4 => a == 8 && b == 8 && !fbI4A w && !fbI4B w && !scaled
  | _ => false

/-- The formats that MMAS accepts (R233). -/
def fbSparse (w : Word) : Bool :=
  fbSR w == 0 && decide (5 ≤ fbFA w) && decide (fbFA w ≤ 7) && decide (5 ≤ fbFB w) && decide (fbFB w ≤ 7)

/-! ### Packed elements -/

/-- The number in `w` bits from bit `o` of an array of bytes (R84, R89). -/
def bitsAt (a : Array Byte) (o w : Nat) : Nat :=
  leNat ((List.range 5).map (fun k => a[o / 8 + k]?.getD 0#8)) / 2 ^ (o % 8) % 2 ^ w

/-- Elements of `w` bits packed into bytes. -/
def packBits (w : Nat) (l : List Nat) : List Byte :=
  let n := ((List.range l.length).zip l).foldl (fun n x => n + x.2 % 2 ^ w * 2 ^ (w * x.1)) 0
  leBytes (w * l.length / 8) n

/-- An operand of a matrix instruction: its bytes, its bytes in a row, its format and width. -/
structure Operand2 where
  bytes : Array Byte
  rowBytes : Nat
  code : Nat
  i4 : Bool

/-- The encoding of an element. -/
def Operand2.raw (t : Operand2) (r c : Nat) : Nat :=
  let w := packedWidth t.code t.i4
  bitsAt t.bytes (8 * r * t.rowBytes + w * c) w

/-- A floating-point element's value. -/
def Operand2.val (t : Operand2) (r c : Nat) : Val :=
  match fmtOf t.code with
  | some f => f.decode (t.raw r c)
  | none => .zero false

/-- An integer element's value. -/
def Operand2.int (t : Operand2) (r c : Nat) : Int := intValue (packedWidth t.code t.i4) (t.code == 8) (t.raw r c)

/-! ### Groups (R105 to R110) -/

/-- An infinity of a sign among values. -/
def hasInf (l : List Val) (neg : Bool) : Bool := l.any (fun v => v == .inf neg)

/-- The exact group sum of products and whether it is invalid (R106). -/
def groupSum (l : List (Val × Val)) : Val × Bool :=
  let ps := l.map (fun x => x.1.mul x.2)
  let vs := ps.map (·.1)
  let both := hasInf vs false && hasInf vs true
  if vs.any Val.isNaN || both then (.nan false, ps.any (·.2) || both) else sumVals vs false

/-- The value of a stored scale: none for a NaN scale (R90, R91). -/
def scaleVal (x : Nat) : Option Val := (scaleValue (x % 1024)).map (fun y => .fin false y.1 y.2)

/-- One group of plus-times into an accumulator word (R105 to R107): the products, and the scales. -/
def plusTimes (c : Nat) (l : List (Val × Val)) (sa sb : Option Val) : Nat × Fl :=
  let g := groupSum l
  match sa, sb with
  | some x, some y =>
    let t := (g.1.mul x).1.mul y
    let cv := Fmt.fp32.decode c
    let r := sumVals [cv, t.1] false
    Fmt.fp32.finish (r.1, g.2 || r.2) .rne false 0
  | _, _ => (Fmt.fp32.canonicalNaN, Fl.invalid)

/-- The smaller or larger of two values that are no NaNs (R110): −0 below +0. -/
def Val.pick (larger : Bool) (a b : Val) : Val := if (a.compare b < 0) != larger then a else b

/-- One group of a min or max semiring (R110): the combined elements with their validity. -/
def extreme (larger : Bool) (c : Nat) (l : List (Val × Bool)) : Nat × Fl :=
  let fl := raiseIf (l.any (·.2)) Fl.invalid
  let cv := Fmt.fp32.decode c
  match l.map (·.1) with
  | [] => (c, fl)
  | v :: vs =>
    if (v :: vs).any Val.isNaN then (Fmt.fp32.canonicalNaN, fl ||| raiseIf cv.isSignalling Fl.invalid)
    else
      let t := Fmt.fp32.encode (vs.foldl (Val.pick larger) v) .rne false 0
      let fl' := fl ||| t.2 ||| raiseIf cv.isSignalling Fl.invalid
      if cv.isNaN then (Fmt.fp32.canonicalNaN, fl') else (if cv.pick larger (Fmt.fp32.decode t.1) = cv then c else t.1, fl')

/-- The instruction a matrix operation carries out: its shape, format block and density. -/
structure Product where
  m : Nat
  n : Nat
  k : Nat
  fb : Word
  density : Option Nat

/-- The terms of a group: (column of A, row of B) of every product; `none` for a pruned position, which adds +0 (R108, R235). -/
def Product.terms (p : Product) (meta' : Array Byte) (row first count : Nat) : List (Option (Nat × Nat)) :=
  match p.density with
  | none => (List.range count).map (fun i => some (first + i, first + i))
  | some d =>
    (List.range (count / 8)).flatMap (fun j =>
      let g := first / 8 + j
      let half := bitsAt meta' (16 * (row * (p.k / 8) + g)) 16
      let kept := (List.range d).map (fun e => (d * g + e, 8 * g + half / 2 ^ (3 * e) % 8))
      kept.map some ++ ((List.range 8).filter (fun i => !kept.any (fun y => y.2 == 8 * g + i))).map (fun _ => none))

/-- One group's update of an accumulator word. -/
def Product.group (p : Product) (a b : Operand2) (meta' : Array Byte) (sa sb : Nat → Nat → Nat) (i j g : Nat) (c : Nat) : Nat × Fl :=
  let size := if a.code = 0 then 4 else 16
  let terms := p.terms meta' i (size * g) size
  match fbSR p.fb with
  | 0 =>
    if a.code = 8 ∨ a.code = 11 then
      let t := terms.foldl (fun (t : Int) x => match x with | some (u, v) => t + a.int i u * b.int v j | none => t) 0
      (intCode 32 (intValue 32 true c + t), 0#6)
    else
      let vals := terms.map (fun x => match x with | some (u, v) => (a.val i u, b.val v j) | none => (Val.zero false, Val.zero false))
      let one : Option Val := some (.fin false 1 0)
      plusTimes c vals (if fbSCA p.fb then scaleVal (sa i (size * g / fbBLA p.fb)) else one)
        (if fbSCB p.fb then scaleVal (sb (size * g / fbBLB p.fb) j) else one)
  | 1 => extreme false c (terms.filterMap (fun x => x.map (fun y => sumVals [a.val i y.1, b.val y.2 j] false)))
  | 2 => extreme true c (terms.filterMap (fun x => x.map (fun y => sumVals [a.val i y.1, b.val y.2 j] false)))
  | 3 => extreme true c (terms.filterMap (fun x => x.map (fun y => (a.val i y.1).mul (b.val y.2 j))))
  | _ => (c ||| (if terms.any (fun x => match x with | some (u, v) => a.raw i u % 2 == 1 && b.raw v j % 2 == 1 | none => false) then 1 else 0), 0#6)

/-- The accumulator words of the product and the flags (R234, R235). -/
def Product.run (p : Product) (a b : Operand2) (meta' : Array Byte) (sa sb : Nat → Nat → Nat) (acc : Array Byte) : List Nat × Fl :=
  let size := if a.code = 0 then 4 else 16
  (List.range (p.m * p.n)).foldl
    (fun (out : List Nat × Fl) w =>
      let r := (List.range (p.k / size)).foldl
        (fun (c : Nat × Fl) g =>
          let y := p.group a b meta' sa sb (w / p.n) (w % p.n) g c.1
          (y.1, c.2 ||| y.2)) (bitsAt acc (32 * w) 32, 0#6)
      (out.1 ++ [r.1], out.2 ||| r.2)) ([], 0#6)

/-! ### ACCCVT (R238) -/

/-- The checks of R238 on the fields that ACCCVT uses. -/
def cvtBlockOk (w : Word) : Bool :=
  let f := fbFA w
  let narrow := decide (3 ≤ f) && decide (f ≤ 7)
  (decide (f ≤ 8) || f == 11) && (!fbSCA w || narrow) && !(fbI4A w && f != 8) && !(wfld w 57 1 == 1 && !fbSCA w)

/-- An accumulator word converted without a scale: FP32 is copied, integers are clamped, I4 among them. -/
def convertWord (w : Word) (x : Nat) : Nat × Fl :=
  let f := fbFA w
  if f = 0 then (x, 0#6)
  else if f = 8 ∧ fbI4A w then intResult 4 true true (intValue 32 true x)
  else convert (if f = 8 ∨ f = 11 then 10 else 0) f x .rne true 0

/-- The elements, scales and flags of a conversion of `l` words with block length `bl`. -/
def convertBlocks (f : Fmt) (bl : Nat) (l : List Nat) : List Nat × List Nat × Fl :=
  (List.range (l.length / bl)).foldl
    (fun (acc : List Nat × List Nat × Fl) b =>
      let block := (l.drop (bl * b)).take bl
      let s := chooseScale block f
      let es := block.map (fun x => if s.1 = 0x3FC then (0, 0#6) else scaledElement f x s.1)
      (acc.1 ++ es.map (·.1), acc.2.1 ++ [s.1], es.foldl (fun y e => y ||| e.2) (acc.2.2 ||| s.2))) ([], [], 0#6)

/-- The element bytes, scale bytes and flags of ACCCVT. -/
def convertAcc (w : Word) (l : List Nat) : List Byte × List Byte × Fl :=
  match (if fbSCA w then fmtOf (fbFA w) else none) with
  | some f =>
    let r := convertBlocks f (fbBLA w) l
    (packBits (packedWidth (fbFA w) false) r.1, r.2.1.flatMap (leBytes 2), r.2.2)
  | none =>
    let es := l.map (convertWord w)
    (packBits (packedWidth (fbFA w) (fbI4A w)) (es.map (·.1)), [], es.foldl (fun y e => y ||| e.2) 0#6)

end Sys2Proof.Machine
end

