-- ==== Sys2Proof/Machine/Units.lean ====
section
/-! DEFINITION. Outstanding operations: whose they are, which units and queues they fill (R225, R239, R292, R344, R394, R413), where their
destinations lie (R307), and what a fence waits for (R310, R316). -/

namespace Sys2Proof.Machine

/-! ### Whose an operation is -/

/-- The number of a fibre, `FIBREID`[15:0] (R20). -/
def fibreNumber (fk : Nat) : Nat := fk % 65536

/-- The core of a fibre. -/
def coreOfFibre (fk : Nat) : Nat := fibreNumber fk / 64

/-- Whether an operation that fibre `fibre` of the crew with a serial issued is one of fibre `fk`: a crew that resumes on another core or bank keeps
its serial, and a fibre its place in the core. -/
def ownedBy (s : State) (fk serial fibre : Nat) : Bool :=
  match lookup s.crews (bankOfFibre fk) with
  | some w => serial == w.serial && fibre % 64 == fk % 64
  | none => false

/-- A crew by its serial, on a core or saved. -/
def crewOf (s : State) (serial : Nat) : Option Crew :=
  match s.crews.find? (fun x => x.2.serial == serial) with
  | some x => some x.2
  | none => (s.saved.find? (fun x => x.2.crew.serial == serial)).map (·.2.crew)

/-- The environment in which an operation's addresses are translated. -/
def Engine.env (e : Engine) (s : State) : Option Env := (crewOf s e.serial).bind (envOf s)

/-! ### Kinds of operation -/

/-- An operation of the matrix unit. -/
def EngineOp.matrix : EngineOp → Bool
  | .tzero _ | .mma .. | .accz .. | .accLoad .. | .accStore .. | .accConvert .. | .accMove .. => true
  | _ => false

/-- An operation of the tile path. -/
def EngineOp.tilePath : EngineOp → Bool
  | .tileLoad .. | .tileStore .. => true
  | _ => false

/-- A copy command. -/
def EngineOp.isCopy : EngineOp → Bool
  | .copy .. => true
  | _ => false

/-- A NRED. -/
def EngineOp.isNred : EngineOp → Bool
  | .nred .. => true
  | _ => false

/-- A SWAPF. -/
def EngineOp.isSwap : EngineOp → Bool
  | .swap .. => true
  | _ => false

/-- A LAUNCHI on its way to the scheduler. -/
def EngineOp.isLaunch : EngineOp → Bool
  | .launch _ => true
  | _ => false

/-- The words of an operation that the copy engine has accepted and not yet taken. -/
def EngineOp.untaken (op : EngineOp) : Nat :=
  match op with
  | .copy _ w 0 => w.length + 1
  | _ => 0

/-- Whether a swap in progress covers a physical address (R291). -/
def swapping (s : State) (p : Nat) : Bool :=
  s.engines.any (fun e => match e.2.op with
    | .swap _ _ e1 e2 => p / 2 ^ 19 == wfld e1 19 33 || p / 2 ^ 19 == wfld e2 19 33
    | _ => false)

/-- Whether a landing reference names a local word (R205). -/
def localForm (v : Word) : Bool := wfld v 56 8 == 0xFC

/-! ### Copy commands (R240) -/

/-- OPC. -/
def copyOpc (h : Word) : Nat := wfld h 60 4
/-- DS: the destination is local. -/
def copyDS (h : Word) : Bool := wfld h 59 1 == 1
/-- SS: the source is local. -/
def copySS (h : Word) : Bool := wfld h 58 1 == 1
/-- LW. -/
def copyLW (h : Word) : Bool := wfld h 56 1 == 1
/-- SRCF. -/
def copySrc (h : Word) : Nat := wfld h 48 4
/-- DSTF. -/
def copyDst (h : Word) : Nat := wfld h 44 4
/-- The size of an element or of a pattern. -/
def copySize (h : Word) : Nat := 2 ^ wfld h 36 4
/-- BSC. -/
def copyBSC (h : Word) : Bool := wfld h 35 1 == 1
/-- The block length. -/
def copyBlock (h : Word) : Nat := if wfld h 34 1 = 1 then 32 else 16
/-- CTAG. -/
def copyTag (h : Word) : Nat := wfld h 16 16

/-- The words of a command after its header. -/
def copyWords (h : Word) : Nat :=
  if 4 < copyOpc h then 0
  else (if copyOpc h = 1 ∨ copyOpc h = 2 then 4 else 3) + (copyOpc h == 4 && copyBSC h).toNat + (copyLW h).toNat

/-- Word `i` of a command, 1 the first after its header. -/
def copyWord (w : List Word) (i : Nat) : Word := w.getD (i - 1) 0#64

/-- The count. -/
def copyCount (w : List Word) : Nat := wfld (copyWord w 3) 0 32

/-- The destination bytes of a command, scales apart. -/
def copyBytes (h : Word) (w : List Word) : Nat :=
  match copyOpc h with
  | 1 | 2 => copyCount w * copySize h
  | 4 => copyCount w * packedWidth (copyDst h) false / 8
  | _ => copyCount w

/-- The bytes of the scales that a CONVERT writes (R241). -/
def copyScaleBytes (h : Word) (w : List Word) : Nat :=
  if copyOpc h = 4 ∧ copyBSC h then 2 * (copyCount w / copyBlock h) else 0

/-! ### Units and queues -/

/-- How many outstanding operations satisfy a condition. -/
def countEngines (s : State) (g : Engine → Bool) : Nat := (s.engines.filter (fun e => g e.2)).length

/-- The matrix unit's queue of four entries is full for a crew's bank (R225). -/
def matrixFull (s : State) (bk : Nat) : Bool := 4 ≤ countEngines s (fun e => e.bank == bk && e.op.matrix)

/-- Eight tile transfers are outstanding on a core (R225). -/
def tilePathFull (s : State) (core : Nat) : Bool := 8 ≤ countEngines s (fun e => e.bank % 1024 == core && e.op.tilePath)

/-- Two swaps are held by a die's engine (R290). -/
def swapFull (s : State) (die : Nat) : Bool := 2 ≤ countEngines s (fun e => e.bank % 1024 / 128 == die && e.op.isSwap)

/-- Four NREDs of a fibre are outstanding (R292). -/
def nredFull (s : State) (fk : Nat) : Bool := 4 ≤ countEngines s (fun e => ownedBy s fk e.serial e.fibre && e.op.isNred)

/-- The launches held and those on their way to the scheduler: 4,096 at most (R344). -/
def launchesFull (s : State) : Bool := 4096 ≤ s.launches.length + countEngines s (fun e => e.op.isLaunch)

/-- The sends that the unit of a landing word holds (R205). -/
def armedAt (s : State) (p : Nat) : List Armed := if inStore p then (bankOf s (placeBank p)).armed else s.memArmed

/-- The unit that holds a word's sends is full (R413): 64 at a core, 256 at a memory controller. -/
def unitFullAt (s : State) (p : Nat) : Bool :=
  if inStore p then 64 ≤ (armedAt s p).length
  else 256 ≤ (s.memArmed.filter (fun a => dieOf a.place == dieOf p && a.place / 256 % 2 == p / 256 % 2)).length

/-- Operations of a fibre that have not left, or atomics that have not returned (R394). -/
def fabricOutstanding (s : State) (fk : Nat) : Nat := (s.fabricOps.filter (fun o => ownedBy s fk o.2.serial o.2.fibre && !o.2.left)).length

/-- The outstanding copy commands of a fibre. -/
def copiesOf (s : State) (fk : Nat) : List (Nat × Engine) :=
  s.engines.filter (fun e => ownedBy s fk e.2.serial e.2.fibre && e.2.op.isCopy)

/-- The words of a fibre that its core's copy engine holds and has not taken. -/
def copyUntaken (s : State) (fk : Nat) (f : Fibre) : Nat := (copiesOf s fk).foldl (fun n e => n + e.2.op.untaken) f.q0.length

/-- The words that a core's copy engine holds. -/
def copyHeld (s : State) (core : Nat) : Nat :=
  (s.engines.filter (fun e => e.2.bank % 1024 == core)).foldl (fun n e => n + e.2.op.untaken) 0 +
    (s.fibres.filter (fun x => coreOfFibre x.1 == core)).foldl (fun n x => n + x.2.q0.length) 0

/-- Whether a unit or queue is full for a fibre. -/
def FullUnit.full (u : FullUnit) (s : State) (fk : Nat) (f : Fibre) : Bool :=
  match u with
  | .matrix => matrixFull s (bankOfFibre fk)
  | .tilePath => tilePathFull s (coreOfFibre fk)
  | .swap => swapFull s (coreOfFibre fk / 128)
  | .nred => nredFull s fk
  | .launches => launchesFull s
  | .landing p => unitFullAt s p
  | .fabric => 16 ≤ fabricOutstanding s fk
  | .fabricWords => 32 ≤ f.q2.length
  | .copyWords => 32 ≤ copyUntaken s fk f || 256 ≤ copyHeld s (coreOfFibre fk)
  | .copyCommands => 8 ≤ (copiesOf s fk).length

/-! ### The L2 slices (R259, R260) -/

/-- A sector enters a slice, clean or dirty: a line of a full set gives way, and the leases of the other slices leave none of them with a newer or
an older copy (R260, log 118). -/
def holdSector (writes : Bool) (c : Nat) (s : State) (sector : Nat) : State :=
  let bit : BitVec 2 := BitVec.twoPow 2 (sector % 2)
  let line := sector / 2
  let other (x : L2Line) : L2Line :=
    if x.line = line ∧ x.cluster ≠ c then { x with valid := if writes then x.valid &&& ~~~bit else x.valid, dirty := x.dirty &&& ~~~bit } else x
  let all := s.l2.map other
  let mine (x : L2Line) : Bool := x.cluster == c && x.line == line
  let set := all.filter (fun x => x.cluster == c && x.line % 4096 == line % 4096)
  { s with l2 :=
      if all.any mine then
        all.map (fun x => if mine x then { x with valid := x.valid ||| bit, dirty := if writes then x.dirty ||| bit else x.dirty } else x)
      else
        let kept := if set.length < 24 then all else all.filter (fun x => some x != set[Config.order s.tick % set.length]?)
        { cluster := c, line := line, valid := bit, dirty := if writes then bit else 0#2 } :: kept }

/-- The slice of a cluster holds the sectors of an access that its pages let it hold. -/
def holdSpots (s : State) (c : Nat) (l : List Spot) (writes : Bool) : State :=
  (distinct ((l.filter (fun x => x.page.policy != 1 && (inDevice x.phys || inHost x.phys) && x.place.isSome)).map (fun x => x.phys / 64))).foldl
    (holdSector writes c) s

/-! ### Tiers (R307) -/

/-- The narrowest scope whose tier holds a place in a store: 3 the crew's own, 4 a deck member's scratchpad, 6 another. -/
def storeTier (s : State) (bk p : Nat) : Nat :=
  let members := match (lookup s.crews bk).bind (fun w => lookup s.decks w.deck) with | some d => d.members | none => []
  if placeBank p = bk then 3 else if decide (placeBank p ∈ members) && placeOffset p < 0xC0000 then 4 else 6

/-- The narrowest scope whose tier holds a local address (log 40 for one outside every region). -/
def localTier (s : State) (bk a : Nat) : Nat := match localPlace s bk a with | some p => storeTier s bk p | none => 4

/-- The narrowest scope whose tier holds a page that an engine writes: 5 device memory of the issuing die, 6 any other memory, and a page that is not
there counts to 5 (log 40). -/
def pageTier (s : State) (bk : Nat) (env : Env) (v : Word) : Nat :=
  match translate s env v .write true with
  | .error _ => 5
  | .ok y =>
    let p := y.frame + v.toNat % 2 ^ 19
    if inWindow p then (match windowPlace s p with | some q => storeTier s bk q | none => 6)
    else if inDevice p && dieOf p == bk % 1024 / 128 then 5
    else 6

/-- The first address of a range in each page of 512 KiB that it touches. -/
def pageStarts (v : Word) (n : Nat) : List Word :=
  if n = 0 then []
  else (List.range ((v.toNat % 2 ^ 19 + n - 1) / 2 ^ 19 + 1)).map (fun k => if k = 0 then v else BitVec.ofNat 64 ((v.toNat / 2 ^ 19 + k) * 2 ^ 19))

/-- The narrowest scope whose tier holds some byte of a range: each page is asked once. -/
def rangeTier (s : State) (bk : Nat) (env : Option Env) (loc : Bool) (v : Word) (n : Nat) : Nat :=
  if n = 0 then 6
  else if loc then localTier s bk (wfld v 0 24)
  else
    match env with
    | none => 5
    | some env => ((pageStarts v n).map (pageTier s bk env)).foldl min 6

/-- The bytes of a source as they stand: zeros where they cannot be read. -/
def peekNumber (s : State) (bk : Nat) (env : Option Env) (loc : Bool) (v : Word) (n : Nat) : Nat :=
  if loc then (match localPlaces s bk (wfld v 0 24) n with | some l => leNat (l.map (byteAt s)) | none => 0)
  else
    match env with
    | none => 0
    | some env =>
      match spots s env v n .read true with
      | .ok l => leNat (l.map (fun x => match x.place with | some p => (viewByte s p x.page.key).getD 0#8 | none => 0#8))
      | .error _ => 0

/-- The ranges that a copy command writes: whether local, the address and the bytes. -/
def copyDests (s : State) (bk : Nat) (env : Option Env) (h : Word) (w : List Word) : List (Bool × Word × Nat) :=
  let base := copyWord w 1
  (if copyOpc h = 2 then
    (List.range (copyCount w)).map (fun k =>
      let i := peekNumber s bk env (copySS h) (copyWord w 4 + BitVec.ofNat 64 (4 * k)) 4
      (copyDS h, base + BitVec.ofNat 64 (i * copySize h), copySize h))
  else [(copyDS h, base, copyBytes h w)]) ++
    [(copyDS h, copyWord w 4, copyScaleBytes h w), (localForm (w.getLastD 0#64), w.getLastD 0#64, if copyLW h then 16 else 0)]

/-- The local ranges, as addresses and bytes, that ACCCVT writes for `n` words (R238). -/
def convertDests (fb : Word) (addr n : Nat) : List (Nat × Nat) :=
  [(addr, n * packedWidth (fbFA fb) (fbI4A fb) / 8), (fbSADA fb, if fbSCA fb then 2 * (n / fbBLA fb) else 0)]

/-- The narrowest scope whose tier holds a destination of an operation (R307). One that places no data counts to the sailing, a PUBLISH to the
hull (log 40). -/
def Engine.tier (e : Engine) (s : State) : Nat :=
  let locals (l : List (Nat × Nat)) : Nat := (l.map (fun x => rangeTier s e.bank none true (BitVec.ofNat 64 x.1) x.2)).foldl min 6
  let memory (l : List (Bool × Word × Nat)) : Nat := (l.map (fun x => rangeTier s e.bank (e.env s) x.1 x.2.1 x.2.2)).foldl min 6
  match e.op with
  | .tzero _ | .tileLoad .. | .mma .. | .accz .. | .accLoad .. | .accMove .. => 3
  | .tileStore _ rb rows loc => memory (rows.map (fun a => (loc, BitVec.ofNat 64 a, rb)))
  | .accStore _ a n => locals [(a, 4 * n)]
  | .accConvert _ a m n fb => locals (convertDests fb a (m * n))
  | .copy h w _ => memory (copyDests s e.bank (e.env s) h w)
  | .nred v _ c _ => memory [(false, v, wfld c 0 18 * (if wfld c 56 4 = 1 ∨ wfld c 56 4 = 2 then 2 else 4))]
  | .cache _ v n => memory [(false, v, n)]
  | .swap _ _ e1 e2 =>
    if wfld e1 37 15 == e.bank % 1024 / 128 || wfld e2 37 15 == e.bank % 1024 / 128 then 5 else 6
  | .publish .. => 5
  | .tlbInvalidate .. | .launch _ => 6

/-- An operation has left the sender (R316): an atomic once its packet has gone. -/
def FabricOp.departed (o : FabricOp) : Bool := o.left || (o.kind == 4 && o.sent != 0)

/-- What E = 1 and R = 1 wait for (R310). -/
def enginesDone (s : State) (fk scope : Nat) (engines remote : Bool) : Bool :=
  !(engines && s.engines.any (fun e => ownedBy s fk e.2.serial e.2.fibre && decide (e.2.tier s ≤ scope))) &&
    !(remote && s.fabricOps.any (fun o => ownedBy s fk o.2.serial o.2.fibre && !o.2.departed))

end Sys2Proof.Machine
end

