-- ==== Sys2Proof/Machine/Ops.lean ====
section
/-! DEFINITION. The named operations over registers, streams and crews, and taking and leaving a trap (R189 to R194). -/

namespace Sys2Proof.Machine

/-- The outcome of a meaning. -/
abbrev Out := Host.Outcome State Fault Refusal

/-! ### Registers of a fibre (R25) -/

/-- `s`r: `s0` reads 0 (R25). -/
def Fibre.readS (f : Fibre) (r : BitVec 6) : Word := if r = 0#6 then 0#64 else f.sregs[r.toNat]'r.isLt

/-- A result written to `s`r: a write to `s0` is discarded, and an outstanding older result for `r` will be (R25, R115). -/
def Fibre.writeS (f : Fibre) (r : BitVec 6) (v : Word) : Fibre :=
  if r = 0#6 then f
  else { f with
    sregs := f.sregs.set r.toNat v r.isLt
    spend := f.spend.map (fun p => if p.dest = r then { p with live := false } else p) }

/-- `p`n: `p0` reads all ones (R25). -/
def Fibre.readP (f : Fibre) (n : BitVec 3) : Mask := if n = 0#3 then 0xFFFF_FFFF#32 else f.preds[n.toNat]'n.isLt

/-- `p`n written: a write to `p0` is discarded (R25). -/
def Fibre.writeP (f : Fibre) (n : BitVec 3) (v : Mask) : Fibre :=
  if n = 0#3 then f else { f with preds := f.preds.set n.toNat v n.isLt }

/-- The count of a completion flag (R23). -/
def Fibre.flag (f : Fibre) (k : Nat) : Nat := (f.flags[k]?.getD 0#4).toNat

/-- A flag's count raised by 1 (R23). -/
def Fibre.raise (f : Fibre) (k : Option Nat) : Fibre :=
  match k with
  | none => f
  | some k => { f with flags := f.flags.set! k (f.flags[k]?.getD 0#4 + 1#4) }

/-- A flag's count lowered by 1 (R23). -/
def Fibre.lower (f : Fibre) (k : Option Nat) : Fibre :=
  match k with
  | none => f
  | some k => { f with flags := f.flags.set! k (f.flags[k]?.getD 0#4 - 1#4) }

/-- The flag that a 4-bit FLAG field names: 0xF names none (R23). -/
def flagOf (x : BitVec 4) : Option Nat := if x.toNat < 12 then some x.toNat else none

/-- `AFLAGS` with bits ORed in (R111, R112). -/
def Fibre.orFlags (f : Fibre) (x : BitVec 6) : Fibre := { f with aflags := f.aflags ||| x.setWidth 64 }

/-- A later scalar read of `r` must still wait (R24, R115). -/
def Fibre.outstanding (f : Fibre) (r : BitVec 6) : Bool := f.spend.any (fun p => p.live && p.dest == r) && r != 0#6

/-- A result that will arrive later is registered: an older outstanding result for the register is discarded (R115). -/
def Fibre.pend (f : Fibre) (r : BitVec 6) (v : Option Word) : Fibre :=
  { f with
    spend := f.spend.map (fun p => if p.dest = r then { p with live := false } else p) ++
      [{ id := f.nextId, dest := r, value := v, live := true }]
    nextId := f.nextId + 1 }

/-- The scalar entry of a role as SPC takes it: bits [1:0] are clear (R43, log 116). -/
def codeAddress (v : Word) : Word := v &&& ~~~3#64

/-- A lane-code base as LCBASE holds it: bits [54:4], sign-extended (R49, log 117). -/
def laneBaseOf (v : Word) : Word := (bits v 4 51 ++ 0#4).signExtend 64

/-- The next scalar instruction. -/
def Fibre.next4 (f : Fibre) : Fibre := { f with spc := f.spc + 4#64 }

/-- LPC (R21): the next lane word to issue, 0 while the queue is empty or its clause has issued whole. Before the oldest entry has been taken it is the
address of its header (log 115). -/
def Fibre.lpc (f : Fibre) : Word :=
  match f.clauses, f.running with
  | [], _ => 0#64
  | c :: _, none => c.header
  | c :: _, some r => if r.pos ≤ r.len then c.header + BitVec.ofNat 64 (12 * r.pos) else 0#64

/-- The wait of an instruction that has passed SPC: FWAIT and CLSWAIT (R132). -/
def Fibre.issuedWait (f : Fibre) : Option Wait :=
  match f.sWait with
  | some (.flags m) => some (.flags m)
  | some (.clause n) => some (.clause n)
  | _ => none

/-- Whether an instruction of a stream is past a pending FENCE (R311). -/
def Fibre.speculates (f : Fibre) (lane : Bool) : Bool := f.fence.isSome && !(lane && f.prefence)

/-- The wait for earlier clauses (R22): none remain, or they are held in handler mode (R194). -/
def Fibre.clausesDone (f : Fibre) : Bool := f.clauses.isEmpty || f.handler.isSome

/-- The wait for earlier clauses of FBAR, TFENCE, BRK and the barriers: in handler mode, for the lane operations that the held
clauses have issued (R194). -/
def Fibre.laneOpsDone (f : Fibre) : Bool :=
  if f.handler.isSome then f.lpend.all (fun p => !f.clauses.any (fun c => c.serial == p.clause)) else f.clauses.isEmpty

/-- The wait of EXIT (R343): the last word of the last clause has issued; what it issued may be outstanding. -/
def Fibre.clausesIssued (f : Fibre) : Bool :=
  f.clausesDone || (match f.clauses, f.running with | [_], some r => decide (r.len < r.pos) | _, _ => false)

/-- Whether an operation of the clause with a serial is outstanding. -/
def Fibre.clauseBusy (f : Fibre) (serial : Nat) : Bool := f.lpend.any (fun p => p.clause == serial)

/-- The clause queue after its head may leave: its last word has issued and, where its header names no flag, its long-latency
operations have completed (R21, R23). -/
def Fibre.retireClause (f : Fibre) : Fibre :=
  match f.clauses, f.running with
  | c :: rest, some r =>
    if r.len < r.pos ∧ (r.fa ≠ 15#4 ∨ r.fb ≠ 15#4 ∨ !f.clauseBusy c.serial) then
      { f with clauses := rest, running := none }
    else f
  | _, _ => f

/-- The next lane word (R21). -/
def Fibre.nextLane (f : Fibre) : Fibre :=
  Fibre.retireClause { f with
    running := f.running.map (fun r => { r with pos := r.pos + 1 }), lReplay := none, lRaised := none, replayOf := if f.lReplay.isSome then none else f.replayOf }

/-! ### The issuing fibre and its crew -/

/-- What a meaning works on: the current fibre, its crew, its slot and its environment. -/
structure Here where
  f : Fibre
  w : Crew
  sl : Slot
  env : Env

/-- The slot of a key: all registers dead and no line held where nothing is known. -/
def slotOf (s : State) (k : Nat) : Slot :=
  lookupD s.slots k { current := 0, dead := BitVec.allOnes 256, lines := [], latent := [], poison := [], wrote := { clock := 0, made := [] } }

/-- The current fibre with its crew; none where no such fibre exists. -/
def here (s : State) : Option Here :=
  match lookup s.fibres s.cur, lookup s.crews (bankOfFibre s.cur) with
  | some f, some w =>
    match envOf s w with
    | some e => some { f := f, w := w, sl := slotOf s (slotOfFibre s.cur), env := e }
    | none => none
  | _, _ => none

/-- A fibre replaced. -/
def setFibre (s : State) (fk : Nat) (f : Fibre) : State := { s with fibres := put s.fibres fk f }

/-- A fibre changed. -/
def onFibre (s : State) (fk : Nat) (g : Fibre → Fibre) : State := { s with fibres := alter s.fibres fk g }

/-- The current fibre changed. -/
def onCur (s : State) (g : Fibre → Fibre) : State := onFibre s s.cur g

/-- A crew changed. -/
def onCrew (s : State) (bk : Nat) (g : Crew → Crew) : State := { s with crews := alter s.crews bk g }

/-- The members of a crew's deck, by bank key. -/
def deckMembers (s : State) (w : Crew) : List Nat :=
  match lookup s.decks w.deck with
  | some d => d.members
  | none => []

/-- The keys of a crew's fibres. -/
def crewFibres (s : State) (bk : Nat) : List Nat :=
  (s.fibres.map (·.1)).filter (fun fk => bankOfFibre fk == bk)

/-- The present fibres of a slot. -/
def slotFibres (s : State) (sk : Nat) : List Nat :=
  (s.fibres.map (·.1)).filter (fun fk => slotOfFibre fk == sk)

/-- Whether a launch block marks a supervisor role (R26). -/
def LaunchBlock.supervised (b : LaunchBlock) : Bool := b.roles.any (fun r => r.supervisor && r.count != 0)

/-- Whether a fibre is its crew's supervisor fibre: fibre 0 of the supervisor role in berth 0 (R26, R184). -/
def isSupervisor (w : Crew) (fk : Nat) (f : Fibre) : Bool :=
  (match w.block.roles[f.role]? with | some r => r.supervisor | none => false) && f.index == 0 && fibreNumber fk / 4 % 16 == 0

/-! ### Notices, tolls and grace (R331, R334, R335, R347) -/

/-- A notice for the supervisor's `q6`: it holds 16 words, and a dropped notice marks the next one delivered (R347). -/
def postNotice (s : State) (bk : Nat) (x : Word) : State :=
  onCrew s bk (fun w =>
    if !w.block.supervised then w
    else if 16 ≤ w.notices.length then { w with noticesLost := true }
    else { w with notices := w.notices ++ [if w.noticesLost then x ||| BitVec.twoPow 64 59 else x], noticesLost := false })

/-- The word of a notice (R347). -/
def noticeWord (kind cause fk : Nat) (spc : Word) : Word :=
  BitVec.ofNat 64 (kind * 2 ^ 60 + cause * 2 ^ 48 + fibreNumber fk * 2 ^ 32 + wfld spc 0 32)

/-- Grace starts for every member of a crew's deck whose grace is not running (R255, R331, R347). -/
def startGrace (s : State) (bk fk : Nat) (spc : Word) : State :=
  match lookup s.crews bk with
  | none => s
  | some w =>
    (deckMembers s w).foldl
      (fun t k =>
        match lookup t.crews k with
        | none => t
        | some m =>
          if m.g then t
          else
            postNotice (onCrew t k (fun m => { m with g := true, grace := 256#9, graceClock := t.clock })) k (noticeWord 3 0 fk spc)) s

/-- LEFT after a charge: a charge above it leaves 0 (R334). -/
def spend (left : BitVec 32) (n : Nat) : BitVec 32 := BitVec.ofNat 32 (left.toNat - n)

/-- A charge to a crew's budgets; one that brings a budget to 0 starts grace (R331, R334, R335). -/
def charge (s : State) (bk fk : Nat) (spc : Word) (bi bm : Nat) : State :=
  match lookup s.crews bk with
  | none => s
  | some w =>
    let s' := onCrew s bk (fun w => { w with bi := spend w.bi bi, bm := spend w.bm bm })
    let exhausted := (w.bi ≠ 0#32 ∧ spend w.bi bi = 0#32) ∨ (w.bm ≠ 0#32 ∧ spend w.bm bm = 0#32)
    if exhausted ∧ !w.g then startGrace s' bk fk spc else s'

/-- One instruction issued while grace runs lowers GRACE by 1 (R335). -/
def graceTick (s : State) (bk : Nat) : State :=
  match lookup s.crews bk with
  | none => s
  | some w => if w.g then onCrew s bk (fun w => { w with grace := if w.grace = 0#9 then 0#9 else w.grace - 1#9 }) else s

/-- The place of an offset of a crew's save area, by the translation fixed at admission (R321, R431). -/
def areaPlace (w : Crew) (o : Nat) : Nat := w.frames.getD (o / 2 ^ 19) 0 + o % 2 ^ 19

/-- The physical address of line `m` of the berth image of a fibre (R28, R30). -/
def lineTag (w : Crew) (fk m : Nat) : Nat := areaPlace w (0x1000 + 0xA000 * (fibreNumber fk / 4 % 16) + 0x2000 + 512 * m)

/-- Whether line `m` of a fibre's berth is held in its slot (R30). -/
def lineHeld (s : State) (fk m : Nat) : Bool :=
  match lookup s.crews (bankOfFibre fk), lookup (slotOf s (slotOfFibre fk)).lines m with
  | some w, some ln => ln.tag == lineTag w fk m
  | _, _ => false

/-! ### Readiness and switch-on-stall (R38 to R40) -/

/-- Whether the owner of a failed unit still drains after its kill (R218). -/
def ownerDrains (s : State) (fk p : Nat) : Bool :=
  inStore p && unitPoisoned s p && placeBank p != bankOfFibre fk &&
    (match lookup s.crews (placeBank p) with | some w => w.ending == some .killed | none => false)

/-- Whether a block of 4 KiB is being copied by a swap (R291): which one is, the spec leaves to the engine. -/
def blockBusy (s : State) (fk block : Nat) : Bool := swapping s (block * 4096) && Config.choice s.tick fk block

/-- Whether the cause of a stall has cleared (R39). An instruction that waits at its own address tries at each of its turns. -/
def stallCleared (s : State) (fk : Nat) (f : Fibre) (c : Stall) : Bool :=
  match c with
  | .lineMiss m => lineHeld s fk m
  | .clauseFull => f.clauses.length < 4
  | .flagFull k => f.flag k < 15
  | .queueEmpty 1 => !f.q1.isEmpty
  | .queueEmpty 3 => !f.q3.isEmpty
  | .queueEmpty 5 => !f.q5.isEmpty
  | .queueEmpty _ => match lookup s.crews (bankOfFibre fk) with | some w => !w.notices.isEmpty | none => false
  | .clauses => f.clausesDone
  | .clausesIssue => f.clausesIssued
  | .laneOps => f.laneOpsDone
  | .full u => !u.full s fk f
  | .specLimit n => (match f.fence with | some x => decide (x.stores.length + n ≤ 16) | none => true)
  | .drain scope e r => f.laneOpsDone && enginesDone s fk scope e r
  | .copying block => !blockBusy s fk block
  | .ownerDrains p => !ownerDrains s fk p
  | .interlock r => !f.outstanding (BitVec.ofNat 6 r)
  | .snapshot r => match f.clauses with | c :: _ => !c.awaiting.any (fun a => a.1 == r) | [] => true
  | .fencePending => f.fence.isNone
  | .waiting => true

/-- Whether a whole fabric command waits in `q2`: a bad header alone, or four words (R395). -/
def fabricWaits (q : List Word) : Bool :=
  match q with
  | [] => false
  | h :: r => wfld h 60 4 == 0 || decide (3 < wfld h 60 4) || decide (3 ≤ r.length)

/-- Whether a whole routing record waits in `q4`: a type 3 word alone, or two words (R417). -/
def routingWaits (q : List Word) : Bool :=
  match q with
  | [] => false
  | h :: r => wfld h 62 2 == 3 || !r.isEmpty

/-- What a drain waits for (step 2 of R184): the clause queue, flags, scalar results and whole commands of a fibre. -/
def drained (s : State) (fk : Nat) (f : Fibre) : Bool :=
  f.clauses.isEmpty && f.flags.toList.all (· == 0#4) && f.spend.isEmpty && !fabricWaits f.q2 && !routingWaits f.q4 &&
    (copiesOf s fk).isEmpty && !s.fabricOps.any (fun o => ownedBy s fk o.2.serial o.2.fibre && o.2.queued && !o.2.left) &&
    !s.tokens.any (fun t => ownedBy s fk t.2.serial t.2.fibre)

/-- Whether a flag-setting operation of a fibre is outstanding in either stream (step 2 of R188). -/
def flagSettersDone (s : State) (fk : Nat) (f : Fibre) : Bool :=
  f.lpend.isEmpty && !s.engines.any (fun e => ownedBy s fk e.2.serial e.2.fibre && (match e.2.op with
    | .mma .. | .accConvert .. | .copy .. => true
    | _ => false))

/-- Whether a wait that the fibre tests itself has ended. -/
def waitDone (s : State) (fk : Nat) (f : Fibre) (w : Wait) : Bool :=
  match w with
  | .flags m => (List.range 12).all (fun k => !m.getLsbD k || f.flag k == 0)
  | .clause n => !f.clauses.any (fun c => c.serial == n)
  | .fbarClauses _ | .cbarClauses _ | .cbaraClauses _ | .dbaraClauses _ => f.clausesDone
  | .tfence _ => f.clausesDone && flagSettersDone s fk f
  | .yieldPoint | .phase .. | .join _ => drained s fk f
  | .rflush n => !s.flushes.any (fun x => x.id == n)
  | .fbar _ | .role .. | .landing .. | .cbar .. | .dbar .. => false

/-! ### Ports (R381, R408, R432) -/

/-- A port changed. -/
def onPort (s : State) (i : Nat) (f : Port → Port) : State := { s with ports := s.ports.set! i (f (s.ports[i]?.getD Port.zero)) }

/-- Counter `j` of a port's STATS raised by `n` (R381): 0 FLITS_RX, 1 FLITS_TX, 2 FLIT_RETRY, 3 FEC_CORRECTED, 4 TENANT_DROP, 5 LIFETIME_DROP,
6 NO_MEMBER_DROP, 7 ERROR_REPLY. -/
def Port.count (p : Port) (j n : Nat) : Port := { p with stats := p.stats.set! j ((p.stats[j]?.getD 0#64) + BitVec.ofNat 64 n) }

/-- One event of a port's STATS. -/
def portStat (s : State) (i j : Nat) : State := onPort s i (fun p => p.count j 1)

/-- The flits that `n` bytes of packet data fill, packed back to back (R432). -/
def flits (n : Nat) : Nat := (n + 239) / 240

/-- `n` bytes of a packet received at a port. -/
def receive (s : State) (i n : Nat) : State :=
  onPort s i (fun p => { p.count 0 (flits (p.received + n) - flits p.received) with received := p.received + n })

/-- Something leaves the package by a port, `n` bytes of it. -/
def transmit (s : State) (i n : Nat) (x : Sent) : State :=
  let t := onPort s i (fun p => { p.count 1 (flits (p.sent + n) - flits p.sent) with sent := p.sent + n })
  { t with wire := t.wire ++ [x] }

/-- The port by which the next packet leaves. -/
def exitOf (s : State) : Nat := Config.exitPort s.tick % 16

/-- A reply or control message leaves (R406, R432). -/
def transmitReply (s : State) (x : Sent) : State := transmit s (exitOf s) 32 x

/-- A decision leaves for a header's sender (R419, R420). -/
def decide' (s : State) (h : RoutingHeader) (d : Decision) : State :=
  transmitReply s (.decision h.source.toNat { serial := h.serial, decision := d })

/-! ### Pauses and stops -/

/-- The key under which a crossing's pause is known: its id, or for a crossing of one package a number of the model's own (R380). -/
def crossingKey (n : Nat) (c : Context) : Nat := match c.member with | some m => m.crossing | none => 2 ^ 24 + n

/-- A context whose crews are halted by a gang pause (R415). -/
def pausedContext (s : State) (n : Nat) : Bool :=
  match lookup s.contexts n with
  | some c => (match lookup s.pauses (crossingKey n c) with | some p => p.begun | none => false)
  | none => false

/-- A crew that nothing halts: its bank runs and is the active one, no emergency stop holds and its crossing is not paused (R214, R368, R415). -/
def crewRuns (s : State) (bk : Nat) (w : Crew) : Bool :=
  (bankOf s bk).state == .running && decide ((coreOf s (bk % 1024)).side = bk / 1024) && !s.health.stop && !pausedContext s w.ctx

/-- A crew's grace has ended, by count or by time (R335). -/
def graceOver (s : State) (w : Crew) : Bool := w.grace == 0#9 || decide (16384 ≤ s.clock - w.graceClock)

/-- A fibre that can issue in some stream at all (R39): present, not ended, arrived, frozen or parked without an answer, and in
a running bank of a running crew with grace left (R335). -/
def alive (s : State) (fk : Nat) (f : Fibre) : Bool :=
  !f.ended && f.arrived.isNone && !f.frozen && f.parked.isNone &&
    (match lookup s.crews (bankOfFibre fk) with
      | some w => crewRuns s (bankOfFibre fk) w && w.state == .running && !(w.g && graceOver s w)
      | none => false)

/-- Whether a pending fence keeps instructions past it from issuing: after a rollback, with a held trap, or at the limit of
speculation (R311, R312). -/
def fenceStops (f : Fibre) : Bool :=
  match f.fence with
  | some x => x.rolledBack || x.heldTrap.isSome || x.limit ≤ x.issued
  | none => false

/-- Whether the scalar stream of a fibre is ready (R39). A replay of the lane stream comes first (R187). -/
def scalarReady (s : State) (fk : Nat) (f : Fibre) : Bool :=
  alive s fk f && !fenceStops f && !(f.handler.isNone && f.lReplay.isSome && f.replayOf.isSome) &&
    (match f.sWait with | some w => waitDone s fk f w | none => true) &&
    (match f.sStall with | some (c, _) => stallCleared s fk f c | none => true)

/-- Whether the lane stream of a fibre is ready (R39): not idle, its clause's WAIT flags clear once taken, not held by a handler. -/
def laneReady (s : State) (fk : Nat) (f : Fibre) : Bool :=
  alive s fk f && (f.prefence || !fenceStops f) && f.handler.isNone && !f.clauses.isEmpty && !(f.sReplay.isSome && f.replayOf.isSome) &&
    (match f.running with
      | some r => r.pos ≤ r.len && (r.started || waitDone s fk f (.flags r.wait))
      | none => true) &&
    (match f.lStall with | some (c, _) => stallCleared s fk f c | none => true)

/-- Whether a fibre is ready (R39). -/
def ready (s : State) (fk : Nat) : Bool :=
  match lookup s.fibres fk with
  | some f => scalarReady s fk f || laneReady s fk f
  | none => false

/-- A fibre holds its slot: a stream of it is stalled without the S bit (R40). A parked fibre holds none (R186). -/
def Fibre.holds (f : Fibre) : Bool :=
  f.parked.isNone && ((match f.sStall with | some (_, sw) => !sw | none => false) || (match f.lStall with | some (_, sw) => !sw | none => false))

/-- The first ready fibre of a slot after fibre `n`, ascending and wrapping, `n` itself last (R39). -/
def nextReady (s : State) (sk n : Nat) : Option Nat :=
  ([n + 1, n + 2, n + 3, n].map (· % 4)).find? (fun i => ready s (sk * 4 + i))

/-- The slot hands on after an instruction with the S bit stalls or waits (R39). -/
def switch (s : State) (fk : Nat) : State :=
  let sk := slotOfFibre fk
  match lookup s.fibres fk with
  | none => s
  | some f =>
    if f.holds then s
    else
      match nextReady s sk (fk % 4) with
      | none => s
      | some i =>
        let s' := if i = fk % 4 then s else countCore s (coreOfFibre fk) 0x04 1
        { s' with slots := put s'.slots sk { slotOf s' sk with current := i } }

/-- The scalar instruction of the current fibre does not issue (R38 to R40). -/
def stallScalar (s : State) (sw : Bool) (c : Stall) : State :=
  let s' := onCur s (fun f => { f with sStall := some (c, sw) })
  if sw then switch s' s.cur else s'

/-- The lane instruction of the current fibre does not issue. -/
def stallLane (s : State) (sw : Bool) (c : Stall) : State :=
  let s' := onCur s (fun f => { f with lStall := some (c, sw) })
  if sw then switch s' s.cur else s'

/-- A scalar instruction issues: its stall ends, grace and tolls are charged, and it is counted (R116, R221, R334, R335). -/
def issueScalar (s : State) (spc : Word) (bi bm : Nat) : State :=
  let bk := bankOfFibre s.cur
  let s1 := onCur s (fun f => { f with
    sStall := none, fence := f.fence.map (fun x => { x with issued := x.issued + 1 }) })
  charge (graceTick (countCore s1 (coreOfFibre s.cur) 0x01 1) bk) bk s.cur spc bi bm

/-- A lane instruction issues. -/
def issueLane (s : State) (spc : Word) (bi bm : Nat) : State :=
  let bk := bankOfFibre s.cur
  let s1 := onCur s (fun f => { f with
    lStall := none,
    fence := f.fence.map (fun x => if f.prefence then x else { x with issued := x.issued + 1 }) })
  charge (graceTick (countCore s1 (coreOfFibre s.cur) 0x02 1) bk) bk s.cur spc bi bm

/-! ### Traps -/

/-- The code of a cause (R190, R218, R223, R263, R297, R339, R391). -/
def Cause.code : Cause → Nat
  | .illegalInstr => 0x01
  | .privileged => 0x02
  | .regUnmapped => 0x03
  | .regReadonly => 0x04
  | .queueAccess => 0x05
  | .scratchRange => 0x06
  | .memAlign => 0x07
  | .memTranslate => 0x08
  | .memPermit => 0x09
  | .pcAlign => 0x0A
  | .arith => 0x0B
  | .brk => 0x0C
  | .soft => 0x0D
  | .fbarMismatch => 0x0E
  | .roleInvalid => 0x0F
  | .scratchEcc => 0x10
  | .tileShape => 0x11
  | .formatBlock => 0x12
  | .lwPlace => 0x13
  | .lwOperand => 0x14
  | .cbarCount => 0x15
  | .publishRange => 0x16
  | .deckBarrier => 0x17
  | .swapOperand => 0x18
  | .memPoison => 0x19
  | .nredOperand => 0x1A
  | .budgetCarve => 0x1B
  | .budgetRight => 0x1C
  | .recordInvalid => 0x1D
  | .phaseMismatch => 0x1E
  | .fabricOperand => 0x1F
  | .fabricPattern => 0x20
  | .collectiveStore => 0x21
  | .fabricPause => 0x22

/-- The memory causes, whose frame masks a re-issue replays (R193). -/
def Cause.memory (c : Cause) : Bool := c == .memTranslate || c == .memPermit || c == .memPoison || c == .scratchEcc

/-- BREAK and SOFT resume after the trapping instruction (R190). -/
def Cause.resumesAfter (c : Cause) : Bool := c == .brk || c == .soft

/-- The offset in the save area of a fibre's record (R28, R321). -/
def recordOffset (fk : Nat) : Nat := 0x1000 + 0xA000 * (fibreNumber fk / 4 % 16) + 0x400 * (fibreNumber fk % 4)

/-- The virtual address of a fibre's trap frame (R321). -/
def frameAddress (w : Crew) (fk : Nat) : Word :=
  w.own.imageBase + BitVec.ofNat 64 (w.area * 0x200000 + recordOffset fk + 0x280)

/-- The key under which a crew's save area is stored: protected contexts use PROT pages (R349, R431). -/
def areaKey (s : State) (w : Crew) : Option Nat :=
  match lookup s.contexts w.ctx with
  | some c => if w.own.prot then (lookup s.partitions c.partition).map (·.key) else none
  | none => none

/-- A number laid at an offset of a save area. -/
def areaCells (w : Crew) (o n v : Nat) : List (Nat × Byte) :=
  (List.range n).zipWith (fun k b => (areaPlace w (o + k), b)) (leBytes n v)

/-- Bytes of a trap frame that R191 gives as zero; after a later trap of the same fibre no rule says what they read as (R429). -/
def zeroCells (s : State) (w : Crew) (f : Fibre) (o n : Nat) : List (Nat × Byte) :=
  (List.range n).map (fun i => (areaPlace w (o + i), if f.trapped then Config.freeByte s.tick (areaPlace w (o + i)) else 0#8))

/-- The 128 bytes of a trap frame (R191). -/
def frameCells (s : State) (w : Crew) (fk : Nat) (f : Fibre) (fr : Frame) (word : BitVec 96) : List (Nat × Byte) :=
  let o := recordOffset fk + 0x280
  let header := match f.clauses with | c :: _ => c.header | [] => 0#64
  areaCells w o 2 fr.trap.cause.code ++ areaCells w (o + 2) 1 fr.trap.sub ++
  areaCells w (o + 3) 1 (fr.lane.toNat + 2 * fr.trap.cause.resumesAfter.toNat) ++ areaCells w (o + 4) 2 fr.trap.code ++
  zeroCells s w f (o + 6) 2 ++ areaCells w (o + 8) 8 fr.trap.addr.toNat ++ areaCells w (o + 0x10) 4 fr.trap.mask.toNat ++
  areaCells w (o + 0x14) 4 f.em.toNat ++ areaCells w (o + 0x18) 4 fr.trap.pred.toNat ++
  areaCells w (o + 0x1C) 4 (wfld f.aflags 0 32) ++
  (if fr.lane then areaCells w (o + 0x20) 12 word.toNat else areaCells w (o + 0x20) 4 (word.toNat % 2 ^ 32) ++ zeroCells s w f (o + 0x24) 8) ++
  zeroCells s w f (o + 0x2C) 4 ++
  areaCells w (o + 0x30) 8 fr.spc.toNat ++ areaCells w (o + 0x38) 8 fr.lpc.toNat ++ areaCells w (o + 0x40) 8 fr.oldS1.toNat ++
  areaCells w (o + 0x48) 8 (if fr.lane then header.toNat else 0) ++ zeroCells s w f (o + 0x50) 48

/-- A crew ends: it drains, and its end is carried out when its deck has drained (R255, R331). -/
def endCrew (s : State) (bk : Nat) (e : CrewEnd) : State :=
  onCrew s bk (fun w => if w.ending.isSome then w else { w with state := .draining, ending := some e })

/-! ### When a crew's phase passes on: every fibre has arrived, ended, or counts as ended (R331, R336, R341 to R343) -/

/-- The fibres of a crew. -/
def fibresOf (s : State) (bk : Nat) : List (Nat × Fibre) := s.fibres.filter (fun e => bankOfFibre e.1 == bk)

/-- Whether a crew's supervisor has ended, or it has none (R194, R343). -/
def supervisorGone (w : Crew) (l : List (Nat × Fibre)) : Bool :=
  !l.any (fun e => isSupervisor w e.1 e.2 && !e.2.ended && !e.2.frozen)

/-- A crew in which nothing more can happen moves on: it ends, or its save begins (R331). -/
def settleCrew (s : State) (bk : Nat) : State :=
  match lookup s.crews bk with
  | none => s
  | some w =>
    let l := fibresOf s bk
    let gone := supervisorGone w l
    let ended (f : Fibre) : Bool := f.ended || (f.frozen && gone)
    let all (a : Arrival) : Bool := l.all (fun e => ended e.2 || e.2.arrived == some a) && l.any (fun e => e.2.arrived == some a)
    let faulted := l.any (fun e => e.2.frozen)
    if w.state != .running then s
    else if l.all (fun e => ended e.2) then endCrew s bk (if faulted then .faulted else .exit)
    else if all .yieldPoint then
      if faulted then endCrew s bk .faulted else onCrew s bk (fun w => { w with state := .saving false })
    else if all .phase then
      match w.phaseArgs with
      | some (x, y) => endCrew s bk (if faulted then .faulted else .phase x y)
      | none => s
    else if all .join then
      match w.joinArg with
      | some x => endCrew s bk (if faulted then .faulted else .join x)
      | none => s
    else s

/-- A fibre is frozen for good; a crew whose supervisor it is, or that has none, ends as faulted at once (R194), and one whose last fibre it was
counts as ended (R343). -/
def freeze (s : State) (fk : Nat) : State :=
  let s' := onFibre s fk (fun f => { f with frozen := true, sWait := none, sStall := none, lStall := none })
  match lookup s.crews (bankOfFibre fk), lookup s.fibres fk with
  | some w, some f =>
    if isSupervisor w fk f || !w.block.supervised then endCrew s' (bankOfFibre fk) .faulted
    else settleCrew (switch s' fk) (bankOfFibre fk)
  | _, _ => s'

/-- A pending FENCE is abandoned like a wait of R178: what was done past it is undone, and SPC is at its address. -/
def undoFence (s : State) (fk : Nat) : State :=
  onFibre (rollback s fk) fk (fun f => if f.fence.isSome then { f with spc := f.spc - 4#64, fence := none } else f)

/-- A lane word enqueued before a pending FENCE traps: the fence has not completed. -/
def abandonFence (s : State) (fk : Nat) : State :=
  match lookup s.fibres fk with
  | none => s
  | some f => if f.prefence then undoFence s fk else s

/-- A trap of fibre `fk` in its scalar or lane stream (R192, R194); past a pending FENCE it is held (R311).
`word` is the trapping word. -/
def takeTrapOf (s0 : State) (fk : Nat) (word : BitVec 96) (lane : Bool) (t : Trap) : State :=
  let s := if lane then abandonFence s0 fk else s0
  match lookup s.fibres fk, lookup s.crews (bankOfFibre fk) with
  | some f, some w =>
    match f.fence, f.handler with
    | some x, _ => onFibre s fk (fun f => { f with fence := some { x with heldTrap := some (lane, t, word) } })
    | none, some fr => postNotice (freeze s fk) (bankOfFibre fk) (noticeWord 1 fr.trap.cause.code fk f.spc)
    | none, none =>
      let fr : Frame :=
        { trap := t, lane := lane, oldS1 := f.readS 1#6, spc := f.spc, lpc := f.lpc, wait := f.issuedWait, cbarDone := f.cbarDone }
      let s1 := countCore (write s (areaKey s w) (frameCells s w fk f fr word)) (coreOfFibre fk) 0x0A 1
      if bits w.trapbase 0 1 = 1#1 then
        onFibre s1 fk (fun f =>
          { f.writeS 1#6 (frameAddress w fk) with
            spc := (bits w.trapbase 2 53 ++ 0#2).signExtend 64, handler := some fr, sWait := none, sStall := none, lStall := none, cbarDone := none,
            trapped := true })
      else
        let s2 := onFibre s1 fk (fun f => { f with handler := some fr, trapped := true })
        postNotice (freeze s2 fk) (bankOfFibre fk) (noticeWord 2 t.cause.code fk f.spc)
  | _, _ => s

/-- The current fibre takes a trap at the word being issued. -/
def takeTrap (s : State) (lane : Bool) (t : Trap) : State := takeTrapOf s s.cur s.latch lane t

/-- The lane word at LPC is abandoned (R193): its raised flag is lowered, its marks are not applied, and the next word is next. Behind a header that
has trapped no word is known: its entry leaves the queue (log 121). -/
def Fibre.abandonLane (f : Fibre) : Fibre :=
  if f.running.isNone then { f with clauses := f.clauses.drop 1, lReplay := none, lRaised := none }
  else { (f.lower f.lRaised).nextLane with lReplay := none }

/-- Leaving handler mode (R193): `s1` is restored, and the stream that trapped resumes after, past or at its instruction. A re-issue charges
its toll again; a memory word that had issued replays the lanes that `lReplay` has kept. `target` is the new SPC where X is not 0: a FWAIT or CLSWAIT
that was waiting then goes on waiting before the instruction there issues (log 122), and only where SPC is again at a CBAR that had arrived does its
arrival stand (R212). -/
def Fibre.leaveHandler (f : Fibre) (fr : Frame) (skip : Bool) (target : Option Word) : Fibre :=
  let f1 := { f.writeS 1#6 fr.oldS1 with handler := none, sWait := fr.wait, replayOf := none }
  let f2 :=
    if fr.trap.cause.resumesAfter then { f1 with spc := fr.spc + 4#64 }
    else if skip then
      if fr.lane then { f1.abandonLane with spc := fr.spc } else { f1 with spc := fr.spc + 4#64, sReplay := none }
    else { f1 with spc := fr.spc }
  let f3 := match target with
    | some t => { f2 with spc := t }
    | none => f2
  { f3 with cbarDone := if f3.spc = fr.spc then fr.cbarDone else none }

end Sys2Proof.Machine
end

