-- ==== Sys2Proof/Machine/Pattern.lean ====
section
/-! DEFINITION. The grid of a crossing (R380 to R386), patterns and their member sets (R387 to R389), and the reductions that
region controls and operation words name (R393, R400, R412). -/

namespace Sys2Proof.Machine

/-- A crossing as one member sees it: its id, the declared axis count, five extents and five coordinates. -/
structure Grid where
  crossing : Nat
  axes : Nat
  extents : List Nat
  coord : List Nat

/-- Five entries, missing ones filled. -/
def five (l : List Nat) (d : Nat) : List Nat := (List.range 5).map (fun a => l.getD a d)

/-- The grid of a context: its crossing, or one axis of extent 1 (R380). -/
def gridOf (c : Context) : Grid :=
  match c.member with
  | some m => { crossing := m.crossing, axes := m.axes, extents := five (m.extents.take m.axes) 1, coord := five (m.coord.take m.axes) 0 }
  | none => { crossing := 0, axes := 1, extents := five [] 1, coord := five [] 0 }

/-- The linear index of a coordinate (R386). -/
def linearIndex (extents coord : List Nat) : Nat :=
  ((extents.zip coord).foldl (fun (acc : Nat × Nat) x => (acc.1 + x.2 * acc.2, acc.2 * x.1)) (0, 1)).1

/-- The member values of an axis field (R388): none where it is invalid. -/
def axisValues (f : BitVec 16) (extent p : Nat) : Option (List Nat) :=
  let mode := (bits f 14 2).toNat
  let span := (bits f 8 6).toNat
  let value := (bits f 0 8).toNat
  if mode = 0 then (if span = 0 ∧ value < extent then some [value] else none)
  else if mode = 1 then (if span = 0 ∧ value = 0 then some (List.range extent) else none)
  else if mode = 2 then (if value + span < extent then some ((List.range (span + 1)).map (fun k => value + k)) else none)
  else if span = 0 then some [(((p : Int) + (bits f 0 8).toInt) % (extent : Int)).toNat] else none

/-- Whether an axis is spread (R389). -/
def spread (f : BitVec 16) : Bool := bits f 14 2 == 1#2 || bits f 14 2 == 2#2

/-- The member values of a pattern on each axis; none where an axis is invalid (R388, R389). -/
def patternValues (g : Grid) (p : Pattern) : Option (List (List Nat)) :=
  (List.range 5).mapM (fun a => axisValues (p.axis.getD a 0#16) (g.extents.getD a 1) (g.coord.getD a 0))

/-- The number of members. -/
def memberCount (v : List (List Nat)) : Nat := v.foldl (fun n l => n * l.length) 1

/-- Whether a coordinate is a member. -/
def isMember (v : List (List Nat)) (coord : List Nat) : Bool := (v.zip coord).all (fun x => decide (x.2 ∈ x.1))

/-- The axis fields as the wire carries them: offset axes made exact (R389). -/
def resolvePattern (g : Grid) (p : Pattern) : List (BitVec 16) :=
  (List.range 5).map (fun a =>
    let f := p.axis.getD a 0#16
    if bits f 14 2 = 3#2 then
      BitVec.ofNat 16 (((axisValues f (g.extents.getD a 1) (g.coord.getD a 0)).getD []).headD 0)
    else f)

/-- The sizes of the spread axes and the sender's place on them, in ascending axis order (R400). -/
def spreadAxes (g : Grid) (p : Pattern) (v : List (List Nat)) : List (Nat × Nat) :=
  ((List.range 5).filter (fun a => spread (p.axis.getD a 0#16))).map
    (fun a => ((v.getD a []).length, g.coord.getD a 0 - (v.getD a []).headD 0))

/-- The expected contributor count of a reducing store (R400). -/
def contributors (g : Grid) (p : Pattern) (v : List (List Nat)) : Nat := (spreadAxes g p v).foldl (fun n x => n * x.1) 1

/-- The sender's contributor index (R400). -/
def contributorIndex (g : Grid) (p : Pattern) (v : List (List Nat)) : Nat :=
  ((spreadAxes g p v).foldl (fun (acc : Nat × Nat) x => (acc.1 + x.2 * acc.2, acc.2 * x.1)) (0, 1)).1

/-- The axis fields of the member that a reducing store converges on (R400). -/
def convergingOn (v : List (List Nat)) : List (BitVec 16) := v.map (fun l => BitVec.ofNat 16 (l.headD 0))

/-- The reductions and the formats they accept (R393): 0 RREDF, 1 RREDB, 2 RREDI, 3 RREDX, 4 RREDN. -/
def reductionOk (red fmt bop : Nat) : Bool :=
  match red with
  | 0 => decide (fmt < 3) && bop == 0
  | 1 => fmt == 10 && decide (bop < 3)
  | 2 => (fmt == 10 || fmt == 13) && bop == 0
  | 3 | 4 => (decide (fmt < 3) || fmt == 10 || fmt == 13) && bop == 0
  | _ => false

/-- The width in bytes of an element of the reduced formats. -/
def reduceWidth (fmt : Nat) : Nat := if fmt = 1 ∨ fmt = 2 then 2 else 4

/-- A region control (R412): its reduction, format and operation where it is valid. -/
def controlFields (c : BitVec 16) : Option (Nat × Nat × Nat) :=
  let red := (bits c 13 3).toNat
  let fmt := (bits c 9 4).toNat
  let bop := (bits c 7 2).toNat
  if bits c 0 7 = 0#7 ∧ reductionOk red fmt bop then some (red, fmt, bop) else none

/-- A pattern-table entry of a context (R387). -/
def patternOf (c : Context) (i : Nat) : Pattern := c.patterns[i]?.getD { axis := [], control := 0#16 }

/-- A fabric operation accepted; its number is the next serial. -/
def addFabricOp (s : State) (o : FabricOp) : State :=
  { s with fabricOps := put s.fabricOps s.nextSerial o, nextSerial := s.nextSerial + 1 }

/-- The chunks of `n` bytes (R397). -/
def chunkCount (n : Nat) : Nat := (n + 511) / 512

/-- The contribution that a store to a collective region becomes (R412), its bytes captured. -/
def collectiveOp (fk : Nat) (w : Crew) (c : Context) (i : Nat) (fields : Nat × Nat × Nat) (addr : Word)
    (data : List Byte) : FabricOp :=
  let g := gridOf c
  let p := patternOf c i
  let v := (patternValues g p).getD []
  { words := { w0 := BitVec.ofNat 64 (i * 2 ^ 46 + fields.2.1 * 2 ^ 40 + fields.2.2 * 2 ^ 38), w1 := addr,
               w2 := BitVec.ofNat 64 (leNat data), w3 := BitVec.ofNat 64 data.length },
    kind := 3, red := fields.1, queued := false, taken := true, fibre := fk, bank := bankOfFibre fk, serial := w.serial, ctx := w.ctx,
    core := coreOfFibre fk, flag := none, pattern := convergingOn v, members := 1,
    contributor := contributorIndex g p v, remoteAddr := addr, dest := none, chunks := 1, sent := 0, left := false, acks := [],
    void := none, stopped := false, refused := false, data := data, asked := none }

end Sys2Proof.Machine
end

