-- ==== Sys2Proof/Machine/Placement.lean ====
section
/-! DEFINITION. Records on their way: the placement hash (R267, R268), queues (R324), status entries (R330), join records (R341),
the end of a sailing (R318), and the kill of a deck and the retirement of a core by storage errors (R218, R220, R255). -/

namespace Sys2Proof.Machine

/-! ### Records (R322) -/

/-- The priority of a record. -/
def Record.priority (r : Record) : Nat := wfld r.w2 32 4
/-- The kind of a record (R323). -/
def Record.kind (r : Record) : Nat := wfld r.w2 36 4
/-- The deck width W of a record (R254). -/
def Record.width (r : Record) : Nat := wfld r.w2 40 3 + 1
/-- The coordinates of a record as the 48-bit number of R267. -/
def Record.coords (r : Record) : Nat := wfld r.w3 0 48

/-- The partition field of word 3 for a context (R322). -/
def partitionField (c : Context) : Nat := c.partition % 8 * 256 + c.sailing % 64

/-- Word 3 with a context's partition and sailing written over its partition field (R323). -/
def stampPartition (c : Context) (w3 : Word) : Word := BitVec.ofNat 64 (wfld w3 0 48 + partitionField c * 2 ^ 48)

/-- Word 2 with its kind and low word replaced, and CHILD_FAILED clear. -/
def recordWord2 (w2 : Word) (kind low : Nat) : Word :=
  BitVec.ofNat 64 (low % 2 ^ 32 + wfld w2 32 4 * 2 ^ 32 + kind * 2 ^ 36 + wfld w2 40 3 * 2 ^ 40)

/-- The four words of a record, read from bytes. -/
def recordOf (l : List Byte) : Record :=
  let word (i : Nat) : Word := BitVec.ofNat 64 (leNat ((l.drop (8 * i)).take 8))
  { w0 := word 0, w1 := word 1, w2 := word 2, w3 := word 3 }

/-! ### Clusters and placement -/

/-- A core in service (R220, R268, R270, R379). -/
def inService (s : State) (g : Nat) : Bool :=
  !(coreOf s g).retired && !(coreOf s g).keptOut && !clusterOut s (g / 8)

/-- The cores in service of a cluster. -/
def coresInService (s : State) (c : Nat) : List Nat := ((List.range 8).map (fun k => c * 8 + k)).filter (inService s)

/-- The hash of R267 over chunks of `b` bits. -/
def clusterHash (b v : Nat) : Nat :=
  (List.range ((48 + b - 1) / b)).foldl (fun h j => h ^^^ (v / 2 ^ (b * j) % 2 ^ b)) 0

/-- The cluster of a partition-relative index (R267). -/
def clusterAt (dies : List Nat) (i : Nat) : Nat := dies.getD (i / 16) 0 * 16 + i % 16

/-- The home cluster of a record (R267, R268). -/
def homeCluster (dies : List Nat) (r : Record) : Nat := clusterAt dies (clusterHash (Nat.log2 (16 * dies.length)) r.coords)

/-- The cluster that takes a record: its home, or the next with W cores in service; none where no cluster has them (R268). -/
def placeOn (s : State) (dies : List Nat) (r : Record) : Option Nat :=
  let c := 16 * dies.length
  let i := clusterHash (Nat.log2 c) r.coords
  ((List.range c).map (fun k => clusterAt dies ((i + k) % c))).find? (fun k => r.width ≤ (coresInService s k).length)

/-- A record moves from the cluster `a` to the cluster `b`: one move is counted, at the cluster that it leaves (R268, R271, log 123). -/
def countMoved (s : State) (a b : Nat) : State := if a = b then s else countCluster s a 0x0C 1

/-- The dies of a context's partition. -/
def diesOf (s : State) (c : Context) : List Nat := ((lookup s.partitions c.partition).map (·.dies)).getD []

/-- The lowest address of the run-queue store that no record holds (R324, log 124). -/
def freeAddress (l : List Queued) : Nat := ((List.range (l.length + 1)).find? (fun a => !l.any (fun q => q.addr == a))).getD 0

/-! ### Accesses of a context (R330, R341) -/

/-- The places and keys of `len` bytes at an address for an access; none where any byte fails or reaches no store. -/
def contextPlaces (s : State) (env : Option Env) (v : Word) (len : Nat) (w : Want) : Option (List (Nat × Option Nat)) :=
  match env with
  | none => none
  | some e =>
    match spots s e v len w false with
    | .error _ => none
    | .ok l => if l.all (fun x => x.place.isSome) then some (l.map (fun x => (x.place.getD 0, x.page.key))) else none

/-- The number a context reads. -/
def contextNumber (s : State) (l : List (Nat × Option Nat)) : Nat :=
  leNat (l.map (fun x => (viewByte s x.1 x.2).getD 0#8))

/-- Bytes written by a context. -/
def contextWrite (s : State) (l : List (Nat × Option Nat)) (bytes : List Byte) : State :=
  (distinct (l.map (fun x => match x.2 with | none => 0 | some k => k + 1))).foldl
    (fun t k =>
      let key := if k = 0 then none else some (k - 1)
      write t key (((l.zip bytes).filter (fun x => x.1.2 == key)).map (fun x => (x.1.1, x.2)))) s

/-- The 32 bytes of a status entry (R330). -/
def statusBytes (r : Record) (status core : Nat) : List Byte :=
  leBytes 8 r.w0.toNat ++ leBytes 8 r.w1.toNat ++ leBytes 8 (status + core * 65536) ++ leBytes 8 r.w3.toNat

/-- A status entry written to the ring of a context by the descriptor fields of an admission, or lost, and the host told (R330, R361). -/
def postStatus (s : State) (n : Nat) (o : Admitted) (r : Record) (status core : Nat) : State :=
  match lookup s.contexts n with
  | none => s
  | some c =>
    let t := { s with msix := (1 + c.partition) :: s.msix }
    match contextPlaces t (envOfAdmitted t n o) o.statusArea 4096 .write with
    | none => countPackage t 0x08 1
    | some l =>
      let i := contextNumber t (l.take 4) % 127
      contextWrite (contextWrite t ((l.drop (0x20 + 0x20 * i)).take 32) (statusBytes r status core)) (l.take 4)
        (leBytes 4 ((i + 1) % 127))

/-! ### Queues and joins -/

/-- A context whose crossing is ready (R380, R382). -/
def Context.crossingReady (c : Context) : Bool :=
  match c.member with
  | some m => m.ready && !c.refused
  | none => !c.refused

/-- A record to be queued for a context: placed on a cluster, or held until the crossing is ready; none where no cluster takes
it (R268, R324, R382). -/
def tryEnqueue (s : State) (n : Nat) (r : Record) (link : Option Link) (carve : BitVec 32 × BitVec 32) (relaunches : Nat) :
    Option State :=
  match lookup s.contexts n with
  | none => some s
  | some c =>
    let item (cluster : Nat) (held : Bool) : Queued :=
      { addr := freeAddress s.queue, record := r, ctx := n, cluster := cluster, time := s.clock, held := held, joinLink := link, carve := carve,
        relaunches := relaunches }
    if !c.crossingReady then some { s with queue := s.queue ++ [item 0 true] }
    else
      match placeOn s (diesOf s c) r with
      | some k => some { countMoved s (homeCluster (diesOf s c) r) k with queue := s.queue ++ [item k false] }
      | none => none

/-- The places of a join record, by the addresses of the crew that named it. -/
def Link.places (j : Link) (s : State) (n : Nat) : Option (List (Nat × Option Nat)) := contextPlaces s (envOfView s n j.view) j.addr 32 .write

/-- The record at some places. -/
def recordAt (s : State) (l : List (Nat × Option Nat)) : Record := recordOf (l.map (fun x => (viewByte s x.1 x.2).getD 0#8))

/-- A record that leaves its join record as a START (R341). -/
def released (c : Context) (r : Record) : Record := { r with w2 := recordWord2 r.w2 0 0, w3 := stampPartition c r.w3 }

/-- The update of a join record at the final end of a child (R341): the record to enqueue, where this end releases it, with its own link. -/
def joinUpdate (s : State) (n : Nat) (j : Link) (failed : Bool) : State × Option (Record × Option Link) :=
  match lookup s.contexts n, j.places s n with
  | some c, some l =>
    let r := recordAt s l
    let counter := wfld r.w2 0 32
    if counter = 0 then (countPackage s 0x03 1, none)
    else
      let release : Bool := counter == 1 && r.kind == 4
      let w2 := BitVec.ofNat 64 (r.w2.toNat / 2 ^ 32 * 2 ^ 32 + (counter - 1)) ||| (if failed then BitVec.twoPow 64 63 else 0#64)
      let w2' := if release then BitVec.ofNat 64 (w2.toNat - r.kind * 2 ^ 36) else w2
      let t := contextWrite s ((l.drop 16).take 8) (leBytes 8 w2'.toNat)
      if release then
        let p := (l.headD (0, none)).1
        ({ t with contexts := alter t.contexts n (fun c => { c with joinLinks := c.joinLinks.filter (fun x => x.1 != p) }) },
          some (released c r, (c.joinLinks.find? (fun x => x.1 == p)).map (·.2)))
      else (t, none)
  | _, _ => (s, none)

/-- The registered descriptor fields of a context. -/
def registered (s : State) (n : Nat) : Admitted :=
  match lookup s.contexts n with
  | some c => c.admitted
  | none => { gen := 0#16, tenant := 0#12, priv := false, prot := false, topUp := false, keySlot := 0, root := 0, imageBase := 0#64, sealedBase := 0#64, stackTop := 0#64,
              stackBytes := 0#64, statusArea := 0#64 }

/-- The final end of a child: its join link is decremented; `fuel` bounds a chain of continuations that no cluster takes. -/
def childEnd (fuel : Nat) (s : State) (n : Nat) (link : Option Link) (failed : Bool) : State :=
  match fuel, link with
  | _, none => s
  | 0, _ => s
  | fuel + 1, some j =>
    match joinUpdate s n j failed with
    | (t, none) => t
    | (t, some (r, own)) =>
      match tryEnqueue t n r own (0#32, 0#32) 0 with
      | some u => u
      | none => childEnd fuel (postStatus t n (registered t n) r 3 0) n own true

/-! ### Save areas (R30, R321) -/

/-- The offset of a place in a save area of four frames. -/
def areaOffset (frames : List Nat) (p : Nat) : Option Nat :=
  ((List.range frames.length).zip frames).findSome? (fun x => if x.2 ≤ p ∧ p < x.2 + 2 ^ 19 then some (x.1 * 2 ^ 19 + (p - x.2)) else none)

/-- Register lines tagged in the berth images of save areas, given by their frames, become Invalid without write-back (R30). -/
def dropImages (s : State) (areas : List (List Nat)) : State :=
  let inside (tag : Nat) : Bool := areas.any (fun fr => match areaOffset fr tag with
    | some o => decide (0x1000 ≤ o) && decide (o < 0xA1000)
    | none => false)
  if areas.isEmpty then s
  else { s with slots := s.slots.map (fun e => (e.1, { e.2 with lines := e.2.lines.filter (fun x => !inside x.2.tag) })) }

/-- Save areas of a context are free again, and what was saved in them is forgotten (R321): `frames` are those of members that had no image. -/
def freeAreas (s : State) (n a w : Nat) (frames : List (List Nat)) : State :=
  let gone (x : Nat × Saved) : Bool := decide (n * 4096 + a ≤ x.1) && decide (x.1 < n * 4096 + a + w) && x.2.home.isNone
  dropImages
    { s with
      contexts := alter s.contexts n (fun c => { c with inUse := c.inUse.filter (fun k => !(decide (a ≤ k) && decide (k < a + w))) })
      saved := s.saved.filter (fun x => !gone x) }
    ((s.saved.filter gone).map (·.2.crew.frames) ++ frames)

/-- An abnormal end of a phase: its status entry and its join link; a PHASE or RESUME record's areas are free (R330, R331). -/
def endAbnormal (s : State) (n : Nat) (o : Admitted) (r : Record) (link : Option Link) (status core : Nat) : State :=
  let t := if r.kind = 1 ∨ r.kind = 2 then freeAreas s n (wfld r.w2 0 32) r.width [] else s
  childEnd 64 (postStatus t n o r status core) n link true

/-- A record queued, or ended as unplaceable (R268). -/
def enqueue (s : State) (n : Nat) (r : Record) (link : Option Link) (carve : BitVec 32 × BitVec 32) (relaunches : Nat) : State :=
  match tryEnqueue s n r link carve relaunches with
  | some t => t
  | none => endAbnormal s n (registered s n) r link 3 0

/-- The join update of the crew that issued JOIN, after its draining (R341): its own link passes to the record. -/
def joinAfter (s : State) (n : Nat) (j : Link) (link : Option Link) : State :=
  match lookup s.contexts n, j.places s n with
  | some c, some l =>
    let r := recordAt s l
    let counter := wfld r.w2 0 32
    let kind := if counter = 0 then 0 else 4
    let w2 := BitVec.ofNat 64 (r.w2.toNat - r.kind * 2 ^ 36 + kind * 2 ^ 36)
    let t := contextWrite s ((l.drop 16).take 8) (leBytes 8 w2.toNat)
    if counter = 0 then enqueue t n (released c r) link (0#32, 0#32) 0
    else
      match link with
      | none => t
      | some x =>
        let p := (l.headD (0, none)).1
        { t with contexts := alter t.contexts n (fun c => { c with joinLinks := (p, x) :: c.joinLinks.filter (fun y => y.1 != p) }) }
  | _, _ => s

/-! ### The end of a sailing (R318, R358, R361) -/

/-- Whether a context has a queued or held record, a crew, a saved crew or a held launch. -/
def busyContext (s : State) (n : Nat) : Bool :=
  s.queue.any (fun q => q.ctx == n) || s.crews.any (fun w => w.2.ctx == n) || s.saved.any (fun x => x.1 / 4096 == n) ||
    s.launches.any (fun x => x.ctx == n)

/-- The headers that a context's sessions hold, with their batches, and those that no session of it has taken. -/
def heldHeaders (s : State) (n : Nat) : List (RoutingHeader × Nat) :=
  (s.sessions.filter (fun x => x.ctx == n)).flatMap (fun x =>
    x.headers.map (fun y => (y.header, y.batch)) ++ x.round1.map (fun y => (y.header, match x.ranked with | some (b, _) => b | none => y.header.batch)) ++
      x.appends.flatMap (fun b => b.accepted.map (fun y => (y.header, b.batch)))) ++
    (s.earlyHeaders.filter (fun x => x.1 == n)).map (fun x => (x.2, x.2.batch))

/-- A context is released: its number and its live bit are free, it leaves its crossing, and so does what a coordinator has recorded of it (R358,
R382). The sends that it armed are discarded, to nobody (R413), its page requests match no reply any more (R288), and the headers that its sessions
hold are dropped (log 74). -/
def releaseContext (s0 : State) (n : Nat) : State :=
  let s := (heldHeaders s0 n).foldl (fun t x => decide' t x.1 (.dropped x.2)) s0
  let kept (l : List Armed) : List Armed := l.filter (fun a => a.ctx != n)
  { s with
    memArmed := kept s.memArmed
    banks := s.banks.map (fun b => (b.1, { b.2 with armed := kept b.2.armed }))
    saved := s.saved.map (fun x => (x.1, { x.2 with armed := kept x.2.armed }))
    dies := s.dies.map (fun d => (d.1, { d.2 with requests := d.2.requests.filter (fun r => r.ctx != n) }))
    coordinators := match (lookup s.contexts n).bind (·.member) with | some m => del s.coordinators m.crossing | none => s.coordinators
    contexts := del s.contexts n, queue := s.queue.filter (fun q => q.ctx != n), sessions := s.sessions.filter (fun x => x.ctx != n)
    earlyHeaders := s.earlyHeaders.filter (fun x => x.1 != n), flights := s.flights.filter (fun x => x.1 != n), shutSessions := s.shutSessions.filter (fun x => x.1 != n)
    pauses := match lookup s.contexts n with | some c => del s.pauses (crossingKey n c) | none => s.pauses }

/-- A sailing that has started ends when nothing of it is left (R318). -/
def settleSailing (s : State) (n : Nat) : State :=
  match lookup s.contexts n with
  | none => s
  | some c =>
    if c.started && !busyContext s n then { releaseContext s n with msix := (1 + c.partition) :: s.msix } else s

/-! ### Storage errors (R218 to R220, R255) -/

/-- Records of a cluster that it can no longer take move on, keeping priority and age (R268). -/
def moveQueued (s : State) (cluster : Nat) : State :=
  s.queue.foldl
    (fun t q =>
      if q.held || q.cluster != cluster || q.record.width ≤ (coresInService t cluster).length then t
      else
        let u := { t with queue := t.queue.filter (fun x => x.addr != q.addr) }
        match lookup u.contexts q.ctx with
        | none => u
        | some c =>
          match placeOn u (diesOf u c) q.record with
          | some k => { countMoved u cluster k with queue := u.queue ++ [{ q with cluster := k }] }
          | none => settleSailing (endAbnormal u q.ctx c.admitted q.record q.joinLink 3 0) q.ctx) s

/-- A core changed. -/
def onCore (s : State) (g : Nat) (f : Core → Core) : State := { s with cores := put s.cores g (f (coreOf s g)) }

/-- A core is retired and reported; it takes part in no flip (R220, R361). -/
def retireCore (s : State) (g : Nat) : State :=
  moveQueued { onCore s g (fun c => { c with retired := true, flipWanted := false }) with msix := 17 :: s.msix, reports := .core g :: s.reports } (g / 8)

/-- An uncorrectable error met in a 4 KiB block of a store of a core: a second within 2^30 clocks retires the core (R220); so does a second read of
the same unit, since it acts as an uncorrectable read (log 125). -/
def noteError (s : State) (g block : Nat) : State :=
  let again := (coreOf s g).errors.any (fun e => e.1 == block && decide (s.clock - e.2 ≤ 2 ^ 30))
  let t := onCore s g (fun c => { c with errors := (block, s.clock) :: c.errors.filter (fun e => e.1 != block) })
  if again && !(coreOf s g).retired then retireCore t g else t

/-- Every member of a deck is killed in the same clock (R218, R255), one that the bank transfer engine holds in its image too. -/
def killMembers (s : State) (deck : Nat) (e : CrewEnd) : State :=
  let kill (w : Crew) : Crew := { w with state := .draining, ending := some e }
  { s with
    crews := s.crews.map (fun x => if x.2.deck = deck then (x.1, kill x.2) else x)
    saved := s.saved.map (fun x => if x.2.crew.deck = deck && x.2.home.isSome then (x.1, { x.2 with crew := kill x.2.crew }) else x) }

/-- The deck of a bank's crew is killed; counted once at the core of the error. -/
def killDeck (s : State) (bk : Nat) : State :=
  match lookup s.crews bk with
  | none => s
  | some w => if w.ending = some .killed then s else killMembers (countCore s (bk % 1024) 0x14 1) w.deck .killed

/-- An access of a crew reads a failed unit of a store (R218): the owner's deck is killed; a reader of that deck with it. -/
def meetFailed (s : State) (reader : Nat) (place : Nat) : State × Fail :=
  let k := placeBank place
  let sameDeck := match lookup s.crews k with
    | some w => decide (reader ∈ deckMembers s w)
    | none => reader == k
  (noteError (killDeck s k) (k % 1024) (k / 1024 * 1024 + placeOffset place / 4096), if sameDeck then .killed else .ecc)

end Sys2Proof.Machine
end

