-- ==== Sys2Proof/Machine/Stores.lean ====
section
/-! DEFINITION. Reads and writes at translated spots, with the errors they meet (R217, R218, R296, R298), what a later operation on a tile or an
accumulator sees of an outstanding one (R203, R226), and what each tile, matrix and accumulator operation does to its data (R229, R230, R234 to R238). -/

namespace Sys2Proof.Machine

/-! ### Spots -/

/-- The page of a local access: plain, cached nowhere. -/
def localPage : Page := { frame := 0, key := none, collective := none, policy := 0, shadowed := false }

/-- The spots of `n` bytes from a local address (R138); none outside every region. -/
def localSpots (s : State) (bk a n : Nat) : Option (List Spot) :=
  (localPlaces s bk a n).map (fun l => l.map (fun p => { phys := p, place := some p, page := localPage }))

/-! ### Deeds -/

/-- What an access does at its location. -/
inductive Deed where
  | load
  | store (v : Nat)
  | update (g : Nat → Option Nat)

/-- Whether a deed writes. -/
def Deed.writes : Deed → Bool
  | .load => false
  | _ => true

/-- What a deed wants of its page (R282). -/
def Deed.want : Deed → Want
  | .load => .read
  | _ => .write

/-- Whether a deed is an atomic. -/
def Deed.atomic : Deed → Bool
  | .update _ => true
  | _ => false

/-! ### Reads and writes at spots -/

/-- Accesses to the on-chip window that reach no store are counted at its core (R202), retired or not. -/
def countReserved (s : State) (l : List Spot) : State :=
  match l.find? (fun x => x.place.isNone) with
  | some x => count s 3 (windowCore x.phys) 0x12 1
  | none => s

/-- The first spot, with its index, whose place is poisoned. -/
def firstFailed (s : State) (l : List Spot) : Option (Nat × Nat) :=
  ((List.range l.length).zip l).findSome? (fun x => match x.2.place with
    | some p => if unitPoisoned s p then some (x.1, p) else none
    | none => none)

/-- What a read of places meets (R217, R218, R295, R296): the failing byte's index and why. -/
def meetRead (s : State) (bk : Nat) (l : List Spot) : State × Option (Nat × Fail) :=
  let t := meet s (l.filterMap (·.place))
  match firstFailed t l with
  | none => (t, none)
  | some (i, p) =>
    if inStore p then
      let r := meetFailed t bk p
      (r.1, some (i, r.2))
    else (countController t p 0x84 1, some (i, .poison))

/-- The cells that bytes laid over spots write, under one key. -/
def cellsUnder (l : List Spot) (bytes : List Byte) (key : Option Nat) : List (Nat × Byte) :=
  (l.zip bytes).filterMap (fun x => if x.1.page.key = key then x.1.place.map (fun p => (p, x.2)) else none)

/-- The spots of cells under a key. -/
def cellSpots (key : Option Nat) (l : List (Nat × Byte)) : List Spot :=
  l.map (fun c => { phys := c.1, place := some c.1, page := { localPage with key := key } })

/-- The keys of the mappings of spots. -/
def keysOf (l : List Spot) : List (Option Nat) := (l.map (fun x => x.page.key)).eraseDups

/-- A write performed at spots. -/
def writeSpots (s : State) (l : List Spot) (bytes : List Byte) : State :=
  (keysOf l).foldl (fun t k => write t k (cellsUnder l bytes k)) s

/-- The bytes that a read of spots finds, each seen as `view` gives it: none where a unit is failed or a tag does not match. A failed unit of a store
kills its owner (R218); a poisoned sector is counted (R299). -/
def readBytes (view : State → Nat → Option Nat → Option Byte) (s : State) (bk : Nat) (l : List Spot) : State × List (Option Byte) :=
  let ps := l.filterMap (·.place)
  let t := meet s ps
  let bytes := l.map (fun x => match x.place with
    | none => some 0#8
    | some p => if unitPoisoned t p then none else view t p x.page.key)
  let bad := ps.filter (unitPoisoned t)
  let t1 := ((bad.filter (fun p => !inStore p)).map (· / 64)).eraseDups.foldl (fun u q => countController u (q * 64) 0x84 1) t
  let t2 := ((bad.filter inStore).map (· / 8)).eraseDups.foldl (fun u q => (meetFailed u bk (q * 8)).1) t1
  let t3 := (keysOf l).foldl (fun u k =>
    tagFailures u (((l.filter (fun x => x.page.key == k)).filterMap (·.place)).filter (fun p => !inStore p && !unitPoisoned t p)) k) t2
  (countReserved t3 l, bytes)

/-! ### Operations on one tile or accumulator (R203, R226) -/

/-- Whether an on-chip place lies in the tile file or the accumulators. -/
def inTileFile (p : Nat) : Bool := inStore p && 0x100000 ≤ placeOffset p

/-- The offset of a tile in a bank's region (R202). -/
def tileOffset (t : Nat) : Nat := 0x100000 + 0x4000 * t
/-- The offset of an accumulator. -/
def accOffset (a : Nat) : Nat := 0x200000 + 0x8000 * a

/-- The bytes of a row of A's tile, and of B's, in a matrix product. -/
def productRows (n k : Nat) (fb : Word) (density : Option Nat) : Nat × Nat :=
  ((match density with | some d => k * d / 8 | none => k) * packedWidth (fbFA fb) (fbI4A fb) / 8, n * packedWidth (fbFB fb) (fbI4B fb) / 8)

/-- The ranges of the tile file and the accumulators that an operation reads, as offsets and sizes. -/
def EngineOp.ownReads (op : EngineOp) : List (Nat × Nat) :=
  match op with
  | .tileStore t rb rows _ => [(tileOffset t, rows.length * rb)]
  | .mma acc a b m n k fb density =>
    let r := productRows n k fb density
    [(tileOffset a, m * r.1), (tileOffset b, k * r.2), (tileOffset (a + 1), if density.isSome then 2 * (m * k / 8) else 0), (accOffset acc, 4 * (m * n))]
  | .accStore a _ n => [(accOffset a, 4 * n)]
  | .accConvert a _ m n _ => [(accOffset a, 4 * (m * n))]
  | .accMove _ a => [(accOffset a, 0x8000)]
  | _ => []

/-- The ranges of the tile file and the accumulators that it writes. -/
def EngineOp.ownWrites (op : EngineOp) : List (Nat × Nat) :=
  match op with
  | .tzero t => [(tileOffset t, 0x4000)]
  | .tileLoad t rb rows _ => [(tileOffset t, rows.length * rb)]
  | .mma acc _ _ m n _ _ _ => [(accOffset acc, 4 * (m * n))]
  | .accz a _ => [(accOffset a, 0x8000)]
  | .accLoad a _ n => [(accOffset a, 4 * n)]
  | .accMove a b => if a = b then [] else [(accOffset a, 0x8000)]
  | _ => []

/-- Whether an offset lies in one of some ranges. -/
def inRanges (l : List (Nat × Nat)) (o : Nat) : Bool := l.any (fun x => decide (x.1 ≤ o) && decide (o < x.1 + x.2))

/-- What a write of places of the tile file by operation `q` leaves of an outstanding operation `id` of their bank: a reader keeps, or does not keep,
the bytes as they are before the write, unit by unit (R203, R226); a writer that issued earlier no longer writes there, a copy command of the crew
among them (R226). Two operations of the matrix unit act in issue order and leave each other alone. -/
def Engine.superseded (e : Engine) (s : State) (id q : Nat) (matrix : Bool) (ps : List Nat) : Engine :=
  let mine := ps.filter (fun p => placeBank p == e.bank)
  if id = q || (matrix && e.op.matrix) then e
  else
    { e with
      kept := mine.foldl (fun t p =>
        if inRanges e.op.ownReads (placeOffset p) && (lookup t p).isNone && Config.choice s.tick id (p / 16) then put t p (byteAt s p) else t) e.kept
      lost := if id < q then (mine.filter (fun p => e.op.isCopy || inRanges e.op.ownWrites (placeOffset p))) ++ e.lost else e.lost }

/-- A write of places by operation `q`, or by a window access that issues now, is about to be made: what it leaves of the outstanding ones. -/
def supersede (s : State) (q : Nat) (ps : List Nat) : State :=
  let mine := ps.filter inTileFile
  let matrix := match lookup s.engines q with | some e => e.op.matrix | none => false
  if mine.isEmpty then s else { s with engines := s.engines.map (fun x => (x.1, x.2.superseded s x.1 q matrix mine)) }

/-! ### Writes of an engine -/

/-- The places of failed bytes become poisoned units or sectors (R296). -/
def poisonPlaces (s : State) (l : List Nat) : State :=
  let t := ((l.filter inStore).map (· / 8)).eraseDups.foldl (fun u q => poisonUnit u (placeBank (q * 8)) (placeOffset (q * 8) / 8)) s
  ((l.filter (fun p => !inStore p)).map (· / 64)).eraseDups.foldl poisonSector t

/-- Whether the unit of a store place has an error or a poison mark. -/
def unitMarked (s : State) (p : Nat) : Bool :=
  (lookup (bankOf s (placeBank p)).latent (placeOffset p / 8)).isSome || unitPoisoned s p

/-- Operation `q` writes bytes at spots, but for the places that it has lost: a partial write of a failed unit of a store kills its owner and writes
nothing there (R217), and the destination of a failed source is poisoned (R296). -/
def writeBytes (s0 : State) (bk q : Nat) (lost : List Nat) (l0 : List (Spot × Option Byte)) : State :=
  let l := if lost.isEmpty then l0 else l0.filter (fun x => match x.1.place with | some p => !decide (p ∈ lost) | none => true)
  let ps := l.filterMap (fun x => x.1.place)
  let s := supersede s0 q ps
  let partials := ps.filter (fun p => inStore p && unitMarked s p && !covers ps 8 p)
  let t := meet s partials
  let bad := (partials.filter (unitPoisoned t)).map (· / 8) |>.eraseDups
  let t1 := bad.foldl (fun u q => (meetFailed u bk (q * 8)).1) t
  let ok := l.filter (fun x => match x.1.place with | some p => !(inStore p && decide (p / 8 ∈ bad)) | none => true)
  let good := ok.filterMap (fun x => x.2.map (fun b => (x.1, b)))
  let t2 := writeSpots (countReserved t1 (l.map (·.1))) (good.map (·.1)) (good.map (·.2))
  poisonPlaces t2 (ok.filterMap (fun x => if x.2.isNone then x.1.place else none))

/-- A write by a fibre or an engine through the window, or to memory: it issues now. -/
def engineWrite (s : State) (bk : Nat) (l : List (Spot × Option Byte)) : State := writeBytes s bk s.nextSerial [] l

/-- The spots of `n` bytes of a bank's region from an offset. -/
def bankSpots (bk off n : Nat) : List Spot :=
  (List.range n).map (fun i => { phys := 0, place := some (bankPlace bk (off + i)), page := localPage })

/-- Whether every byte was read. -/
def allRead (l : List (Option Byte)) : Bool := l.all (·.isSome)

/-- The little-endian number of bytes that were read. -/
def readNumber (l : List (Option Byte)) : Nat := leNat (l.map (fun b => b.getD 0#8))

/-! ### Ranges that an engine translates -/

/-- A failed translation for a whole transfer: the first failure that is not resolvable, else the first one (R187, R230). -/
def firstFailure (l : List (Except (Word × Fail) (List Spot))) : Option (Word × Fail) :=
  let fails := l.filterMap (fun x => match x with | .error y => some y | .ok _ => none)
  match fails.find? (fun y => match y.2 with | .resolvable _ _ => false | _ => true) with
  | some y => some y
  | none => fails.head?

/-- The spots of parts that all translate. -/
def spotsOf (l : List (Except (Word × Fail) (List Spot))) : List Spot :=
  l.flatMap (fun x => match x with | .ok y => y | .error _ => [])

/-- A page with CR = 1 refuses an engine's write (R412). -/
def refuseCollective (w : Want) (x : Except (Word × Fail) (List Spot)) (v : Word) : Except (Word × Fail) (List Spot) :=
  match x with
  | .error y => .error y
  | .ok l =>
    if w = .write then
      match (List.range l.length).find? (fun i => match l[i]? with | some y => y.page.collective.isSome | none => false) with
      | some i => .error (v + BitVec.ofNat 64 i, .permit)
      | none => .ok l
    else .ok l

/-- The spots of `n` bytes for an engine's access. -/
def engineSpots (s : State) (env : Env) (v : Word) (n : Nat) (w : Want) : Except (Word × Fail) (List Spot) :=
  refuseCollective w (spots s env v n w true) v

/-- The pages of the spots of a range, by virtual address / 2^19. -/
def pagesOf (v : Word) (l : List Spot) : Tab Page :=
  (List.range ((v.toNat % 2 ^ 19 + l.length - 1) / 2 ^ 19 + 1)).foldl
    (fun t k => match l[if k = 0 then 0 else k * 2 ^ 19 - v.toNat % 2 ^ 19]? with
      | some x => put t ((v + BitVec.ofNat 64 (if k = 0 then 0 else k * 2 ^ 19 - v.toNat % 2 ^ 19)).toNat / 2 ^ 19) x.page
      | none => t) []

/-- The spots of a range by the translations made at an operation's issue. -/
def Engine.spots (e : Engine) (s : State) (v : Word) (n : Nat) : List Spot :=
  (List.range n).map (fun i =>
    let a := (v + BitVec.ofNat 64 i).toNat
    match lookup e.pages (a / 2 ^ 19) with
    | some y => { phys := y.frame + a % 2 ^ 19, place := placeOf s (y.frame + a % 2 ^ 19), page := y }
    | none => { phys := 0, place := none, page := localPage })

/-- Whether a PUBLISH of another crew is exchanging the pair of frames of a physical address. -/
def publishing (s : State) (serial p : Nat) : Bool :=
  s.engines.any (fun x => match x.2.op with
    | .publish v n _ => x.2.serial != serial &&
      (match x.2.env s with
        | some env => (List.range (n.toNat / 2 ^ 19)).any (fun k => match translate s env (v + BitVec.ofNat 64 (k * 2 ^ 19)) .write true with
          | .ok y => y.frame / 2 ^ 20 == p / 2 ^ 20
          | .error _ => false)
        | none => false)
    | _ => false)

/-- The same address in the other frame of its pair (R283). -/
def twinFrame (p : Nat) : Nat := if p / 2 ^ 19 % 2 = 0 then p + 2 ^ 19 else p - 2 ^ 19

/-- The spots of a crew's engine write: shadow bytes that another crew's PUBLISH is exchanging land in either frame, byte by byte (R247). -/
def splitShadow (s : State) (serial : Nat) (l : List Spot) : List Spot :=
  l.map (fun x =>
    if x.page.shadowed && publishing s serial x.phys && Config.choice s.tick serial x.phys then
      { x with phys := twinFrame x.phys, place := placeOf s (twinFrame x.phys) }
    else x)

/-! ### What an operation does to its data -/

/-- The bytes that a tile, matrix or accumulator operation reads: those it keeps from before a later write, and else those that are there. -/
def unitRead (s : State) (e : Engine) (l : List Spot) : State × List (Option Byte) :=
  let r := readBytes viewByte s e.bank l
  if e.kept.isEmpty then r
  else (r.1, (l.zip r.2).map (fun x => match x.1.place with | some p => (match lookup e.kept p with | some b => some b | none => x.2) | none => x.2))

/-- Bytes written by such an operation. -/
def unitWrite (s : State) (id : Nat) (e : Engine) (l : List (Spot × Option Byte)) : State := writeBytes s e.bank id e.lost l

/-- A move of bytes from spots to spots, in order. -/
def unitMove (s : State) (id : Nat) (e : Engine) (src dst : List Spot) : State :=
  let r := unitRead s e src
  unitWrite r.1 id e (dst.zip r.2)

/-- The spots of a local range (R138). -/
def localSpotsD (s : State) (bk a n : Nat) : List Spot := (localSpots s bk a n).getD []

/-- The counts of peer accesses that an engine's use of a local range makes (R271). -/
def countPeerRange (s : State) (bk a : Nat) (d : Deed) : State :=
  if isPeer a then countCluster s (bk % 1024 / 8) (match d with | .load => 0x04 | _ => 0x05) 1 else s

/-- Scales read as stored halfwords. -/
def readScales (s : State) (e : Engine) (a n : Nat) : State × List (Option Byte) :=
  if n = 0 then (s, []) else unitRead (countPeerRange s e.bank a .load) e (localSpotsD s e.bank a (2 * n))

/-- A halfword of bytes that were read. -/
def halfAt (l : Array Byte) (i : Nat) : Nat := (l[2 * i]?.getD 0#8).toNat + 256 * (l[2 * i + 1]?.getD 0#8).toNat

/-- The bytes that were read. -/
def bytesRead (l : List (Option Byte)) : Array Byte := (l.map (fun b => b.getD 0#8)).toArray

/-- A matrix product carried out (R234 to R236): nothing of it is written where a byte of a source has failed (R218). -/
def runProduct (s : State) (id : Nat) (e : Engine) (acc a b m n k : Nat) (fb : Word) (density : Option Nat) : State × Fl :=
  let rows := productRows n k fb density
  let ra := unitRead s e (bankSpots e.bank (tileOffset a) (m * rows.1))
  let rb := unitRead ra.1 e (bankSpots e.bank (tileOffset b) (k * rows.2))
  let rm := unitRead rb.1 e (bankSpots e.bank (tileOffset (a + 1)) (if density.isSome then 2 * (m * k / 8) else 0))
  let rsa := readScales rm.1 e (fbSADA fb) (if fbSCA fb then m * (k / fbBLA fb) else 0)
  let rsb := readScales rsa.1 e (fbSADB fb) (if fbSCB fb then k / fbBLB fb * n else 0)
  let rc := unitRead rsb.1 e (bankSpots e.bank (accOffset acc) (4 * (m * n)))
  if !([ra.2, rb.2, rm.2, rsa.2, rsb.2, rc.2].all allRead) then (rc.1, 0#6)
  else
    let sa := bytesRead rsa.2
    let sb := bytesRead rsb.2
    let p : Product := { m := m, n := n, k := k, fb := fb, density := density }
    let r := p.run { bytes := bytesRead ra.2, rowBytes := rows.1, code := fbFA fb, i4 := fbI4A fb }
      { bytes := bytesRead rb.2, rowBytes := rows.2, code := fbFB fb, i4 := fbI4B fb } (bytesRead rm.2)
      (fun i g => halfAt sa (i * (k / fbBLA fb) + g)) (fun g j => halfAt sb (g * n + j)) (bytesRead rc.2)
    (unitWrite rc.1 id e ((bankSpots e.bank (accOffset acc) (4 * (m * n))).zip ((r.1.flatMap (leBytes 4)).map some)), r.2)

/-- A conversion carried out (R238). -/
def runConvert (s : State) (id : Nat) (e : Engine) (acc addr n : Nat) (fb : Word) : State × Fl :=
  let r := unitRead s e (bankSpots e.bank (accOffset acc) (4 * n))
  if !allRead r.2 then (r.1, 0#6)
  else
    let a := bytesRead r.2
    let o := convertAcc fb ((List.range n).map (fun i => bitsAt a (32 * i) 32))
    let put (t : State) (v : Nat) (l : List Byte) : State :=
      if l.isEmpty then t
      else unitWrite (countPeerRange t e.bank v (.store 0)) id e ((localSpotsD t e.bank v l.length).zip (l.map some))
    (put (put r.1 addr o.1) (fbSADA fb) o.2.1, o.2.2)

/-- The spots of the rows of a tile transfer. -/
def rowSpots (s : State) (e : Engine) (rows : List Nat) (rb : Nat) (loc : Bool) : List Spot :=
  rows.flatMap (fun a => if loc then localSpotsD s e.bank a rb else e.spots s (BitVec.ofNat 64 a) rb)

/-- A tile transfer carried out, by the translations of its issue. -/
def runTile (s : State) (id : Nat) (e : Engine) (w : Want) (t rb : Nat) (rows : List Nat) (loc : Bool) : State :=
  let l := rowSpots s e rows rb loc
  let mine := bankSpots e.bank (tileOffset t) (rows.length * rb)
  let s1 := if loc then rows.foldl (fun u a => countPeerRange u e.bank a (if w = .read then .load else .store 0)) s
    else holdSpots s (e.bank % 1024 / 8) l (w == .write)
  if w = .read then unitMove s1 id e l mine else unitMove s1 id e mine (splitShadow s1 e.serial l)

/-- What a tile, matrix or accumulator operation does to its data, and the flags that it raises. -/
def Engine.effect (e : Engine) (s : State) (id : Nat) : State × Fl :=
  let bk := e.bank
  match e.op with
  | .tzero t => (unitWrite s id e ((bankSpots bk (tileOffset t) 0x4000).map (fun x => (x, some 0#8))), 0#6)
  | .tileLoad t rb rows loc => (runTile s id e .read t rb rows loc, 0#6)
  | .tileStore t rb rows loc => (runTile s id e .write t rb rows loc, 0#6)
  | .mma acc a b m n k fb density => runProduct s id e acc a b m n k fb density
  | .accz acc v =>
    let word := leBytes 4 v.toNat
    (unitWrite s id e ((bankSpots bk (accOffset acc) 0x8000).zip ((List.range 0x8000).map (fun i => word[i % 4]?))), 0#6)
  | .accLoad acc addr n =>
    (unitMove (countPeerRange s bk addr .load) id e (localSpotsD s bk addr (4 * n)) (bankSpots bk (accOffset acc) (4 * n)), 0#6)
  | .accStore acc addr n =>
    (unitMove (countPeerRange s bk addr (.store 0)) id e (bankSpots bk (accOffset acc) (4 * n)) (localSpotsD s bk addr (4 * n)), 0#6)
  | .accConvert acc addr m n fb => runConvert s id e acc addr (m * n) fb
  | .accMove d x => (if d = x then s else unitMove s id e (bankSpots bk (accOffset x) 0x8000) (bankSpots bk (accOffset d) 0x8000), 0#6)
  | _ => (s, 0#6)

/-! ### What a window access sees -/

/-- The outstanding operations on tiles and accumulators, with the states that they would leave one after the other. -/
def windowRuns (s : State) : List (Nat × Engine × State) :=
  ((s.engines.filter (fun x => x.2.op.matrix || x.2.op.tilePath)).foldl
    (fun (acc : State × List (Nat × Engine × State)) x =>
      let t := (x.2.effect acc.1 x.1).1
      (t, acc.2 ++ [(x.1, x.2, t)])) (s, [])).2

/-- The byte of a tile or accumulator through the window: as before or as after an outstanding operation that writes it, chosen for each aligned
16-byte unit (R203). -/
def windowByte (s : State) (p : Nat) : Byte :=
  let runs := (windowRuns s).filter (fun x => x.2.1.bank == placeBank p && inRanges x.2.1.op.ownWrites (placeOffset p))
  runs.foldl (fun b x => if Config.choice s.tick x.1 (p / 16) then byteAt x.2.2 p else b) (byteAt s p)

/-- Offsets of a save area whose content no rule states (R429): the crew header, the reserved parts of the area and of a berth image, and those of
its fibre records. -/
def unstated (o : Nat) : Bool :=
  let b := (o - 0x1000) % 0xA000
  let r := b % 0x400
  o < 0x1000 || (0xA1000 ≤ o && o < 0xB0000) || 0x1F0000 ≤ o ||
    (o < 0xA1000 && ((0x1020 ≤ b && b < 0x2000) || (b < 0x1000 && ((0x22A ≤ r && r < 0x230) || (0x270 ≤ r && r < 0x280) || 0x300 ≤ r))))

/-- Whether an offset lies in the slot of a trap frame. -/
def inFrameSlot (o : Nat) : Bool :=
  let b := (o - 0x1000) % 0xA000
  0x1000 ≤ o && o < 0xA1000 && b < 0x1000 && 0x280 ≤ b % 0x400 && b % 0x400 < 0x300

/-- Whether no rule states what a load of a place reads (R429): an unstated part of a save area in use, or the area of a running crew beyond what
has been written back (R33) and its trap frames. -/
def openByte (s : State) (p : Nat) : Bool :=
  inDevice p &&
    (s.crews.any (fun w => match areaOffset w.2.frames p with
      | some o => unstated o || (!w.2.written && !w.2.saved && !inFrameSlot o)
      | none => false) ||
    s.saved.any (fun x => match areaOffset x.2.crew.frames p with | some o => unstated o | none => false))

/-- A byte as a fibre's load or an engine's read through memory or the window sees it. -/
def seenByte (s : State) (p : Nat) (key : Option Nat) : Option Byte :=
  if inTileFile p then some (windowByte s p)
  else if openByte s p then some (Config.freeByte s.tick p)
  else viewByte s p key

/-- The bytes that an engine reads. -/
def engineRead (s : State) (bk : Nat) (l : List Spot) : State × List (Option Byte) := readBytes seenByte s bk l

end Sys2Proof.Machine
end

