-- ==== Sys2Proof/Machine/Access.lean ====
section
/-! DEFINITION. Ordinary accesses of a fibre (R300): what delays one, how it is performed, and parking (R186, R287). -/

namespace Sys2Proof.Machine

/-! ### Delays -/

/-- Why an access must wait before it issues: speculation (R311), a swap block being copied (R291), or an owner that still drains after a
kill (R218). -/
def accessDelay (s : State) (fk : Nat) (f : Fibre) (lane : Bool) (d : Deed) (count : Nat) (l : List (Except (Word × Fail) (List Spot))) :
    Option Stall :=
  let all := l.flatMap (fun x => match x with | .ok y => y | .error _ => [])
  let faults := l.any (fun x => match x with | .error (_, .resolvable _ _) => true | _ => false)
  match (if f.speculates lane then f.fence else none) with
  | some x =>
    if d.atomic || faults || all.any (fun y => y.page.policy == 1 || inHost y.phys || (d.writes && y.page.collective.isSome)) then
      some .fencePending
    else if d.writes && 16 < x.stores.length + count then some (.specLimit count)
    else none
  | none =>
    match all.find? (fun y => blockBusy s fk (y.phys / 4096)) with
    | some y => some (.copying (y.phys / 4096))
    | none => (all.filterMap (·.place)).findSome? (fun p => if ownerDrains s fk p then some (.ownerDrains p) else none)

/-- The cluster of a fibre. -/
def clusterOfFibre (fk : Nat) : Nat := coreOfFibre fk / 8

/-! ### Performing one access -/

/-- The byte that a fibre's own held stores give a place (R311). -/
def heldByte (f : Fibre) (lane : Bool) (p : Nat) : Option Byte :=
  match (if f.speculates lane then f.fence else none) with
  | none => none
  | some x => ((x.stores.flatMap (·.cells)).reverse.find? (fun c => c.1 == p)).map (·.2)

/-- The byte that a load of a fibre takes from a spot: none where a tag fails. -/
def spotByte (s : State) (f : Fibre) (lane : Bool) (x : Spot) : Option Byte :=
  match x.place with
  | none => some 0#8
  | some p => match heldByte f lane p with | some b => some b | none => seenByte s p x.page.key

/-- A speculating fibre records the sectors that it reads (R311). -/
def recordReads (s : State) (fk : Nat) (lane : Bool) (l : List Spot) : State :=
  onFibre s fk (fun f => if !f.speculates lane then f else { f with
    fence := f.fence.map (fun x => { x with reads := distinct (x.reads ++ (l.filterMap (·.place)).map (· / 64)) }) })

/-- A load by fibre `fk` at `addr`: the value, or the failing byte's address and why. -/
def loadOne (s : State) (fk : Nat) (f : Fibre) (lane : Bool) (addr : Word) (l : List Spot) : State × Except (Word × Fail) Nat :=
  let r := meetRead (countReserved s l) (bankOfFibre fk) l
  match r.2 with
  | some (i, x) => (r.1, .error (addr + BitVec.ofNat 64 i, x))
  | none =>
    let bytes := l.map (spotByte r.1 f lane)
    match (List.range l.length).find? (fun i => (bytes.getD i none).isNone) with
    | some i =>
      let x := l.getD i { phys := 0, place := none, page := localPage }
      (tagFailures r.1 (x.place.toList) x.page.key, .error (addr + BitVec.ofNat 64 i, .poison))
    | none => (recordReads (holdSpots r.1 (clusterOfFibre fk) l false) fk lane l, .ok (leNat (bytes.map (fun b => b.getD 0#8))))

/-- Bytes written at spots by a fibre: a window write goes past the operations outstanding on its tile or accumulator (R203, R226). -/
def placeBytes (s : State) (fk : Nat) (l : List Spot) (bytes : List Byte) : State :=
  let t := holdSpots s (clusterOfFibre fk) l true
  writeSpots (supersede t t.nextSerial (l.filterMap (·.place))) l bytes

/-- Cells written by a fibre, as one store. -/
def placeCells (s : State) (fk : Nat) (key : Option Nat) (l : List (Nat × Byte)) : State := placeBytes s fk (cellSpots key l) (l.map (·.2))

/-- A store by fibre `fk`: held while it speculates (R311), else performed. A partial write to an 8-byte unit of a store reads
the unit first (R217). -/
def storeOne (s : State) (fk : Nat) (f : Fibre) (lane : Bool) (addr : Word) (l : List Spot) (bytes : List Byte) : State × Except (Word × Fail) Nat :=
  let s0 := countReserved s l
  match (if f.speculates lane then f.fence else none) with
  | some _ =>
    (onFibre s0 fk (fun f => { f with
      fence := f.fence.map (fun x => { x with
        stores := x.stores ++ (keysOf l).map (fun k => { cells := cellsUnder l bytes k, key := k }) }) }), .ok 0)
  | none =>
    let ps := l.filterMap (·.place)
    let partials := l.filter (fun x => match x.place with
      | some p => inStore p && !covers ps 8 p
      | none => false)
    let r := meetRead s0 (bankOfFibre fk) partials
    match r.2 with
    | some (_, x) => (r.1, .error (addr, x))
    | none => (placeBytes r.1 fk l bytes, .ok 0)

/-- One access of fibre `fk`: the value read, or why it fails. -/
def performOne (s : State) (fk : Nat) (lane : Bool) (d : Deed) (addr : Word) (l : List Spot) : State × Except (Word × Fail) Nat :=
  match lookup s.fibres fk with
  | none => (s, .ok 0)
  | some f =>
    match d with
    | .load => loadOne s fk f lane addr l
    | .store v => storeOne s fk f lane addr l (leBytes l.length v)
    | .update g =>
      match loadOne s fk f lane addr l with
      | (t, .error x) => (t, .error x)
      | (t, .ok m) =>
        match g m with
        | none => (t, .ok m)
        | some v => (placeBytes t fk l (leBytes l.length v), .ok m)

/-! ### Collective regions (R412) -/

/-- How a store to a collective region is refused, or the contribution that it becomes. -/
def collectiveStore (fk : Nat) (w : Crew) (c : Context) (addr : Word) (n : Nat) (d : Deed) (i : Nat) :
    Except Cause FabricOp :=
  match d, controlFields (patternOf c i).control with
  | .store v, some fields =>
    if reduceWidth fields.2.1 != n || addr.toNat % n != 0 then .error .collectiveStore
    else
      let g := gridOf c
      match patternValues g (patternOf c i) with
      | none => .error .fabricPattern
      | some values =>
        if !isMember values g.coord || 4096 < contributors g (patternOf c i) values then .error .fabricPattern
        else .ok (collectiveOp fk w c i fields addr (leBytes n v))
  | _, _ => .error .collectiveStore

/-- The pattern of the collective region that an access writes, if any of its pages is one. -/
def collectiveOf (d : Deed) (l : List Spot) : Option Nat :=
  if d.writes then l.findSome? (fun x => x.page.collective) else none

/-! ### Parking (R186, R187, R287) -/

/-- The cause of a failure that is not resolvable. -/
def Fail.cause : Fail → Cause
  | .translate => .memTranslate
  | .permit => .memPermit
  | .poison => .memPoison
  | .resolvable _ _ => .memTranslate
  | .ecc => .scratchEcc
  | .killed => .scratchEcc

/-- Whether a failure is resolvable, given the request that a replay follows: an entry of the same page, or the same entry, that
is still invalid is not (R288). -/
def Fail.waits (x : Fail) (addr : Word) (after : Option (Nat × Word)) : Bool :=
  match x with
  | .resolvable level _ =>
    match after with
    | none => true
    | some (l, v) => !(addr.toNat / 2 ^ 19 == v.toNat / 2 ^ 19 || (l == level && addr.toNat / pageSize level == v.toNat / pageSize level))
  | _ => false

/-- The access bits of a request (R287). -/
def accessBits : Want → Nat
  | .read => 1
  | .write => 2
  | .fetch => 4

/-- A die (R360): disabled ring, no request where nothing has happened to it. -/
def dieState (s : State) (d : Nat) : Die :=
  lookupD s.dies d { prqBase := 0, prqTail := 0, prqHead := 0, requests := [], nextRequest := 0 }

/-- A request for an invalid entry of a context, merged with one for the same entry (R287): the new state and its number. -/
def pageRequest (s : State) (die n : Nat) (addr : Word) (level kind : Nat) (w : Want) : State × Nat :=
  let d := dieState s die
  let gen := match lookup s.contexts n with | some c => c.gen | none => 0#16
  let base := BitVec.ofNat 64 (addr.toNat / pageSize level * pageSize level)
  match d.requests.find? (fun r => r.ctx == n && r.gen == gen && r.level == level && r.addr == base) with
  | some r =>
    let merge (q : Request) : Request := if q.number = r.number ∧ q.posted.isNone then { q with access := q.access ||| accessBits w } else q
    (countDie { s with dies := put s.dies die { d with requests := d.requests.map merge } } die 0x04 1, r.number)
  | none =>
    let free (k : Nat) : Bool := !d.requests.any (fun r => r.number == k)
    let number := (((List.range (d.requests.length + 1)).map (fun k => (d.nextRequest + k) % 65536)).find? free).getD 0
    let r : Request := { addr := base, ctx := n, gen := gen, number := number, kind := kind, access := accessBits w, level := level, posted := none }
    ({ s with dies := put s.dies die { d with requests := d.requests ++ [r], nextRequest := (number + 1) % 65536 } }, number)

/-- The current fibre is parked on the invalid entry that its access met at `addr` (R186). -/
def park (s : State) (lane : Bool) (mask : Mask) (first addr : Word) (level kind : Nat) (w : Want) : State :=
  match lookup s.crews (bankOfFibre s.cur) with
  | none => s
  | some crew =>
    let die := coreOfFibre s.cur / 128
    let r := pageRequest s die crew.ctx addr level kind w
    let parked : Parked :=
      { lane := lane, mask := mask, die := die, request := r.2, outcome := none, first := first, addr := addr, level := level, word := s.latch,
        fetch := w == .fetch }
    switch (onCur (countCore r.1 (coreOfFibre s.cur) 0x0B 1) (fun f => { f with parked := some parked })) s.cur

/-- What an engine that meets a failed translation does (R243, R287, R288, R396): it asks for the page and waits, or the failure stands. -/
def askPage (s : State) (die n : Nat) (asked : Option Asked) (addr : Word) (x : Fail) (w : Want) : State × Except Fail Asked :=
  let ask : State × Except Fail Asked :=
    match x with
    | .resolvable level kind =>
      let r := pageRequest s die n addr level kind w
      (r.1, .ok { die := die, request := r.2, outcome := none, level := level, addr := addr })
    | _ => (s, .error x)
  match asked with
  | none => ask
  | some a =>
    match a.outcome with
    | none => (s, .ok a)
    | some false => (s, .error .translate)
    | some true => if x.waits addr (some (a.level, a.addr)) then ask else (s, .error (match x with | .resolvable .. => .translate | y => y))

/-- Whether an engine waits for a page. -/
def Asked.waiting (a : Option Asked) : Bool := match a with | some x => x.outcome.isNone | none => false

/-- A trap of the scalar stream of the current fibre. -/
def trapScalar (s : State) (c : Cause) (addr : Word) : State := takeTrap s false { cause := c, addr := addr }

/-- A failed access of the scalar stream at the byte `at'`: parked, trapped, or stopped with its killed crew (R117, R186, R191, R218). -/
def scalarFail (s : State) (after : Option (Nat × Word)) (at' : Word) (x : Fail) (w : Want) : State :=
  match x with
  | .killed => s
  | .resolvable level kind =>
    if x.waits at' after then park s false 0#32 at' at' level kind w else trapScalar s .memTranslate at'
  | _ => trapScalar s x.cause at'

end Sys2Proof.Machine
end

