-- ==== Sys2Proof/Machine/Crypto.lean ====
section
/-! DEFINITION. The published algorithms that the spec names: SHA-256 and RSASSA-PSS (R372, R375), RSA-OAEP (R364, R374), AES-256-GCM (R349). -/

namespace Sys2Proof.Machine

/-! ### Bytes and numbers, most significant first -/

/-- The number of big-endian bytes. -/
def beNat (l : List Byte) : Nat := l.foldl (fun n b => n * 256 + b.toNat) 0

/-- The `n` big-endian bytes of a number. -/
def beBytes (n v : Nat) : List Byte := ((List.range n).map (fun k => BitVec.ofNat 8 (v / 256 ^ k))).reverse

/-- A list cut into pieces of `n`; `fuel` bounds their number. -/
def pieces {α : Type} (n : Nat) (fuel : Nat) (l : List α) : List (List α) :=
  match fuel with
  | 0 => []
  | f + 1 => if l.isEmpty then [] else l.take n :: pieces n f (l.drop n)

/-! ### SHA-256 -/

/-- The round constants. -/
def shaK : List Nat :=
  [0x428a2f98, 0x71374491, 0xb5c0fbcf, 0xe9b5dba5, 0x3956c25b, 0x59f111f1, 0x923f82a4, 0xab1c5ed5,
   0xd807aa98, 0x12835b01, 0x243185be, 0x550c7dc3, 0x72be5d74, 0x80deb1fe, 0x9bdc06a7, 0xc19bf174] ++
  [0xe49b69c1, 0xefbe4786, 0x0fc19dc6, 0x240ca1cc, 0x2de92c6f, 0x4a7484aa, 0x5cb0a9dc, 0x76f988da,
   0x983e5152, 0xa831c66d, 0xb00327c8, 0xbf597fc7, 0xc6e00bf3, 0xd5a79147, 0x06ca6351, 0x14292967] ++
  [0x27b70a85, 0x2e1b2138, 0x4d2c6dfc, 0x53380d13, 0x650a7354, 0x766a0abb, 0x81c2c92e, 0x92722c85,
   0xa2bfe8a1, 0xa81a664b, 0xc24b8b70, 0xc76c51a3, 0xd192e819, 0xd6990624, 0xf40e3585, 0x106aa070] ++
  [0x19a4c116, 0x1e376c08, 0x2748774c, 0x34b0bcb5, 0x391c0cb3, 0x4ed8aa4a, 0x5b9cca4f, 0x682e6ff3,
   0x748f82ee, 0x78a5636f, 0x84c87814, 0x8cc70208, 0x90befffa, 0xa4506ceb, 0xbef9a3f7, 0xc67178f2]

/-- The initial digest. -/
def shaInit : List (BitVec 32) :=
  [0x6a09e667#32, 0xbb67ae85#32, 0x3c6ef372#32, 0xa54ff53a#32, 0x510e527f#32, 0x9b05688c#32, 0x1f83d9ab#32, 0x5be0cd19#32]

/-- The message schedule of a block, extended by one word a step. -/
def shaSchedule (w : List (BitVec 32)) : List (BitVec 32) :=
  (List.range 48).foldl
    (fun w i =>
      let at' (k : Nat) : BitVec 32 := w.getD (16 + i - k) 0#32
      let a := at' 15
      let b := at' 2
      let s0 := a.rotateRight 7 ^^^ a.rotateRight 18 ^^^ (a >>> 3)
      let s1 := b.rotateRight 17 ^^^ b.rotateRight 19 ^^^ (b >>> 10)
      w ++ [at' 16 + s0 + at' 7 + s1]) w

/-- One round on the eight working words. -/
def shaRound (v : List (BitVec 32)) (k w : BitVec 32) : List (BitVec 32) :=
  match v with
  | [a, b, c, d, e, f, g, h] =>
    let s1 := e.rotateRight 6 ^^^ e.rotateRight 11 ^^^ e.rotateRight 25
    let ch := (e &&& f) ^^^ (~~~e &&& g)
    let t1 := h + s1 + ch + k + w
    let s0 := a.rotateRight 2 ^^^ a.rotateRight 13 ^^^ a.rotateRight 22
    let maj := (a &&& b) ^^^ (a &&& c) ^^^ (b &&& c)
    [t1 + (s0 + maj), a, b, c, d + t1, e, f, g]
  | _ => v

/-- One block. -/
def shaBlock (h : List (BitVec 32)) (block : List Byte) : List (BitVec 32) :=
  let w := shaSchedule ((pieces 4 16 block).map (fun l => BitVec.ofNat 32 (beNat l)))
  let v := (shaK.zip w).foldl (fun v x => shaRound v (BitVec.ofNat 32 x.1) x.2) h
  (h.zip v).map (fun x => x.1 + x.2)

/-- The SHA-256 digest of a message. -/
def sha256 (m : List Byte) : List Byte :=
  let zeros := (119 - m.length % 64) % 64
  let padded := m ++ [0x80#8] ++ List.replicate zeros 0#8 ++ beBytes 8 (8 * m.length)
  ((pieces 64 (padded.length / 64) padded).foldl shaBlock shaInit).flatMap (fun w => beBytes 4 w.toNat)

/-! ### RSASSA-PSS with SHA-256, a 32-byte salt and exponent 65,537 -/

/-- `b` to the power 65,537 modulo `n`. -/
def rsaPower (b n : Nat) : Nat := ((List.range 16).foldl (fun x _ => x * x % n) (b % n)) * b % n

/-- MGF1 with SHA-256. -/
def mgf1 (seed : List Byte) (n : Nat) : List Byte :=
  ((List.range ((n + 31) / 32)).flatMap (fun i => sha256 (seed ++ beBytes 4 i))).take n

/-- A signature over a message of which `digest` is the SHA-256 digest, under a 3,072-bit modulus. -/
def pssVerify (modulus signature digest : List Byte) : Bool :=
  let n := beNat modulus
  let s := beNat signature
  if n = 0 ∨ n ≤ s then false
  else
    let em := beBytes 384 (rsaPower s n)
    let bits' := Nat.log2 n
    let len := (bits' + 7) / 8
    let body := em.drop (384 - len)
    let db := len - 33
    let masked := body.take db
    let h := (body.drop db).take 32
    let free := 8 * len - bits'
    let plain := (masked.zip (mgf1 h db)).map (fun x => x.1 ^^^ x.2)
    let top := (plain.headD 0#8).toNat % 2 ^ (8 - free)
    let whole := BitVec.ofNat 8 top :: plain.drop 1
    let salt := whole.drop (db - 32)
    beNat (em.take (384 - len)) == 0 && (body.drop (len - 1)) == [0xBC#8] && decide ((masked.headD 0#8).toNat < 2 ^ (8 - free)) &&
      beNat (whole.take (db - 33)) == 0 && whole.getD (db - 33) 0#8 == 1#8 &&
      sha256 (List.replicate 8 0#8 ++ digest ++ salt) == h

/-- `b` to the power `e`, of `k` bits, modulo `n`. -/
def modPower (k b e n : Nat) : Nat :=
  ((List.range k).foldl (fun x i => let y := x * x % n; if Nat.testBit e (k - 1 - i) then y * b % n else y) (1 % n))

/-- Bytes combined by exclusive or. -/
def xorBytes (a b : List Byte) : List Byte := (a.zip b).map (fun x => x.1 ^^^ x.2)

/-- A message of which `digest` is the SHA-256 digest, encoded with a 32-byte salt for a 3,072-bit modulus: 384 bytes. -/
def pssEncode (digest salt : List Byte) : List Byte :=
  let h := sha256 (List.replicate 8 0#8 ++ digest ++ salt)
  let masked := xorBytes (List.replicate 318 0#8 ++ [1#8] ++ salt) (mgf1 h 351)
  ((masked.headD 0#8) &&& 0x7F#8) :: masked.drop 1 ++ h ++ [0xBC#8]

/-- A signature under a 3,072-bit modulus and a private exponent: 384 bytes. -/
def pssSign (modulus exponent : Nat) (digest salt : List Byte) : List Byte := beBytes 384 (modPower 3072 (beNat (pssEncode digest salt)) exponent modulus)

/-! ### RSA-OAEP with SHA-256 and no label -/

/-- The message in a ciphertext of 384 bytes under a 3,072-bit modulus and a private exponent; none where it does not decode. -/
def oaepOpen (modulus exponent : Nat) (cipher : List Byte) : Option (List Byte) :=
  let c := beNat cipher
  if modulus ≤ c then none
  else
    let em := beBytes 384 (modPower 3072 c exponent modulus)
    let masked := em.drop 33
    let seed := xorBytes ((em.drop 1).take 32) (mgf1 masked 32)
    let db := xorBytes masked (mgf1 seed 351)
    match (db.drop 32).dropWhile (· == 0#8) with
    | b :: m => if em.headD 0#8 = 0#8 ∧ b = 1#8 ∧ db.take 32 = sha256 [] then some m else none
    | [] => none

/-! ### AES-256 -/

/-- Multiplication by x in the field of 256 elements. -/
def gfDouble (a : Byte) : Byte := if a.getLsbD 7 then (a <<< 1) ^^^ 0x1B#8 else a <<< 1

/-- Multiplication in that field. -/
def gfMul (a b : Byte) : Byte :=
  ((List.range 8).foldl (fun (x : Byte × Byte) i => (if b.getLsbD i then x.1 ^^^ x.2 else x.1, gfDouble x.2)) (0#8, a)).1

/-- The inverse, 0 for 0: the 254th power. -/
def gfInv (a : Byte) : Byte := (List.range 6).foldl (fun x _ => gfMul (gfMul x x) a) a |> fun x => gfMul x x

/-- The substitution of a byte. -/
def aesSub (a : Byte) : Byte :=
  let b := gfInv a
  b ^^^ b.rotateLeft 1 ^^^ b.rotateLeft 2 ^^^ b.rotateLeft 3 ^^^ b.rotateLeft 4 ^^^ 0x63#8

/-- The 60 words of the key schedule. -/
def aesKeys (key : List Byte) : List (List Byte) :=
  (List.range 52).foldl
    (fun (x : List (List Byte) × Byte) k =>
      let i := k + 8
      let w := x.1.getD (i - 1) []
      let t :=
        if i % 8 = 0 then xorBytes (((w.drop 1) ++ w.take 1).map aesSub) [x.2, 0#8, 0#8, 0#8]
        else if i % 8 = 4 then w.map aesSub else w
      (x.1 ++ [xorBytes (x.1.getD (i - 8) []) t], if i % 8 = 0 then gfDouble x.2 else x.2))
    (pieces 4 8 key, 1#8) |>.1

/-- The rows of a block shifted. -/
def aesShift (b : List Byte) : List Byte := (List.range 16).map (fun i => b.getD ((i + 4 * (i % 4)) % 16) 0#8)

/-- The columns of a block mixed. -/
def aesMix (b : List Byte) : List Byte :=
  (List.range 16).map (fun i =>
    let c := i / 4 * 4
    let at' (k : Nat) : Byte := b.getD (c + (i + k) % 4) 0#8
    gfDouble (at' 0) ^^^ (gfDouble (at' 1) ^^^ at' 1) ^^^ at' 2 ^^^ at' 3)

/-- The round key `r`. -/
def aesRoundKey (keys : List (List Byte)) (r : Nat) : List Byte := ((keys.drop (4 * r)).take 4).flatten

/-- One block of 16 bytes encrypted. -/
def aesBlock (keys : List (List Byte)) (block : List Byte) : List Byte :=
  let b := (List.range 13).foldl
    (fun b r => xorBytes (aesMix (aesShift (b.map aesSub))) (aesRoundKey keys (r + 1))) (xorBytes block (aesRoundKey keys 0))
  xorBytes (aesShift (b.map aesSub)) (aesRoundKey keys 14)

/-! ### GCM -/

/-- Multiplication of GHASH: bit 127 of the number is the first bit. -/
def ghashMul (x y : BitVec 128) : BitVec 128 :=
  ((List.range 128).foldl
    (fun (a : BitVec 128 × BitVec 128) i =>
      (if x.getLsbD (127 - i) then a.1 ^^^ a.2 else a.1,
        if a.2.getLsbD 0 then (a.2 >>> 1) ^^^ (0xE1#128 <<< 120) else a.2 >>> 1)) (0#128, y)).1

/-- GHASH over blocks of 16 bytes, the last padded with zeros. -/
def ghash (h : BitVec 128) (y : BitVec 128) (l : List Byte) : BitVec 128 :=
  (pieces 16 ((l.length + 15) / 16) l).foldl
    (fun y b => ghashMul (y ^^^ BitVec.ofNat 128 (beNat (b ++ List.replicate (16 - b.length) 0#8))) h) y

/-- The key stream of counter `i` under a 96-bit IV. -/
def gcmStream (keys : List (List Byte)) (iv : List Byte) (i : Nat) : List Byte := aesBlock keys (iv ++ beBytes 4 i)

/-- Counter-mode encryption, and decryption. -/
def gcmCrypt (keys : List (List Byte)) (iv : List Byte) (l : List Byte) : List Byte :=
  let b := pieces 16 ((l.length + 15) / 16) l
  ((List.range b.length).zip b).flatMap (fun x => xorBytes x.2 (gcmStream keys iv (x.1 + 2)))

/-- The tag of a ciphertext with its additional data. -/
def gcmTag (keys : List (List Byte)) (iv aad cipher : List Byte) : List Byte :=
  let h := BitVec.ofNat 128 (beNat (aesBlock keys (List.replicate 16 0#8)))
  let y := ghash h (ghash h 0#128 aad) cipher
  let s := ghashMul (y ^^^ BitVec.ofNat 128 (8 * aad.length * 2 ^ 64 + 8 * cipher.length)) h
  xorBytes (beBytes 16 s.toNat) (gcmStream keys iv 1)

/-- AES-256-GCM: the ciphertext and the tag. -/
def gcmSeal (key iv aad plain : List Byte) : List Byte × List Byte :=
  let keys := aesKeys key
  let c := gcmCrypt keys iv plain
  (c, gcmTag keys iv aad c)

/-- The plaintext, where the tag matches. -/
def gcmOpen (key iv aad cipher tag : List Byte) : Option (List Byte) :=
  let keys := aesKeys key
  if gcmTag keys iv aad cipher = tag then some (gcmCrypt keys iv cipher) else none

end Sys2Proof.Machine
end

