-- ==== Sys2Proof/Machine/ScalarAlu.lean ====
section
/-! DEFINITION. Scalar arithmetic, logic, shifts, bit counts, compares, select and immediate forms (R114 to R127). -/

namespace Sys2Proof.Machine

/-- The current fibre where no source register of the instruction has a result outstanding (R24, R115); else the scalar
stream stalls. -/
def scalarOp (sw : Bool) (reads : List (BitVec 6)) (s : State) (body : Here → Out) : Out :=
  match here s with
  | none => .fault .noFibre
  | some h =>
    match reads.find? h.f.outstanding with
    | some r => .next (stallScalar s sw (.interlock r.toNat))
    | none => body h

/-- A register result: the instruction issues with a toll of 1, writes D and the next one follows (R114, R116). -/
def compute (sw : Bool) (reads : List (BitVec 6)) (d : BitVec 6) (v : Fibre → Word) (s : State) : Out :=
  scalarOp sw reads s (fun h => .next (onCur (issueScalar s h.f.spc 1 0) (fun f => (f.writeS d (v h.f)).next4)))

/-- D := g(`s`A, `s`B). -/
def compute2 (sw : Bool) (d a b : BitVec 6) (g : Word → Word → Word) (s : State) : Out :=
  compute sw [a, b] d (fun f => g (f.readS a) (f.readS b)) s

/-- D := g(`s`A). -/
def compute1 (sw : Bool) (d a : BitVec 6) (g : Word → Word) (s : State) : Out :=
  compute sw [a] d (fun f => g (f.readS a)) s

/-- 1 where a relation holds, else 0 (R122). -/
def truth (b : Bool) : Word := if b then 1#64 else 0#64

/-- Bits [127:64] of the signed product (R119). -/
def mulhS (a b : Word) : Word := (((a.signExtend 128) * (b.signExtend 128)) >>> 64).setWidth 64

/-- Bits [127:64] of the unsigned product (R119). -/
def mulhU (a b : Word) : Word := (((a.setWidth 128) * (b.setWidth 128)) >>> 64).setWidth 64

/-- The signed quotient rounded toward zero, with its corner cases (R120). -/
def divS (a b : Word) : Word :=
  if b = 0#64 then BitVec.allOnes 64 else BitVec.ofInt 64 (a.toInt.tdiv b.toInt)

/-- The unsigned quotient (R120). -/
def divU (a b : Word) : Word := if b = 0#64 then BitVec.allOnes 64 else BitVec.ofNat 64 (a.toNat / b.toNat)

/-- The signed remainder (R120). -/
def remS (a b : Word) : Word := if b = 0#64 then a else BitVec.ofInt 64 (a.toInt.tmod b.toInt)

/-- The unsigned remainder (R120). -/
def remU (a b : Word) : Word := if b = 0#64 then a else BitVec.ofNat 64 (a.toNat % b.toNat)

/-- The number of leading zero bits of an `n`-bit value (R121). -/
def leadingZeros {n : Nat} (x : BitVec n) : Nat := ((List.range n).find? (fun i => x.getLsbD (n - 1 - i))).getD n

/-- The number of trailing zero bits (R121). -/
def trailingZeros {n : Nat} (x : BitVec n) : Nat := ((List.range n).find? (fun i => x.getLsbD i)).getD n

/-- The number of one bits (R121). -/
def ones {n : Nat} (x : BitVec n) : Nat := ((List.range n).filter (fun i => x.getLsbD i)).length

/-- The shift count of a register shift: bits [5:0] (R121). -/
def shiftOf (b : Word) : Nat := (bits b 0 6).toNat

/-- MOVK: IMM16 at bits [16k+15:16k], the other bits kept (R126). -/
def insert16 (v : Word) (k : Nat) (imm : BitVec 16) : Word :=
  (v &&& ~~~((0xFFFF#64) <<< (16 * k))) ||| ((imm.setWidth 64) <<< (16 * k))

/-! ### OP 0x00 (R119, R120) -/

/-- ADD (R119). -/
def execAdd (sw : Bool) (d a b : BitVec 6) (s : State) : Out := compute2 sw d a b (· + ·) s
/-- SUB (R119). -/
def execSub (sw : Bool) (d a b : BitVec 6) (s : State) : Out := compute2 sw d a b (· - ·) s
/-- MUL (R119). -/
def execMul (sw : Bool) (d a b : BitVec 6) (s : State) : Out := compute2 sw d a b (· * ·) s
/-- MULH (R119). -/
def execMulh (sw : Bool) (d a b : BitVec 6) (s : State) : Out := compute2 sw d a b mulhS s
/-- MULHN (R119). -/
def execMulhn (sw : Bool) (d a b : BitVec 6) (s : State) : Out := compute2 sw d a b mulhU s
/-- DIV (R119, R120). -/
def execDiv (sw : Bool) (d a b : BitVec 6) (s : State) : Out := compute2 sw d a b divS s
/-- DIVN (R119, R120). -/
def execDivn (sw : Bool) (d a b : BitVec 6) (s : State) : Out := compute2 sw d a b divU s
/-- REM (R119, R120). -/
def execRem (sw : Bool) (d a b : BitVec 6) (s : State) : Out := compute2 sw d a b remS s
/-- REMN (R119, R120). -/
def execRemn (sw : Bool) (d a b : BitVec 6) (s : State) : Out := compute2 sw d a b remU s
/-- MIN (R119). -/
def execMin (sw : Bool) (d a b : BitVec 6) (s : State) : Out := compute2 sw d a b (fun x y => if x.slt y then x else y) s
/-- MAX (R119). -/
def execMax (sw : Bool) (d a b : BitVec 6) (s : State) : Out := compute2 sw d a b (fun x y => if x.slt y then y else x) s
/-- MINN (R119). -/
def execMinn (sw : Bool) (d a b : BitVec 6) (s : State) : Out := compute2 sw d a b (fun x y => if x.ult y then x else y) s
/-- MAXN (R119). -/
def execMaxn (sw : Bool) (d a b : BitVec 6) (s : State) : Out := compute2 sw d a b (fun x y => if x.ult y then y else x) s

/-! ### OP 0x01 (R121) -/

/-- AND (R121). -/
def execAnd (sw : Bool) (d a b : BitVec 6) (s : State) : Out := compute2 sw d a b (· &&& ·) s
/-- OR (R121). -/
def execOr (sw : Bool) (d a b : BitVec 6) (s : State) : Out := compute2 sw d a b (· ||| ·) s
/-- XOR (R121). -/
def execXor (sw : Bool) (d a b : BitVec 6) (s : State) : Out := compute2 sw d a b (· ^^^ ·) s
/-- ANDN (R121). -/
def execAndn (sw : Bool) (d a b : BitVec 6) (s : State) : Out := compute2 sw d a b (fun x y => x &&& ~~~y) s
/-- SHL (R121). -/
def execShl (sw : Bool) (d a b : BitVec 6) (s : State) : Out := compute2 sw d a b (fun x y => x <<< shiftOf y) s
/-- SHR (R121). -/
def execShr (sw : Bool) (d a b : BitVec 6) (s : State) : Out := compute2 sw d a b (fun x y => x >>> shiftOf y) s
/-- SAR (R121). -/
def execSar (sw : Bool) (d a b : BitVec 6) (s : State) : Out := compute2 sw d a b (fun x y => x.sshiftRight (shiftOf y)) s
/-- ROTR (R121). -/
def execRotr (sw : Bool) (d a b : BitVec 6) (s : State) : Out := compute2 sw d a b (fun x y => x.rotateRight (shiftOf y)) s
/-- CLZ (R121). -/
def execClz (sw : Bool) (d a : BitVec 6) (s : State) : Out := compute1 sw d a (fun x => BitVec.ofNat 64 (leadingZeros x)) s
/-- CTZ (R121). -/
def execCtz (sw : Bool) (d a : BitVec 6) (s : State) : Out := compute1 sw d a (fun x => BitVec.ofNat 64 (trailingZeros x)) s
/-- POPC (R121). -/
def execPopc (sw : Bool) (d a : BitVec 6) (s : State) : Out := compute1 sw d a (fun x => BitVec.ofNat 64 (ones x)) s
/-- BREV (R121). -/
def execBrev (sw : Bool) (d a : BitVec 6) (s : State) : Out := compute1 sw d a BitVec.reverse s

/-! ### OP 0x02 to 0x04 (R122 to R124) -/

/-- SEQ (R122). -/
def execSeq (sw : Bool) (d a b : BitVec 6) (s : State) : Out := compute2 sw d a b (fun x y => truth (x == y)) s
/-- SNE (R122). -/
def execSne (sw : Bool) (d a b : BitVec 6) (s : State) : Out := compute2 sw d a b (fun x y => truth (x != y)) s
/-- SLT (R122). -/
def execSlt (sw : Bool) (d a b : BitVec 6) (s : State) : Out := compute2 sw d a b (fun x y => truth (x.slt y)) s
/-- SLE (R122). -/
def execSle (sw : Bool) (d a b : BitVec 6) (s : State) : Out := compute2 sw d a b (fun x y => truth (x.sle y)) s
/-- SLTN (R122). -/
def execSltn (sw : Bool) (d a b : BitVec 6) (s : State) : Out := compute2 sw d a b (fun x y => truth (x.ult y)) s
/-- SLEN (R122). -/
def execSlen (sw : Bool) (d a b : BitVec 6) (s : State) : Out := compute2 sw d a b (fun x y => truth (x.ule y)) s
/-- SEL (R123): the sources are the condition register and both values. -/
def execSel (sw : Bool) (d a b c : BitVec 6) (s : State) : Out :=
  compute sw [c, a, b] d (fun f => if f.readS c = 0#64 then f.readS b else f.readS a) s
/-- ADDSH (R124). -/
def execAddsh (sw : Bool) (d a b : BitVec 6) (sh : BitVec 3) (s : State) : Out :=
  compute2 sw d a b (fun x y => x + y <<< sh.toNat) s

/-! ### OP 0x10 to 0x12 (R125 to R127) -/

/-- ADDI (R125). -/
def execAddi (sw : Bool) (d : BitVec 6) (imm : BitVec 16) (s : State) : Out := compute1 sw d d (fun x => x + sext64 imm) s
/-- ANDI (R125). -/
def execAndi (sw : Bool) (d : BitVec 6) (imm : BitVec 16) (s : State) : Out := compute1 sw d d (fun x => x &&& imm.setWidth 64) s
/-- ORI (R125). -/
def execOri (sw : Bool) (d : BitVec 6) (imm : BitVec 16) (s : State) : Out := compute1 sw d d (fun x => x ||| imm.setWidth 64) s
/-- XORI (R125). -/
def execXori (sw : Bool) (d : BitVec 6) (imm : BitVec 16) (s : State) : Out := compute1 sw d d (fun x => x ^^^ imm.setWidth 64) s
/-- SHLI (R125). -/
def execShli (sw : Bool) (d sh : BitVec 6) (s : State) : Out := compute1 sw d d (fun x => x <<< sh.toNat) s
/-- SHRI (R125). -/
def execShri (sw : Bool) (d sh : BitVec 6) (s : State) : Out := compute1 sw d d (fun x => x >>> sh.toNat) s
/-- SARI (R125). -/
def execSari (sw : Bool) (d sh : BitVec 6) (s : State) : Out := compute1 sw d d (fun x => x.sshiftRight sh.toNat) s
/-- MULI (R125). -/
def execMuli (sw : Bool) (d : BitVec 6) (imm : BitVec 16) (s : State) : Out := compute1 sw d d (fun x => x * sext64 imm) s
/-- MOVI (R126). -/
def execMovi (sw : Bool) (d : BitVec 6) (imm : BitVec 16) (s : State) : Out := compute sw [] d (fun _ => sext64 imm) s
/-- MOVK (R126). -/
def execMovk (sw : Bool) (d : BitVec 6) (k : BitVec 2) (imm : BitVec 16) (s : State) : Out :=
  compute1 sw d d (fun x => insert16 x k.toNat imm) s
/-- SEQI (R127). -/
def execSeqi (sw : Bool) (d : BitVec 6) (imm : BitVec 16) (s : State) : Out := compute1 sw d d (fun x => truth (x == sext64 imm)) s
/-- SNEI (R127). -/
def execSnei (sw : Bool) (d : BitVec 6) (imm : BitVec 16) (s : State) : Out := compute1 sw d d (fun x => truth (x != sext64 imm)) s
/-- SLTI (R127). -/
def execSlti (sw : Bool) (d : BitVec 6) (imm : BitVec 16) (s : State) : Out := compute1 sw d d (fun x => truth (x.slt (sext64 imm))) s
/-- SLEI (R127). -/
def execSlei (sw : Bool) (d : BitVec 6) (imm : BitVec 16) (s : State) : Out := compute1 sw d d (fun x => truth (x.sle (sext64 imm))) s
/-- SLTNI (R127). -/
def execSltni (sw : Bool) (d : BitVec 6) (imm : BitVec 16) (s : State) : Out := compute1 sw d d (fun x => truth (x.ult (sext64 imm))) s
/-- SLENI (R127). -/
def execSleni (sw : Bool) (d : BitVec 6) (imm : BitVec 16) (s : State) : Out := compute1 sw d d (fun x => truth (x.ule (sext64 imm))) s

end Sys2Proof.Machine
end

