-- ==== Sys2Proof/Machine/Window.lean ====
section
/-! DEFINITION. Window descriptors: the mapping of lane register names and its validity (R34 to R36, R75). -/

namespace Sys2Proof.Machine

/-- A range of register lines: where names begin, where berth lines begin, and its length. -/
structure LineRange where
  arch : Nat
  base : Nat
  len : Nat

/-- The private range of a descriptor (R34). -/
def privateRange (w : Word) : LineRange := { arch := 0, base := wfld w 7 6, len := wfld w 0 7 }
/-- Shared window 0. -/
def shared0 (w : Word) : LineRange := { arch := wfld w 28 6, base := wfld w 15 6, len := wfld w 21 7 }
/-- Shared window 1. -/
def shared1 (w : Word) : LineRange := { arch := wfld w 48 6, base := wfld w 35 6, len := wfld w 41 7 }

/-- Whether a name line lies in a range. -/
def LineRange.has (r : LineRange) (a : Nat) : Bool := r.arch ≤ a && a < r.arch + r.len

/-- The berth line of a name line. -/
def LineRange.line (r : LineRange) (a : Nat) : Nat := r.base + (a - r.arch)

/-- The berth register that `v`n names, and whether it may be written; none where the name is not mapped (R35). -/
def mapName (w : Word) (n : Nat) : Option (Nat × Bool) :=
  let a := n / 4
  let reg (r : LineRange) : Nat := 4 * r.line a + n % 4
  if (privateRange w).has a then some (reg (privateRange w), true)
  else if (shared0 w).has a then some (reg (shared0 w), wfld w 34 1 == 1)
  else if (shared1 w).has a then some (reg (shared1 w), wfld w 54 1 == 1)
  else none

/-- Whether a berth register lies in a shared window of a descriptor (R311). -/
def inShared (w : Word) (reg : Nat) : Bool :=
  let hit (r : LineRange) : Bool := r.base ≤ reg / 4 && reg / 4 < r.base + r.len
  hit (shared0 w) || hit (shared1 w)

/-- Two intervals [a, a+n) and [b, b+m) share no point. -/
def apart (a n b m : Nat) : Bool := n == 0 || m == 0 || a + n ≤ b || b + m ≤ a

/-- A range fits in 64 lines on both sides. -/
def LineRange.fits (r : LineRange) : Bool := r.len == 0 || (r.arch + r.len ≤ 64 && r.base + r.len ≤ 64)

/-- The validity of one descriptor (R36). -/
def windowOk (w : Word) : Bool :=
  let p := privateRange w
  let a := shared0 w
  let b := shared1 w
  p.fits && a.fits && b.fits && apart p.arch p.len a.arch a.len && apart p.arch p.len b.arch b.len &&
    apart a.arch a.len b.arch b.len && wfld w 55 9 == 0 && wfld w 13 2 == 0

/-- Two fibres of one berth: the private lines of each overlap neither the private nor the shared lines of the other (R36). -/
def windowPairOk (v w : Word) : Bool :=
  let p := privateRange v
  let q := privateRange w
  let clear (x y : LineRange) : Bool := apart x.base x.len y.base y.len
  clear p q && clear p (shared0 w) && clear p (shared1 w) && clear q (shared0 v) && clear q (shared1 v)

/-- A fibre's private lines overlap none of its own shared windows either (R36). -/
def windowSelfOk (w : Word) : Bool :=
  let p := privateRange w
  apart p.base p.len (shared0 w).base (shared0 w).len && apart p.base p.len (shared1 w).base (shared1 w).len

/-- The descriptors of a berth (R36). -/
def berthOk (l : List Word) : Bool :=
  match l with
  | [] => true
  | w :: r => windowOk w && windowSelfOk w && r.all (windowPairOk w) && berthOk r

/-- The descriptor of fibre `i` of a role: PBASE raised by i × PLEN (R75); none where it leaves the field. -/
def roleWindow (w : Word) (i : Nat) : Option Word :=
  let base := wfld w 7 6 + i * wfld w 0 7
  if base < 64 ∨ (base = 64 ∧ wfld w 0 7 = 0) then
    some (BitVec.ofNat 64 (w.toNat - wfld w 7 6 * 2 ^ 7 + base % 64 * 2 ^ 7))
  else none

end Sys2Proof.Machine
end

