-- ==== Sys2Proof/Machine/ScalarCtl.lean ====
section
/-! DEFINITION. Branches, calls, loops, clause issue, flag waits, moves of predicates, masks and flags (R128 to R133, R143, R144), and
the berth barrier, role switching, TFENCE, BRK, TRAP and TRET (R177 to R196). -/

namespace Sys2Proof.Machine

/-! ### Branches, calls and loops -/

/-- The target of a PC-relative branch (R128). -/
def branchTarget (f : Fibre) (o : BitVec 20) : Word := f.spc + sext64 o * 4#64

/-- An instruction issues with a toll of 1 and changes its fibre. -/
def control (sw : Bool) (reads : List (BitVec 6)) (g : Fibre → Fibre) (s : State) : Out :=
  scalarOp sw reads s (fun h => .next (onCur (issueScalar s h.f.spc 1 0) g))

/-- SPC := target where a condition holds, else the next instruction (R128). -/
def Fibre.branchIf (f : Fibre) (c : Bool) (t : Word) : Fibre := if c then { f with spc := t } else f.next4

/-- The register that C5 names: `s0` to `s31` (R45). -/
def reg5 (c : BitVec 5) : BitVec 6 := c.setWidth 6

/-- The link register `lr` is `s61` (R25). -/
def lr : BitVec 6 := 61#6

/-- BR (R128). -/
def execBr (sw : Bool) (o : BitVec 20) (s : State) : Out :=
  control sw [] (fun f => { f with spc := branchTarget f o }) s

/-- CALL (R128). -/
def execCall (sw : Bool) (o : BitVec 20) (s : State) : Out :=
  control sw [] (fun f => { f.writeS lr (f.spc + 4#64) with spc := branchTarget f o }) s

/-- BZ (R128). -/
def execBz (sw : Bool) (c : BitVec 5) (o : BitVec 20) (s : State) : Out :=
  control sw [reg5 c] (fun f => f.branchIf (f.readS (reg5 c) == 0#64) (branchTarget f o)) s

/-- BNZ (R128). -/
def execBnz (sw : Bool) (c : BitVec 5) (o : BitVec 20) (s : State) : Out :=
  control sw [reg5 c] (fun f => f.branchIf (f.readS (reg5 c) != 0#64) (branchTarget f o)) s

/-- LOOP (R128, R129): decrement, then test. -/
def execLoop (sw : Bool) (c : BitVec 5) (o : BitVec 20) (s : State) : Out :=
  control sw [reg5 c] (fun f =>
    (f.writeS (reg5 c) (f.readS (reg5 c) - 1#64)).branchIf (f.readS (reg5 c) - 1#64 != 0#64) (branchTarget f o)) s

/-- An instruction that first waits, as a stall, for every clause enqueued before it (R22). -/
def afterClauses (sw : Bool) (reads : List (BitVec 6)) (g : Fibre → Fibre) (s : State) : Out :=
  scalarOp sw reads s (fun h =>
    if h.f.clausesDone then .next (onCur (issueScalar s h.f.spc 1 0) g) else .next (stallScalar s sw .clauses))

/-- BEMZ (R128, R130). -/
def execBemz (sw : Bool) (o : BitVec 20) (s : State) : Out :=
  afterClauses sw [] (fun f => f.branchIf (f.em == 0#32) (branchTarget f o)) s

/-- BEMNZ (R128, R130). -/
def execBemnz (sw : Bool) (o : BitVec 20) (s : State) : Out :=
  afterClauses sw [] (fun f => f.branchIf (f.em != 0#32) (branchTarget f o)) s

/-- A jump to a register's address (R131): `link` writes `lr` after the target has been read. -/
def jumpTo (sw : Bool) (a : BitVec 6) (link : Bool) (s : State) : Out :=
  scalarOp sw [a] s (fun h =>
    let t := h.f.readS a
    let u := issueScalar s h.f.spc 1 0
    if bits t 0 2 ≠ 0#2 then .next (takeTrap u false { cause := .pcAlign, addr := t })
    else .next (onCur u (fun f => { (if link then f.writeS lr (f.spc + 4#64) else f) with spc := t })))

/-- JR (R131). -/
def execJr (sw : Bool) (a : BitVec 6) (s : State) : Out := jumpTo sw a false s

/-- CALLR (R131). -/
def execCallr (sw : Bool) (a : BitVec 6) (s : State) : Out := jumpTo sw a true s

/-! ### Clause issue and flag waits -/

/-- A word refused as ILLEGAL_INSTR with subcause RANGE: it has not issued (R60, R194). -/
def illegalRange (s : State) : State :=
  takeTrap (onCur s (fun f => { f with sStall := none })) false { cause := .illegalInstr, sub := Subcause.range.code }

/-- The entry that a CLS appends (R21, R22, R132): the header address, and the scalar registers as they are, with those still
outstanding. -/
def Fibre.appendClause (f : Fibre) (k : BitVec 20) : Fibre :=
  { f with
    clauses := f.clauses ++
      [{ header := f.lcbase + (k.setWidth 64) * 16#64, serial := f.nextId, snapshot := f.sregs,
         awaiting := (f.spend.filter (fun p => p.live && p.dest != 0#6)).map (fun p => (p.dest.toNat, p.id)) }]
    nextId := f.nextId + 1 }

/-- CLS and CLSWAIT as far as the append (R132): a stall while the queue is full; refused in handler mode (R194). -/
def appendThen (sw : Bool) (k : BitVec 20) (g : Nat → State → State) (s : State) : Out :=
  scalarOp sw [] s (fun h =>
    if h.f.handler.isSome then .next (illegalRange s)
    else if 4 ≤ h.f.clauses.length then .next (stallScalar s sw .clauseFull)
    else .next (g h.f.nextId (onCur (issueScalar s h.f.spc 1 0) (fun f => (f.appendClause k).next4))))

/-- CLS (R132). -/
def execCls (sw : Bool) (k : BitVec 20) (s : State) : Out := appendThen sw k (fun _ t => t) s

/-- The current fibre waits, past SPC, and hands the slot on (R40, R132). -/
def waitIssued (s : State) (w : Wait) : State := switch (onCur s (fun f => { f with sWait := some w })) s.cur

/-- CLSWAIT (R132): the next scalar instruction issues after the entry has left the queue. -/
def execClswait (sw : Bool) (k : BitVec 20) (s : State) : Out := appendThen sw k (fun n t => waitIssued t (.clause n)) s

/-- FWAIT (R132): completes at once where every named flag is clear. -/
def execFwait (sw : Bool) (m : BitVec 12) (s : State) : Out :=
  scalarOp sw [] s (fun h =>
    let t := onCur (issueScalar s h.f.spc 1 0) Fibre.next4
    if waitDone s s.cur h.f (.flags m) then .next t else .next (waitIssued t (.flags m)))

/-! ### Moves of predicates, masks and flags (R144) -/

/-- The predicate number in a 6-bit field. -/
def pred6 (p : BitVec 6) : BitVec 3 := bits p 0 3

/-- MFP (R144). -/
def execMfp (sw : Bool) (d p : BitVec 6) (s : State) : Out :=
  afterClauses sw [] (fun f => (f.writeS d ((f.readP (pred6 p)).setWidth 64)).next4) s

/-- MTP (R144). -/
def execMtp (sw : Bool) (p a : BitVec 6) (s : State) : Out :=
  afterClauses sw [a] (fun f => (f.writeP (pred6 p) ((f.readS a).setWidth 32)).next4) s

/-- MFEM (R144). -/
def execMfem (sw : Bool) (d : BitVec 6) (s : State) : Out :=
  afterClauses sw [] (fun f => (f.writeS d (f.em.setWidth 64)).next4) s

/-- MTEM (R144, R145). -/
def execMtem (sw : Bool) (a : BitVec 6) (s : State) : Out :=
  afterClauses sw [a] (fun f => ({ f with em := (f.readS a).setWidth 32 } : Fibre).next4) s

/-- The twelve counts, `f0` in bits [3:0] (R25, R144). -/
def flagWord (f : Fibre) : Word := BitVec.ofNat 64 ((List.range 12).foldl (fun n k => n + f.flag k * 2 ^ (4 * k)) 0)

/-- MFF (R144). -/
def execMff (sw : Bool) (d : BitVec 6) (s : State) : Out :=
  control sw [] (fun f => (f.writeS d (flagWord f)).next4) s

/-! ### Waits that an instruction makes at its own address (R178) -/

/-- The current fibre waits with SPC at the instruction: the word is kept, and the slot is held unless the S bit, or the
instruction itself, hands it on (R39, R40). -/
def waitHere (s : State) (handsOn : Bool) (w : Wait) : State :=
  let t := onCur s (fun f => { f with
    sWait := some w, waitWord := bits s.latch 0 32, sStall := if handsOn then none else some (.waiting, false) })
  if handsOn then switch t s.cur else t

/-- The wait ends: the instruction completes and the next one follows. -/
def Fibre.completeWait (f : Fibre) : Fibre := ({ f with sWait := none, sStall := none } : Fibre).next4

/-- The instruction issues, unless it is the one already waiting. -/
def issueOnce (s : State) (f : Fibre) (again : Bool) : State := if again then s else issueScalar s f.spc 1 0

/-- A scalar instruction that a pending FENCE holds back (R311). -/
def unfenced (sw : Bool) (reads : List (BitVec 6)) (s : State) (body : Here → Out) : Out :=
  scalarOp sw reads s (fun h => if h.f.fence.isSome then .next (stallScalar s sw .fencePending) else body h)

/-- TFENCE (R188). -/
def execTfence (sw : Bool) (m : BitVec 6) (s : State) : Out :=
  unfenced sw [] s (fun h =>
    let t := issueOnce s h.f (h.f.sWait == some (.tfence m))
    if h.f.laneOpsDone && flagSettersDone s s.cur h.f then
      if bits h.f.aflags 0 6 &&& m ≠ 0#6 then .next (takeTrap t false { cause := .arith })
      else .next (onCur t Fibre.completeWait)
    else .next (waitHere t sw (.tfence m)))

/-- BRK (R195). -/
def execBrk (sw : Bool) (p c : BitVec 6) (s : State) : Out :=
  unfenced sw [] s (fun h =>
    if !h.f.laneOpsDone then .next (stallScalar s sw .laneOps)
    else
      let t := issueScalar s h.f.spc 1 0
      let m := h.f.em &&& h.f.readP (pred6 p)
      if m = 0#32 then .next (onCur t Fibre.next4)
      else .next (takeTrap t false { cause := .brk, code := c.toNat, mask := m, pred := h.f.readP (pred6 p) }))

/-- TRAP (R196). -/
def execTrap (sw : Bool) (x c : BitVec 6) (s : State) : Out :=
  unfenced sw [x] s (fun h =>
    .next (takeTrap (issueScalar s h.f.spc 1 0) false { cause := .soft, code := c.toNat, addr := h.f.readS x }))

/-- TRET (R193): refused outside a handler; a misaligned target traps in handler mode. -/
def execTret (sw : Bool) (x k : BitVec 6) (s : State) : Out :=
  unfenced sw [x] s (fun h =>
    match h.f.handler with
    | none => .next (illegalRange s)
    | some fr =>
      let t := h.f.readS x
      let u := issueScalar s h.f.spc 1 0
      if x ≠ 0#6 ∧ bits t 0 2 ≠ 0#2 then .next (takeTrap u false { cause := .pcAlign, addr := t })
      else .next (onCur u (fun f => f.leaveHandler fr (k == 1#6) (if x = 0#6 then none else some t))))

/-! ### The berth barrier (R181 to R183) -/

/-- The fibres present in a slot, as a mask (R181). -/
def presentMask (s : State) (sk : Nat) : BitVec 4 :=
  (slotFibres s sk).foldl (fun m fk => match lookup s.fibres fk with
    | some f => if f.ended then m else m ||| BitVec.twoPow 4 (fk % 4)
    | none => m) 0#4

/-- The set that a fibre of the slot waits with, once arrived. -/
def arrivedWith (s : State) (sk i : Nat) : Option (BitVec 4) :=
  match lookup s.fibres (sk * 4 + i) with
  | some f => (match f.sWait with | some (.fbar p) => some p | _ => none)
  | none => none

/-- The fibres of a set complete their FBAR (R181). -/
def releaseBerth (s : State) (sk : Nat) (p : BitVec 4) : State :=
  ((List.range 4).filter (fun i => p.getLsbD i)).foldl (fun t i => onFibre t (sk * 4 + i) Fibre.completeWait) s

/-- Fibre `fk` has left its berth: every fibre that waits with a set naming it traps (R183). -/
def leaveBerth (s : State) (fk : Nat) : State :=
  (slotFibres s (slotOfFibre fk)).foldl (fun t j =>
    match lookup t.fibres j with
    | none => t
    | some f =>
      match f.sWait with
      | some (.fbar p) =>
        if p.getLsbD (fk % 4) then
          takeTrapOf (onFibre t j (fun g => { g with sWait := none, sStall := none })) j (f.waitWord.setWidth 96) false { cause := .fbarMismatch }
        else t
      | _ => t) s

/-- The current fibre arrives with a set (R181, R183). -/
def arriveBerth (s : State) (p : BitVec 4) : State :=
  let sk := slotOfFibre s.cur
  let i := s.cur % 4
  let others := (List.range 4).filter (fun j => p.getLsbD j && j != i)
  let differs (j : Nat) : Bool := match arrivedWith s sk j with | some q => q != p | none => false
  if p &&& ~~~(presentMask s sk) ≠ 0#4 ∨ others.any differs then
    takeTrap (onCur s (fun f => { f with sWait := none, sStall := none })) false { cause := .fbarMismatch }
  else if others.all (fun j => arrivedWith s sk j == some p) then releaseBerth s sk p
  else waitHere s true (.fbar p)

/-- FBAR (R181 to R183). -/
def execFbar (sw : Bool) (m : BitVec 4) (s : State) : Out :=
  unfenced sw [] s (fun h =>
    match h.f.sWait with
    | some (.fbar _) => .next s
    | some (.fbarClauses p) => if h.f.laneOpsDone then .next (arriveBerth s p) else .next s
    | _ =>
      let here := presentMask s (slotOfFibre s.cur)
      if m ≠ 0#4 ∧ (m &&& ~~~here ≠ 0#4 ∨ !m.getLsbD (s.cur % 4)) then .next (illegalRange s)
      else
        let p := if m = 0#4 then here else m
        let t := issueScalar s h.f.spc 1 0
        if h.f.laneOpsDone then .next (arriveBerth t p) else .next (waitHere t true (.fbarClauses p)))

/-! ### Role switching (R184) -/

/-- Step 1 of R184: the subcause of R191 by which a switch is refused, if it is. Of a role and index that another fibre holds and a descriptor that
breaks R36 the first is tested first, with the subcause of role or index (log 126). -/
def roleRefused (s : State) (fk n k : Nat) (w : Crew) : Option Nat :=
  match w.block.roles[n]? with
  | none => some 1
  | some r =>
    if r.count ≤ k then some 1
    else
      let others := ((slotFibres s (slotOfFibre fk)).filter (fun j => j != fk)).filterMap (fun j => lookup s.fibres j)
      if others.any (fun f => !f.ended && f.role == n && f.index == k) then some 1
      else
        match roleWindow r.window k with
        | none => some 2
        | some d => if berthOk (d :: (others.filter (fun f => !f.ended)).map (·.window)) then none else some 2

/-- ROLE (R184): checked at issue; then the fibre drains until its switch. -/
def execRole (sw : Bool) (n k : BitVec 6) (s : State) : Out :=
  unfenced sw [] s (fun h =>
    if h.f.handler.isSome then .next (illegalRange s)
    else
      match h.f.sWait with
      | some (.role _ _) => .next s
      | _ =>
        let t := issueScalar s h.f.spc 1 0
        match roleRefused s s.cur n.toNat k.toNat h.w with
        | some sub => .next (takeTrap t false { cause := .roleInvalid, sub := sub })
        | none => .next (waitHere t true (.role n.toNat k.toNat)))

/-- A fibre of a role after its switch (R184): the window, lane-code base, `s2` and the scalar entry. -/
def Fibre.enterRole (f : Fibre) (r : Role) (n k : Nat) (d : Word) : Fibre :=
  { f.writeS 2#6 (BitVec.ofNat 64 k) with
    window := d, lcbase := laneBaseOf r.laneBase, spc := codeAddress r.entry, role := n, index := k, sWait := none, sStall := none }

/-- ROLE_SWITCH (R184, R185): the drain of fibre `g` is over; the check is made again, and the fibre switches. With grace running the
yield is taken there. -/
def execRoleSwitch (g : Nat) (s : State) : Out :=
  match lookup s.fibres g, lookup s.crews (bankOfFibre g) with
  | some f, some w =>
    match f.sWait with
    | some (.role n k) =>
      if !drained s g f then .next s
      else
        match roleRefused s g n k w, w.block.roles[n]? with
        | none, some r =>
          let t := onFibre s g (fun f => f.enterRole r n k ((roleWindow r.window k).getD 0#64))
          .next (if w.g then settleCrew (onFibre t g (fun f => { f with arrived := some .yieldPoint })) (bankOfFibre g) else t)
        | _, _ => .next (takeTrapOf s g (f.waitWord.setWidth 96) false { cause := .roleInvalid, sub := 3 })
    | _ => .next s
  | _, _ => .next s

/-- The predicate of a lane word by its PN and PI fields (R27, R52). -/
def wordPred (f : Fibre) (word : BitVec 96) : Mask :=
  let p := f.readP (bits word 81 3)
  if bits word 84 1 = 1#1 then ~~~p else p

/-- ILLEGAL_INSTR (R60): a word that is not an instruction traps exactly; it has not issued. -/
def execIllegalInstr (word : BitVec 96) (lane : Bool) (sub : Subcause) (s : State) : Out :=
  match here s with
  | none => .fault .noFibre
  | some h =>
    .next (takeTrapOf s s.cur word lane
      { cause := .illegalInstr, sub := sub.code, mask := if !lane then 0#32 else if sub = .header then h.f.em else h.f.em &&& wordPred h.f word })

end Sys2Proof.Machine
end

