-- ==== Sys2Proof/Machine/ScalarMem.lean ====
section
/-! DEFINITION. Scalar loads, stores and atomics, in memory and in scratchpad (R134 to R140). -/

namespace Sys2Proof.Machine

/-- A scalar access instruction issues, or is replayed after parking, which charges nothing (R116, R187). -/
def issueAccess (s : State) (f : Fibre) (bm : Nat) : State :=
  if f.sReplay.isSome && f.replayOf.isSome then
    onCur s (fun f => { f with sStall := none, sReplay := none, replayOf := none })
  else issueScalar s f.spc 1 bm

/-- The request that a replay of a scalar access follows. -/
def replayAfter (f : Fibre) : Option (Nat × Word) := if f.sReplay.isSome then f.replayOf else none

/-- The bytes whose lines an access of `n` bytes touches in device and host memory (R116, R150): by physical address, but for those that its pages
put in the on-chip window; one that does not translate is counted by its virtual address (log 119). -/
def memoryBytes (addr : Word) (n : Nat) (l : Except (Word × Fail) (List Spot)) : List Nat :=
  match l with
  | .error _ => (List.range n).map (fun i => 2 ^ 64 + (addr + BitVec.ofNat 64 i).toNat)
  | .ok x => (x.filter (fun y => !inWindow y.phys)).map (·.phys)

/-- The 64-byte lines of device and host memory that an access touches (R116). -/
def memoryLines (addr : Word) (n : Nat) (l : Except (Word × Fail) (List Spot)) : Nat := linesTouched (memoryBytes addr n l)

/-- Whether an access lies in the scratchpad of a crew's own bank. -/
def inOwnScratch (bk : Nat) (l : Except (Word × Fail) (List Spot)) : Bool :=
  match l with
  | .ok x => x.all (fun y => match y.place with | some p => inStore p && placeBank p == bk && decide (placeOffset p < 0xC0000) | none => false)
  | .error _ => false

/-- The charge of a scalar memory access to `bm`: its lines, and for an atomic 1, or 0 in the own scratchpad (R116, R140). -/
def accessToll (bk : Nat) (d : Deed) (addr : Word) (n : Nat) (l : Except (Word × Fail) (List Spot)) : Nat :=
  if d.atomic then (if inOwnScratch bk l then 0 else 1) else memoryLines addr n l

/-- The lines of deck-peer windows that `n` bytes from a local address touch (R116). -/
def peerLines (a n : Nat) : Nat :=
  linesTouched (((List.range n).map (a + ·)).filter (fun b => match localRegion b with | some (some _) => true | _ => false))

/-- A peer access is counted at the reader's cluster (R271). -/
def countPeer (s : State) (d : Deed) : State :=
  let source := match d with | .load => 0x04 | .store _ => 0x05 | .update _ => 0x06
  countCluster s (coreOfFibre s.cur / 8) source 1

/-- The end of a scalar access: its registers are written, or it stops. -/
def finishAccess (r : State × Except (Word × Fail) Nat) (after : Option (Nat × Word)) (w : Want)
    (done : Nat → Fibre → Fibre) : State :=
  match r.2 with
  | .ok v => onCur r.1 (fun f => (done v f).next4)
  | .error (at', x) => scalarFail r.1 after at' x w

/-- A scalar memory access of `n` bytes (R134 to R137): its walks, delays, the toll, alignment where `aligned` asks for it, translation,
collective regions, and the access itself. -/
def memoryAccess (sw aligned : Bool) (h : Here) (addr : Word) (n : Nat) (d : Deed) (done : Nat → Fibre → Fibre) (s0 : State) : State :=
  let s := walkedRange s0 h.env addr n
  let reach := spots s h.env addr n d.want false
  let after := replayAfter h.f
  match accessDelay s s.cur h.f false d 1 [reach] with
  | some c => stallScalar s sw c
  | none =>
    let t := issueAccess s h.f (accessToll (bankOfFibre s.cur) d addr n reach)
    if aligned && addr.toNat % n != 0 then trapScalar t .memAlign addr
    else
      match reach with
      | .error (at', x) => scalarFail t after at' x d.want
      | .ok l =>
        let u := remember t h.env addr
        match collectiveOf d l with
        | none => finishAccess (performOne u s.cur false d addr l) after d.want done
        | some i =>
          match lookup s.contexts h.w.ctx with
          | none => u
          | some c =>
            match collectiveStore s.cur h.w c addr n d i with
            | .error cause => trapScalar u cause 0#64
            | .ok o => if 16 ≤ fabricOutstanding s s.cur then stallScalar s sw (.full .fabric) else onCur (addFabricOp u o) Fibre.next4

/-- A scalar scratchpad access of `n` bytes (R138). -/
def scratchAccess (sw aligned : Bool) (h : Here) (a n : Nat) (d : Deed) (done : Nat → Fibre → Fibre) (s : State) : State :=
  let reach := localSpots s (bankOfFibre s.cur) a n
  match accessDelay s s.cur h.f false d 1 [.ok (reach.getD [])] with
  | some c => stallScalar s sw c
  | none =>
    let t := issueAccess s h.f (if d.atomic then min 1 (peerLines a n) else peerLines a n)
    match reach with
    | none => trapScalar t .scratchRange (BitVec.ofNat 64 a)
    | some l =>
      if aligned && a % n != 0 then trapScalar t .memAlign (BitVec.ofNat 64 a)
      else
        finishAccess (performOne (if isPeer a then countPeer t d else t) s.cur false d (BitVec.ofNat 64 a) l) none d.want done

/-- `s`BASE + sext(OFF10) × size (R134). -/
def offsetAddress (f : Fibre) (b : BitVec 6) (o : BitVec 10) (n : Nat) : Word :=
  f.readS b + sext64 o * BitVec.ofNat 64 n

/-- The local address of a scalar scratchpad access: bits [23:0] (R138). -/
def localAddress (v : Word) : Nat := wfld v 0 24

/-- A loaded value widened (R135). -/
def widen (n : Nat) (signed : Bool) (v : Nat) : Word :=
  match n, signed with
  | 1, true => sext64 (BitVec.ofNat 8 v)
  | 2, true => sext64 (BitVec.ofNat 16 v)
  | 4, true => sext64 (BitVec.ofNat 32 v)
  | _, _ => BitVec.ofNat 64 v

/-- A load result is outstanding until it arrives (R115); a load to `s0` discards it. -/
def loadResult (d : BitVec 6) (v : Word) (f : Fibre) : Fibre := if d = 0#6 then f else f.pend d (some v)

/-- A scalar memory load (R134, R135). -/
def loadMem (sw : Bool) (d b : BitVec 6) (o : BitVec 10) (n : Nat) (signed : Bool) (s : State) : Out :=
  scalarOp sw [b] s (fun h =>
    .next (memoryAccess sw false h (offsetAddress h.f b o n) n .load (fun v => loadResult d (widen n signed v)) s))

/-- A scalar memory store of the low bytes of `s`D (R134). -/
def storeMem (sw : Bool) (d b : BitVec 6) (o : BitVec 10) (n : Nat) (s : State) : Out :=
  scalarOp sw [d, b] s (fun h =>
    .next (memoryAccess sw false h (offsetAddress h.f b o n) n (.store (h.f.readS d).toNat) (fun _ f => f) s))

/-- A scalar scratchpad load (R138). -/
def loadLocal (sw : Bool) (d b : BitVec 6) (o : BitVec 10) (n : Nat) (signed : Bool) (s : State) : Out :=
  scalarOp sw [b] s (fun h =>
    .next (scratchAccess sw false h (localAddress (offsetAddress h.f b o n)) n .load
      (fun v => loadResult d (widen n signed v)) s))

/-- A scalar scratchpad store (R138). -/
def storeLocal (sw : Bool) (d b : BitVec 6) (o : BitVec 10) (n : Nat) (s : State) : Out :=
  scalarOp sw [d, b] s (fun h =>
    .next (scratchAccess sw false h (localAddress (offsetAddress h.f b o n)) n (.store (h.f.readS d).toNat) (fun _ f => f) s))

/-! ### Atomics (R139, R140) -/

/-- The operations of R139. -/
inductive AtomicOp where
  | add | swap | cas | min | max | minn | maxn | and | or | xor
  deriving DecidableEq, Repr

/-- The new value of a location of `w` bits holding `m`, for operand `b` and expected value `e`; none where a CAS fails
(R139, R140). -/
def AtomicOp.apply (op : AtomicOp) (w m b e : Nat) : Option Nat :=
  let x := BitVec.ofNat w m
  let y := BitVec.ofNat w b
  match op with
  | .add => some (x + y).toNat
  | .swap => some y.toNat
  | .cas => if x = BitVec.ofNat w e then some y.toNat else none
  | .min => some (if x.slt y then x else y).toNat
  | .max => some (if x.slt y then y else x).toNat
  | .minn => some (if x.ult y then x else y).toNat
  | .maxn => some (if x.ult y then y else x).toNat
  | .and => some (x &&& y).toNat
  | .or => some (x ||| y).toNat
  | .xor => some (x ^^^ y).toNat

/-- The registers that an atomic reads: CAS reads D too (R139). -/
def atomicReads (op : AtomicOp) (d a b : BitVec 6) : List (BitVec 6) := if op = .cas then [a, b, d] else [a, b]

/-- The update that an atomic of `n` bytes makes. -/
def atomicDeed (op : AtomicOp) (n : Nat) (f : Fibre) (d b : BitVec 6) : Deed :=
  .update (fun m => op.apply (8 * n) m (f.readS b).toNat (f.readS d).toNat)

/-- A memory atomic (R139). -/
def atomicMem (op : AtomicOp) (n : Nat) (sw : Bool) (d a b : BitVec 6) (s : State) : Out :=
  scalarOp sw (atomicReads op d a b) s (fun h =>
    .next (memoryAccess sw true h (h.f.readS a) n (atomicDeed op n h.f d b) (fun m => loadResult d (BitVec.ofNat 64 m)) s))

/-- A scratchpad atomic (R139). -/
def atomicLocal (op : AtomicOp) (n : Nat) (sw : Bool) (d a b : BitVec 6) (s : State) : Out :=
  scalarOp sw (atomicReads op d a b) s (fun h =>
    .next (scratchAccess sw true h (localAddress (h.f.readS a)) n (atomicDeed op n h.f d b)
      (fun m => loadResult d (BitVec.ofNat 64 m)) s))

/-! ### The instructions of OP 0x20 to 0x25 -/

/-- LDB (R135). -/
def execLdb (sw : Bool) (d b : BitVec 6) (o : BitVec 10) (s : State) : Out := loadMem sw d b o 1 true s
/-- LDH (R135). -/
def execLdh (sw : Bool) (d b : BitVec 6) (o : BitVec 10) (s : State) : Out := loadMem sw d b o 2 true s
/-- LDW (R135). -/
def execLdw (sw : Bool) (d b : BitVec 6) (o : BitVec 10) (s : State) : Out := loadMem sw d b o 4 true s
/-- LDD (R135). -/
def execLdd (sw : Bool) (d b : BitVec 6) (o : BitVec 10) (s : State) : Out := loadMem sw d b o 8 false s
/-- LDBN (R135). -/
def execLdbn (sw : Bool) (d b : BitVec 6) (o : BitVec 10) (s : State) : Out := loadMem sw d b o 1 false s
/-- LDHN (R135). -/
def execLdhn (sw : Bool) (d b : BitVec 6) (o : BitVec 10) (s : State) : Out := loadMem sw d b o 2 false s
/-- LDWN (R135). -/
def execLdwn (sw : Bool) (d b : BitVec 6) (o : BitVec 10) (s : State) : Out := loadMem sw d b o 4 false s
/-- SLDB (R138). -/
def execSldb (sw : Bool) (d b : BitVec 6) (o : BitVec 10) (s : State) : Out := loadLocal sw d b o 1 true s
/-- SLDH (R138). -/
def execSldh (sw : Bool) (d b : BitVec 6) (o : BitVec 10) (s : State) : Out := loadLocal sw d b o 2 true s
/-- SLDW (R138). -/
def execSldw (sw : Bool) (d b : BitVec 6) (o : BitVec 10) (s : State) : Out := loadLocal sw d b o 4 true s
/-- SLDD (R138). -/
def execSldd (sw : Bool) (d b : BitVec 6) (o : BitVec 10) (s : State) : Out := loadLocal sw d b o 8 false s
/-- SLDBN (R138). -/
def execSldbn (sw : Bool) (d b : BitVec 6) (o : BitVec 10) (s : State) : Out := loadLocal sw d b o 1 false s
/-- SLDHN (R138). -/
def execSldhn (sw : Bool) (d b : BitVec 6) (o : BitVec 10) (s : State) : Out := loadLocal sw d b o 2 false s
/-- SLDWN (R138). -/
def execSldwn (sw : Bool) (d b : BitVec 6) (o : BitVec 10) (s : State) : Out := loadLocal sw d b o 4 false s
/-- STB (R134). -/
def execStb (sw : Bool) (d b : BitVec 6) (o : BitVec 10) (s : State) : Out := storeMem sw d b o 1 s
/-- STH (R134). -/
def execSth (sw : Bool) (d b : BitVec 6) (o : BitVec 10) (s : State) : Out := storeMem sw d b o 2 s
/-- STW (R134). -/
def execStw (sw : Bool) (d b : BitVec 6) (o : BitVec 10) (s : State) : Out := storeMem sw d b o 4 s
/-- STD (R134). -/
def execStd (sw : Bool) (d b : BitVec 6) (o : BitVec 10) (s : State) : Out := storeMem sw d b o 8 s
/-- SSTB (R138). -/
def execSstb (sw : Bool) (d b : BitVec 6) (o : BitVec 10) (s : State) : Out := storeLocal sw d b o 1 s
/-- SSTH (R138). -/
def execSsth (sw : Bool) (d b : BitVec 6) (o : BitVec 10) (s : State) : Out := storeLocal sw d b o 2 s
/-- SSTW (R138). -/
def execSstw (sw : Bool) (d b : BitVec 6) (o : BitVec 10) (s : State) : Out := storeLocal sw d b o 4 s
/-- SSTD (R138). -/
def execSstd (sw : Bool) (d b : BitVec 6) (o : BitVec 10) (s : State) : Out := storeLocal sw d b o 8 s
/-- AADDW (R139). -/
def execAaddw (sw : Bool) (d a b : BitVec 6) (s : State) : Out := atomicMem .add 4 sw d a b s
/-- ASWAPW (R139). -/
def execAswapw (sw : Bool) (d a b : BitVec 6) (s : State) : Out := atomicMem .swap 4 sw d a b s
/-- ACASW (R139). -/
def execAcasw (sw : Bool) (d a b : BitVec 6) (s : State) : Out := atomicMem .cas 4 sw d a b s
/-- AMINW (R139). -/
def execAminw (sw : Bool) (d a b : BitVec 6) (s : State) : Out := atomicMem .min 4 sw d a b s
/-- AMAXW (R139). -/
def execAmaxw (sw : Bool) (d a b : BitVec 6) (s : State) : Out := atomicMem .max 4 sw d a b s
/-- AMINNW (R139). -/
def execAminnw (sw : Bool) (d a b : BitVec 6) (s : State) : Out := atomicMem .minn 4 sw d a b s
/-- AMAXNW (R139). -/
def execAmaxnw (sw : Bool) (d a b : BitVec 6) (s : State) : Out := atomicMem .maxn 4 sw d a b s
/-- AANDW (R139). -/
def execAandw (sw : Bool) (d a b : BitVec 6) (s : State) : Out := atomicMem .and 4 sw d a b s
/-- AORW (R139). -/
def execAorw (sw : Bool) (d a b : BitVec 6) (s : State) : Out := atomicMem .or 4 sw d a b s
/-- AXORW (R139). -/
def execAxorw (sw : Bool) (d a b : BitVec 6) (s : State) : Out := atomicMem .xor 4 sw d a b s
/-- AADDD (R139). -/
def execAaddd (sw : Bool) (d a b : BitVec 6) (s : State) : Out := atomicMem .add 8 sw d a b s
/-- ASWAPD (R139). -/
def execAswapd (sw : Bool) (d a b : BitVec 6) (s : State) : Out := atomicMem .swap 8 sw d a b s
/-- ACASD (R139). -/
def execAcasd (sw : Bool) (d a b : BitVec 6) (s : State) : Out := atomicMem .cas 8 sw d a b s
/-- AMIND (R139). -/
def execAmind (sw : Bool) (d a b : BitVec 6) (s : State) : Out := atomicMem .min 8 sw d a b s
/-- AMAXD (R139). -/
def execAmaxd (sw : Bool) (d a b : BitVec 6) (s : State) : Out := atomicMem .max 8 sw d a b s
/-- AMINND (R139). -/
def execAminnd (sw : Bool) (d a b : BitVec 6) (s : State) : Out := atomicMem .minn 8 sw d a b s
/-- AMAXND (R139). -/
def execAmaxnd (sw : Bool) (d a b : BitVec 6) (s : State) : Out := atomicMem .maxn 8 sw d a b s
/-- AANDD (R139). -/
def execAandd (sw : Bool) (d a b : BitVec 6) (s : State) : Out := atomicMem .and 8 sw d a b s
/-- AORD (R139). -/
def execAord (sw : Bool) (d a b : BitVec 6) (s : State) : Out := atomicMem .or 8 sw d a b s
/-- AXORD (R139). -/
def execAxord (sw : Bool) (d a b : BitVec 6) (s : State) : Out := atomicMem .xor 8 sw d a b s
/-- SAADDW (R139). -/
def execSaaddw (sw : Bool) (d a b : BitVec 6) (s : State) : Out := atomicLocal .add 4 sw d a b s
/-- SASWAPW (R139). -/
def execSaswapw (sw : Bool) (d a b : BitVec 6) (s : State) : Out := atomicLocal .swap 4 sw d a b s
/-- SACASW (R139). -/
def execSacasw (sw : Bool) (d a b : BitVec 6) (s : State) : Out := atomicLocal .cas 4 sw d a b s
/-- SAMINW (R139). -/
def execSaminw (sw : Bool) (d a b : BitVec 6) (s : State) : Out := atomicLocal .min 4 sw d a b s
/-- SAMAXW (R139). -/
def execSamaxw (sw : Bool) (d a b : BitVec 6) (s : State) : Out := atomicLocal .max 4 sw d a b s
/-- SAMINNW (R139). -/
def execSaminnw (sw : Bool) (d a b : BitVec 6) (s : State) : Out := atomicLocal .minn 4 sw d a b s
/-- SAMAXNW (R139). -/
def execSamaxnw (sw : Bool) (d a b : BitVec 6) (s : State) : Out := atomicLocal .maxn 4 sw d a b s
/-- SAANDW (R139). -/
def execSaandw (sw : Bool) (d a b : BitVec 6) (s : State) : Out := atomicLocal .and 4 sw d a b s
/-- SAORW (R139). -/
def execSaorw (sw : Bool) (d a b : BitVec 6) (s : State) : Out := atomicLocal .or 4 sw d a b s
/-- SAXORW (R139). -/
def execSaxorw (sw : Bool) (d a b : BitVec 6) (s : State) : Out := atomicLocal .xor 4 sw d a b s
/-- SAADDD (R139). -/
def execSaaddd (sw : Bool) (d a b : BitVec 6) (s : State) : Out := atomicLocal .add 8 sw d a b s
/-- SASWAPD (R139). -/
def execSaswapd (sw : Bool) (d a b : BitVec 6) (s : State) : Out := atomicLocal .swap 8 sw d a b s
/-- SACASD (R139). -/
def execSacasd (sw : Bool) (d a b : BitVec 6) (s : State) : Out := atomicLocal .cas 8 sw d a b s
/-- SAMIND (R139). -/
def execSamind (sw : Bool) (d a b : BitVec 6) (s : State) : Out := atomicLocal .min 8 sw d a b s
/-- SAMAXD (R139). -/
def execSamaxd (sw : Bool) (d a b : BitVec 6) (s : State) : Out := atomicLocal .max 8 sw d a b s
/-- SAMINND (R139). -/
def execSaminnd (sw : Bool) (d a b : BitVec 6) (s : State) : Out := atomicLocal .minn 8 sw d a b s
/-- SAMAXND (R139). -/
def execSamaxnd (sw : Bool) (d a b : BitVec 6) (s : State) : Out := atomicLocal .maxn 8 sw d a b s
/-- SAANDD (R139). -/
def execSaandd (sw : Bool) (d a b : BitVec 6) (s : State) : Out := atomicLocal .and 8 sw d a b s
/-- SAORD (R139). -/
def execSaord (sw : Bool) (d a b : BitVec 6) (s : State) : Out := atomicLocal .or 8 sw d a b s
/-- SAXORD (R139). -/
def execSaxord (sw : Bool) (d a b : BitVec 6) (s : State) : Out := atomicLocal .xor 8 sw d a b s

end Sys2Proof.Machine
end

