-- ==== Sys2Proof/Machine/Engines.lean ====
section
/-! DEFINITION. What the engines of a core share: the issue of a long-latency instruction (R225), its outstanding operation, the
reads and writes of an asynchronous engine with the errors they meet (R217, R218, R296, R298), and completion (R23, R112). -/

namespace Sys2Proof.Machine

/-- A long-latency instruction: nothing of it goes past a pending FENCE; a flag at 15 or a full unit stalls it (R23, R225, R311). -/
def longLatency (sw : Bool) (flag : BitVec 4) (reads : List (BitVec 6)) (full : Option FullUnit) (s : State) (body : Here → Out) : Out :=
  unfenced sw reads s (fun h =>
    let go : Out := match full with
      | some u => if u.full s s.cur h.f then .next (stallScalar s sw (.full u)) else body h
      | none => body h
    match flagOf flag with
    | some k => if 15 ≤ h.f.flag k then .next (stallScalar s sw (.flagFull k)) else go
    | none => go)

/-- An outstanding operation of the current fibre, with the pages that it has translated. -/
def newEngine (s : State) (h : Here) (flag : Option Nat) (op : EngineOp) (pages : Tab Page) : Engine :=
  { op := op, fibre := s.cur, bank := bankOfFibre s.cur, serial := h.w.serial, ctx := h.w.ctx, flag := flag, aflags := 0#6,
    arrivals := [], status := 0, placed := 0, ready := false, asked := none, kept := [], lost := [], pages := pages }

/-- An operation becomes outstanding; its number is the next serial. -/
def addEngine (s : State) (e : Engine) : State := { s with engines := put s.engines s.nextSerial e, nextSerial := s.nextSerial + 1 }

/-- The operation is outstanding, its flag raised, and the next instruction follows. -/
def startOn (s : State) (h : Here) (flag : BitVec 4) (op : EngineOp) (pages : Tab Page) : State :=
  onCur (addEngine s (newEngine s h (flagOf flag) op pages)) (fun f => (f.raise (flagOf flag)).next4)

/-- The same for an operation that has translated nothing. -/
def startEngine (s : State) (h : Here) (flag : BitVec 4) (op : EngineOp) : State := startOn s h flag op []

/-- A scalar-stream instruction that traps at issue: its toll of 1 is charged, unless it is replayed (R187, R224). -/
def trapIssued (s : State) (f : Fibre) (c : Cause) : Out := .next (trapScalar (issueAccess s f 0) c 0#64)

/-- The same for the causes whose frame holds a local address (R191). -/
def trapIssuedAt (s : State) (f : Fibre) (c : Cause) (a : Nat) : Out := .next (trapScalar (issueAccess s f 0) c (BitVec.ofNat 64 a))

/-- The first of some ranges of local addresses that leaves a region of R138. -/
def badRange (s : State) (bk : Nat) (l : List (Nat × Nat)) : Option Nat :=
  (l.find? (fun x => (localPlaces s bk x.1 x.2).isNone)).map (·.1)

/-! ### Owners of completed work -/

/-- The bank of a crew that is on a core. -/
def bankOfSerial (s : State) (serial : Nat) : Option Nat := (s.crews.find? (fun x => x.2.serial == serial)).map (·.1)

/-- The key of a fibre of a bank's crew, by its place in the core. -/
def fibreIn (bk fk : Nat) : Nat := bk / 1024 * 65536 + bk % 1024 * 64 + fibreNumber fk % 64

/-- The flag counts and `AFLAGS` of a fibre as its record in a save area holds them (R29). -/
def flagCells (w : Crew) (fk : Nat) (f : Fibre) : List (Nat × Byte) :=
  areaCells w (recordOffset fk + 0x224) 6 (flagWord f).toNat ++ areaCells w (recordOffset fk + 0x268) 8 f.aflags.toNat

/-- A saved crew's fibre records take flags that fell or rose after the save (R112, R180); a sealed record takes them when it is opened. -/
def patchRecords (s : State) (x : Saved) (fk : Nat) : State :=
  if x.crew.own.prot then s
  else
    match x.fibres.find? (fun y => fibreNumber y.1 % 64 == fibreNumber fk % 64) with
    | some y => write s none (flagCells x.crew y.1 y.2)
    | none => s

/-- A fibre of a crew changed, wherever the crew is: on a core, or saved, with its record (R112, R180). -/
def onOwner (s : State) (serial fk : Nat) (g : Fibre → Fibre) : State :=
  match bankOfSerial s serial with
  | some bk => onFibre s (fibreIn bk fk) g
  | none =>
    let t := { s with saved := s.saved.map (fun (x : Nat × Saved) =>
      if x.2.crew.serial = serial then (x.1, { x.2 with fibres := x.2.fibres.map (fun (y : Nat × Fibre) =>
        if fibreNumber y.1 % 64 = fibreNumber fk % 64 then (y.1, g y.2) else y) }) else x) }
    match t.saved.find? (fun x => x.2.crew.serial == serial) with
    | some x => patchRecords t x.2 fk
    | none => t

/-- A flag falls and flags are set, in the fibre and in what a pending FENCE will restore: the operation was issued before it. -/
def Fibre.complete (f : Fibre) (flag : Option Nat) (fl : BitVec 6) : Fibre :=
  let g := (f.lower flag).orFlags fl
  { g with fence := g.fence.map (fun x =>
      let c := x.checkpoint
      { x with checkpoint := { c with
          aflags := c.aflags ||| fl.setWidth 64
          flags := match flag with | none => c.flags | some k => c.flags.set! k (c.flags[k]?.getD 0#4 - 1#4) } }) }

/-- An operation leaves the table: its flag falls and its flags are set. -/
def finishEngine (s : State) (id : Nat) (e : Engine) (fl : BitVec 6) : State :=
  onOwner { s with engines := del s.engines id } e.serial e.fibre (fun f => f.complete e.flag fl)

/-- A scalar-stream instruction whose memory ranges fail is parked or traps (R186, R187); `t` is the state after issue. -/
def rangeFail (t : State) (f : Fibre) (w : Want) (y : Word × Fail) : State := scalarFail t (replayAfter f) y.1 y.2 w

end Sys2Proof.Machine
end

