-- ==== Sys2Proof/Machine/Halting.lean ====
section
/-! DEFINITION. Halting crews (step 1 of R348), partition switches and flips (R214 to R216, R348), and the end of a mailbox command. -/

namespace Sys2Proof.Machine

/-! ### Halting -/

/-- Waits are abandoned (R178): SPC is at the instruction, which issues again. FWAIT and CLSWAIT have passed SPC and go on waiting. -/
def Fibre.abandonWait (f : Fibre) : Fibre := { f with sStall := none, lStall := none, sWait := f.issuedWait }

/-- A fibre stops at an instruction boundary: speculation is rolled back, and waits are abandoned, a pending FENCE among them. -/
def haltFibre (s : State) (fk : Nat) : State := onFibre (undoFence s fk) fk Fibre.abandonWait

/-- Every fibre of a crew stops. -/
def haltCrew (s : State) (bk : Nat) : State := (crewFibres s bk).foldl haltFibre s

/-- A bank's running crew stops, and the bank is Halted (R214). -/
def haltBank (s : State) (bk : Nat) : State := onBank (haltCrew s bk) bk (fun b => { b with state := .halted })

/-- Every crew that runs in an active bank and satisfies a condition stops. -/
def haltCrews (s : State) (p : Crew → Bool) : State :=
  ((s.crews.filter (fun x => x.2.state == .running && (bankOf s x.1).state == .running && activeBank s (x.1 % 1024) == x.1 && p x.2)).map (·.1)).foldl
    haltBank s

/-- Whether the partition of a context is active (R348). -/
def partitionActive (s : State) (n : Nat) : Bool :=
  match (lookup s.contexts n).bind (fun c => lookup s.partitions c.partition) with
  | some p => p.active
  | none => true

/-- A Halted bank runs again where nothing holds it any more: it is the active one, no flip is asked for, its partition is active, no emergency stop
holds, and its crew's crossing is not paused (R215, R348, R368, R416). -/
def unhaltBank (s : State) (bk : Nat) : State :=
  match lookup s.crews bk with
  | none => s
  | some w =>
    if (bankOf s bk).state == .halted && activeBank s (bk % 1024) == bk && !(coreOf s (bk % 1024)).flipWanted && partitionActive s w.ctx && !s.health.stop &&
        !pausedContext s w.ctx then
      onBank s bk (fun b => { b with state := .running })
    else s

/-- The same for every crew. -/
def unhaltBanks (s : State) : State := (s.crews.map (·.1)).foldl unhaltBank s

/-! ### The mailbox (R362) -/

/-- The running command ends with a status and a response; MAILBOX_COMPLETE then clears BUSY. -/
def respond (s : State) (status : Nat) (response : List Byte) : State :=
  { s with mailbox := { s.mailbox with switching := false, finished := some (BitVec.ofNat 8 status), response := putBytes [] 0 response } }

/-! ### Partition switches (R348) -/

/-- The other partition of a partition's die set (R365). -/
def partnerOf (s : State) (p : Nat) : Option Nat :=
  match lookup s.partitions p with
  | none => none
  | some a => (s.partitions.find? (fun x => x.1 != p && x.2.dies == a.dies)).map (·.1)

/-- The cores of a set of dies. -/
def dieCores (dies : List Nat) : List Nat := dies.flatMap (fun d => (List.range 128).map (d * 128 + ·))

/-- A core that is not retired is asked to flip: its crew, where it runs, is halted. A request that finds an earlier one still waiting takes that one back. -/
def requestFlip (s : State) (g : Nat) : State :=
  let k := activeBank s g
  if (coreOf s g).retired then unhaltBank s k
  else if (coreOf s g).flipWanted then
    unhaltBank (onCore s g (fun c => { c with flipWanted := false })) k
  else
    let t := onCore s g (fun c => { c with flipWanted := true })
    match lookup t.crews k with
    | some w => if w.state = .running then haltBank t k else t
    | none => t

/-- A switch to partition `p` begins (R348): the halted partition's records are no longer popped. -/
def beginSwitch (s : State) (p : Nat) : State :=
  match lookup s.partitions p, partnerOf s p with
  | some a, some q =>
    let t := { s with partitions := alter (alter s.partitions p (fun x => { x with active := true })) q (fun x => { x with active := false }) }
    (dieCores a.dies).foldl requestFlip t
  | _, _ => s

/-- Whether a flip is still to come on some core. -/
def flipsWanted (s : State) : Bool := s.cores.any (fun c => c.2.flipWanted)

/-- A SWITCH_PARTITION that has begun completes when every core has flipped (R364). -/
def settleSwitch (s : State) : State := if s.mailbox.switching && !flipsWanted s then respond s 0 [] else s

/-- A member of a paused crossing resumes once it has switched back (R416): its chunks, its crews and its batch closes go on, these with the TIME of
now. -/
def settleResume (s : State) (key n : Nat) : State :=
  match lookup s.pauses key, lookup s.contexts n with
  | some p, some c =>
    if p.resuming && !(dieCores (diesOf s c)).any (fun g => (coreOf s g).flipWanted) then
      unhaltBanks { s with
        pauses := del s.pauses key
        sessions := s.sessions.map (fun x => if x.ctx = n then { x with resumed := s.ptp.toNat } else x) }
    else s
  | _, _ => s

/-- The same for every member. -/
def settleResumes (s : State) : State := s.contexts.foldl (fun t x => settleResume t (crossingKey x.1 x.2) x.1) s

/-- BANK_FLIP (R215): the active and standby banks of core `g` are exchanged, once the active one is Empty or Halted and the standby one is not
Staging; a halted crew that becomes active runs. A retired core takes part in no flip (R220). -/
def execBankFlip (g : Nat) (s : State) : Out :=
  let c := coreOf s g
  if !c.flipWanted || c.retired || c.staging || (bankOf s (activeBank s g)).state == .running then .next s
  else
    let t := countCore (onCore s g (fun c => { c with side := 1 - c.side, flipWanted := false })) g 0x15 1
    .next (settleResumes (settleSwitch (unhaltBank t (activeBank t g))))

end Sys2Proof.Machine
end

