-- ==== Sys2Proof/Machine/Tiles.lean ====
section
/-! DEFINITION. Tile, matrix and accumulator instructions (R222 to R238) and PUBLISH (R246): their checks at issue, and what each does
when it completes. -/

namespace Sys2Proof.Machine

/-! ### Descriptors and format blocks (R228, R232) -/

/-- A crew's register is written, or the instruction traps with a cause. -/
def setShared (sw : Bool) (y : BitVec 6) (ok : Word → Bool) (c : Cause) (g : Word → Crew → Crew) (s : State) : Out :=
  unfenced sw [y] s (fun h =>
    let v := h.f.readS y
    if ok v then .next (onCur (onCrew (issueScalar s h.f.spc 1 0) (bankOfFibre s.cur) (g v)) Fibre.next4)
    else trapIssued s h.f c)

/-- TDSET (R228). -/
def execTdset (sw : Bool) (i : BitVec 4) (y : BitVec 6) (s : State) : Out :=
  setShared sw y (fun v => tdOk v && wfld v 20 44 == 0) .tileShape (fun v w => { w with td := w.td.set i.toNat v i.isLt }) s

/-- TDGET (R228). -/
def execTdget (sw : Bool) (i : BitVec 4) (y : BitVec 6) (s : State) : Out :=
  unfenced sw [] s (fun h => .next (onCur (issueScalar s h.f.spc 1 0) (fun f => (f.writeS y (h.w.td[i.toNat]'i.isLt)).next4)))

/-- FBSET (R232). -/
def execFbset (sw : Bool) (j : BitVec 2) (y : BitVec 6) (s : State) : Out :=
  setShared sw y (fun v => fbOk v && wfld v 0 1 == 0) .formatBlock (fun v w => { w with fb := w.fb.set j.toNat v j.isLt }) s

/-! ### The matrix unit's moves -/

/-- An instruction of the matrix unit that needs no check (R229, R237). -/
def matrixOp (sw : Bool) (f : BitVec 4) (reads : List (BitVec 6)) (op : Here → EngineOp) (s : State) : Out :=
  longLatency sw f reads (some .matrix) s (fun h =>
    .next (startEngine (issueScalar s h.f.spc 1 0) h f (op h)))

/-- TZERO (R229). -/
def execTzero (sw : Bool) (i f : BitVec 4) (s : State) : Out := matrixOp sw f [] (fun _ => .tzero i.toNat) s

/-- ACCZ (R237). -/
def execAccz (sw : Bool) (i : BitVec 3) (y : BitVec 6) (f : BitVec 4) (s : State) : Out :=
  matrixOp sw f [y] (fun h => .accz i.toNat ((h.f.readS y).setWidth 32)) s

/-- ACCMV (R237). -/
def execAccmv (sw : Bool) (x y : BitVec 3) (f : BitVec 4) (s : State) : Out :=
  matrixOp sw f [] (fun _ => .accMove x.toNat y.toNat) s

/-- ACCLD and ACCST (R237). -/
def accMemory (sw : Bool) (f : BitVec 4) (y z : BitVec 6) (op : Nat → Nat → EngineOp) (s : State) : Out :=
  longLatency sw f [y, z] (some .matrix) s (fun h =>
    let a := localAddress (h.f.readS y)
    let n := (h.f.readS z).toNat
    if n = 0 ∨ 8192 < n then trapIssued s h.f .tileShape
    else if (localPlaces s (bankOfFibre s.cur) a (4 * n)).isNone then trapIssuedAt s h.f .scratchRange a
    else if a % 4 ≠ 0 then trapIssuedAt s h.f .memAlign a
    else .next (startEngine (issueScalar s h.f.spc 1 (peerLines a (4 * n))) h f (op a n)))

/-- ACCLD (R237). -/
def execAccld (sw : Bool) (i : BitVec 3) (y : BitVec 6) (f : BitVec 4) (z : BitVec 6) (s : State) : Out :=
  accMemory sw f y z (.accLoad i.toNat) s

/-- ACCST (R237). -/
def execAccst (sw : Bool) (i : BitVec 3) (y : BitVec 6) (f : BitVec 4) (z : BitVec 6) (s : State) : Out :=
  accMemory sw f y z (.accStore i.toNat) s

/-- The deck-peer lines of some local ranges, each line counted once (R224). -/
def rangesToll (l : List (Nat × Nat)) : Nat := linesTouched ((l.flatMap (fun x => (List.range x.2).map (x.1 + ·))).filter isPeer)

/-- ACCCVT (R238). -/
def execAcccvt (sw : Bool) (j : BitVec 2) (i : BitVec 3) (y : BitVec 6) (f : BitVec 4) (z : BitVec 6) (s : State) : Out :=
  longLatency sw f [y, z] (some .matrix) s (fun h =>
    let w := h.w.fb[j.toNat]'j.isLt
    let a := localAddress (h.f.readS y)
    let n := wfld (h.f.readS z) 0 16
    let m := wfld (h.f.readS z) 16 16
    let bk := bankOfFibre s.cur
    let dests := convertDests w a (m * n)
    if !cvtBlockOk w then trapIssued s h.f .formatBlock
    else if m = 0 ∨ n = 0 ∨ 8192 < m * n ∨ n % (if fbSCA w then fbBLA w else 16) ≠ 0 ∨ wfld (h.f.readS z) 32 32 ≠ 0 then
      trapIssued s h.f .tileShape
    else
      match badRange s bk dests with
      | some v => trapIssuedAt s h.f .scratchRange v
      | none => .next (startEngine (issueScalar s h.f.spc 1 (rangesToll dests)) h f (.accConvert i.toNat a m n w)))

/-! ### Tile transfers (R230) -/

/-- The first byte of each row. -/
def rowStarts (base stride : Word) (rows : Nat) : List Word := (List.range rows).map (fun r => base + BitVec.ofNat 64 r * stride)

/-- The lines of memory that rows touch, each counted once. -/
def rowLines (rb : Nat) (l : List (Word × Except (Word × Fail) (List Spot))) : Nat := linesTouched (l.flatMap (fun x => memoryBytes x.1 rb x.2))

/-- The pages of ranges that all translate. -/
def pagesOfAll (l : List (Word × Except (Word × Fail) (List Spot))) : Tab Page :=
  l.foldl (fun t x => match x.2 with | .ok y => (pagesOf x.1 y).foldl (fun t z => put t z.1 z.2) t | .error _ => t) []

/-- A tile transfer: its shape, its rows' ranges, and its issue. -/
def tileTransfer (sw : Bool) (i : BitVec 4) (y : BitVec 6) (f : BitVec 4) (z : BitVec 6) (w : Want) (loc : Bool) (s : State) : Out :=
  longLatency sw f [y, z] (some .tilePath) s (fun h =>
    let d := h.w.td[i.toNat]'i.isLt
    let rb := tdRowBytes d
    let starts := rowStarts (h.f.readS y) (if z = 0#6 then BitVec.ofNat 64 rb else h.f.readS z) (tdRows d)
    let op (rows : List Nat) : EngineOp := if w = .read then .tileLoad i.toNat rb rows loc else .tileStore i.toNat rb rows loc
    if !tdOk d then trapIssued s h.f .tileShape
    else if loc then
      let rows := starts.map localAddress
      let bk := bankOfFibre s.cur
      match rows.find? (fun a => (localPlaces s bk a rb).isNone || localRegion a != localRegion (rows.headD 0)) with
      | some a => trapIssuedAt s h.f .scratchRange a
      | none =>
        .next (startEngine (issueScalar s h.f.spc 1 (rangesToll (rows.map (fun a => (a, rb))))) h f (op rows))
    else
      let t := walkedRanges s h.env starts rb
      let reach := starts.map (fun v => engineSpots t h.env v rb w)
      let lines := rowLines rb (starts.zip reach)
      match firstFailure reach with
      | some x => .next (rangeFail (issueAccess t h.f (if x.2.waits x.1 (replayAfter h.f) then lines else 0)) h.f w x)
      | none =>
        .next (startOn (starts.foldl (fun t v => remember t h.env v) (issueAccess t h.f lines)) h f (op (starts.map (·.toNat))) (pagesOfAll (starts.zip reach))))

/-- TLD (R230). -/
def execTld (sw : Bool) (i : BitVec 4) (y : BitVec 6) (f : BitVec 4) (z : BitVec 6) (s : State) : Out :=
  tileTransfer sw i y f z .read false s
/-- TST (R230). -/
def execTst (sw : Bool) (i : BitVec 4) (y : BitVec 6) (f : BitVec 4) (z : BitVec 6) (s : State) : Out :=
  tileTransfer sw i y f z .write false s
/-- TLDL (R230). -/
def execTldl (sw : Bool) (i : BitVec 4) (y : BitVec 6) (f : BitVec 4) (z : BitVec 6) (s : State) : Out :=
  tileTransfer sw i y f z .read true s
/-- TSTL (R230). -/
def execTstl (sw : Bool) (i : BitVec 4) (y : BitVec 6) (f : BitVec 4) (z : BitVec 6) (s : State) : Out :=
  tileTransfer sw i y f z .write true s

/-! ### MMA and MMAS (R233 to R236) -/

/-- A matrix product: its checks in the order of R223, and its issue; K is dense. -/
def product (sw : Bool) (j : BitVec 2) (i : BitVec 3) (y f z : BitVec 4) (density : Option Nat) (s : State) : Out :=
  longLatency sw f [] (some .matrix) s (fun h =>
    let w := h.w.fb[j.toNat]'j.isLt
    let a := h.w.td[y.toNat]'y.isLt
    let b := h.w.td[z.toNat]'z.isLt
    let m := tdRows a
    let k := match density with | some d => tdCols a * 8 / d | none => tdCols a
    let n := tdCols b
    let bk := bankOfFibre s.cur
    if !fbOk w || !fbAccepted w || (density.isSome && !fbSparse w) then trapIssued s h.f .formatBlock
    else if !tdOk a || !tdOk b || tdRows b != k || ewWidth a != packedWidth (fbFA w) (fbI4A w) ||
        ewWidth b != packedWidth (fbFB w) (fbI4B w) || decide (8192 < m * n) ||
        ((wfld w 57 1 == 1 || wfld w 58 1 == 1) && k % 32 != 0) || (density.isSome && decide (16384 < m * k / 8 * 2)) then
      trapIssued s h.f .tileShape
    else
      match badRange s bk [(fbSADA w, if fbSCA w then 2 * (m * (k / fbBLA w)) else 0), (fbSADB w, if fbSCB w then 2 * (k / fbBLB w * n) else 0)] with
      | some v => trapIssuedAt s h.f .scratchRange v
      | none => .next (startEngine (issueScalar s h.f.spc (k / 16) 0) h f (.mma i.toNat y.toNat z.toNat m n k w density)))

/-- MMA (R234). -/
def execMma (sw : Bool) (j : BitVec 2) (i : BitVec 3) (y f z : BitVec 4) (s : State) : Out := product sw j i y f z none s

/-- MMAS (R235): density 0 is 2-of-8, 1 is 4-of-8. -/
def execMmas (sw : Bool) (n : BitVec 1) (j : BitVec 2) (i : BitVec 3) (y f z : BitVec 4) (s : State) : Out :=
  product sw j i y f z (some (if n = 0#1 then 2 else 4)) s

/-! ### PUBLISH (R246) -/

/-- The address of each page of a PUBLISH range. -/
def publishPages (v n : Word) : List Word := (List.range (n.toNat / 2 ^ 19)).map (fun k => v + BitVec.ofNat 64 (k * 2 ^ 19))

/-- PUBLISH (R246): its range is checked, then its translations for writing. -/
def execPublish (sw : Bool) (x y : BitVec 6) (f : BitVec 4) (s : State) : Out :=
  longLatency sw f [x, y] none s (fun h =>
    let v := h.f.readS x
    let n := h.f.readS y
    if n = 0#64 ∨ v.toNat % 2 ^ 19 ≠ 0 ∨ n.toNat % 2 ^ 19 ≠ 0 ∨ 2 ^ 55 < n.toNat then trapIssued s h.f .publishRange
    else
      let t := walkedRanges s h.env (publishPages v n) 1
      let reach := (publishPages v n).map (fun p => engineSpots t h.env p 1 .write)
      if (spotsOf reach).any (fun p => !p.page.shadowed) then trapIssued t h.f .publishRange
      else
        match firstFailure reach with
        | some z => .next (rangeFail (issueAccess t h.f 0) h.f .write z)
        | none => .next (startEngine (issueAccess t h.f 0) h f (.publish v n false)))

/-! ### Completion (R225, R226) -/

/-- The matrix unit performs its operations in issue order, each with all its effects (R226). -/
def mustWait (s : State) (id : Nat) (e : Engine) : Bool :=
  e.op.matrix && s.engines.any (fun x => decide (x.1 < id) && x.2.bank == e.bank && x.2.op.matrix)

/-! ### The exchange of a PUBLISH (R246, R247) -/

/-- Whether an operation writes memory outside its core. -/
def EngineOp.writesMemory (op : EngineOp) : Bool :=
  match op with
  | .tileStore .. | .accStore .. | .accConvert .. | .copy .. | .nred .. => true
  | _ => false

/-- The leaves of a range: the place of each entry and its value; none where a walk fails. -/
def leafOf (s : State) (v : Word) (n table : Nat) : Option (Nat × Word) :=
  match n with
  | 0 => none
  | n + 1 =>
    let p := table + 8 * levelIndex v n
    let e := BitVec.ofNat 64 (numberAt s p 8)
    if wfld e 0 1 = 0 then none
    else if wfld e 1 1 = 1 then (if leafOk n e then some (p, e) else none)
    else if tableOk n e then leafOf s v n (wfld e 12 40 * 2 ^ 12)
    else none

/-- Every TLB entry of the package that holds an entry at one of some places is removed (R283). -/
def dropLeaves (s : State) (places : List Nat) : State := { s with tlb := s.tlb.filter (fun t => !decide (t.place ∈ places)) }

/-- Fibres that hold stores past a FENCE of which `hit` is true are rolled back: they translate again when they store again (R286, R291, R312). -/
def unhold (s : State) (hit : Nat × Fibre → HeldStore → Bool) : State :=
  s.fibres.foldl (fun t e => match e.2.fence with
    | some x => if x.stores.any (hit e) then rollback t e.1 else t
    | none => t) s

/-- Whether a held store lies in one of some frames of 512 KiB. -/
def HeldStore.inFrames (h : HeldStore) (frames : List Nat) : Bool := h.cells.any (fun c => decide (c.1 / 2 ^ 19 ∈ frames))

/-- Pages and bytes captured by a later shadow write of the publishing crew go on to the new shadow frames. -/
def Engine.republished (e : Engine) (frames : List Nat) : Engine :=
  let turned (y : Page) (p : Nat) : Bool := y.shadowed && decide (p / 2 ^ 19 ∈ frames)
  { e with
    pages := e.pages.map (fun x => if turned x.2 x.2.frame then (x.1, { x.2 with frame := twinFrame x.2.frame }) else x)
    arrivals := e.arrivals.map (fun a => { a with stores := a.stores.map (fun x =>
      if turned x.1.page x.1.phys then ({ x.1 with phys := twinFrame x.1.phys, place := some (twinFrame x.1.phys) }, x.2) else x) }) }

/-- Whether an earlier shadow write of a crew is still to be placed (R246): by an engine, or by a fabric operation whose acknowledgements are out. -/
def shadowPending (s : State) (id : Nat) (e : Engine) : Bool :=
  s.engines.any (fun x => decide (x.1 < id) && x.2.serial == e.serial && x.2.op.writesMemory) ||
    s.fabricOps.any (fun o => decide (o.1 < id) && o.2.serial == e.serial)

/-- PUBLISH_EXCHANGE (R246): once every earlier shadow write of the crew has been placed, all the pages exchange their frames in one step and leave
every TLB; readers past a FENCE conflict as with any write of what they read (R312). -/
def execPublishExchange (id : Nat) (s : State) : Out :=
  match lookup s.engines id with
  | none => .next s
  | some e =>
    match e.op with
    | .publish v n false =>
      if shadowPending s id e then .next s
      else
        match e.env s with
        | none => .next { s with engines := put s.engines id { e with op := .publish v n true } }
        | some env =>
          let leaves := ((publishPages v n).filterMap (fun p => leafOf s p 4 env.root)).filter (fun x => wfld x.2 7 1 == 1)
          let t := write s none (leaves.flatMap (fun x => numberCells x.1 8 (x.2 ^^^ BitVec.twoPow 64 16).toNat))
          let frames := leaves.flatMap (fun x => [wfld x.2 19 33, wfld x.2 19 33 + 1])
          let u := dropLeaves (conflict t ((frames.flatMap (fun k => (List.range 8192).map (fun i => k * 8192 + i))))) (leaves.map (·.1))
          let later (x : Nat × Engine) : Nat × Engine :=
            if decide (id < x.1) && x.2.serial == e.serial && x.2.op.writesMemory then (x.1, x.2.republished frames) else x
          .next { u with engines := put (u.engines.map later) id { e with op := .publish v n true } }
    | _ => .next s

end Sys2Proof.Machine
end

