-- ==== Sys2Proof/Machine/Paging.lean ====
section
/-! DEFINITION. Cache control (R261), TLB invalidation (R285, R286), page requests and the replay of what they park (R187, R287, R288, R360),
frame swapping (R290, R291) and the near-memory reduction unit (R292 to R294). -/

namespace Sys2Proof.Machine

/-! ### CWB, CINV and CPF -/

/-- An instruction that starts an operation with no check but for the flag. -/
def startOnly (sw : Bool) (f : BitVec 4) (reads : List (BitVec 6)) (bm : Here → Nat) (op : Here → EngineOp) (s : State) : Out :=
  longLatency sw f reads none s (fun h => .next (startEngine (issueScalar s h.f.spc 1 (bm h)) h f (op h)))

/-- The aligned blocks of 2^k bytes that [v, v + n) overlaps, modulo 2^64. -/
def rangeBlocks (v : Word) (n k : Nat) : List Word :=
  if n = 0 then [] else (List.range ((v.toNat % 2 ^ k + n - 1) / 2 ^ k + 1)).map (fun i => BitVec.ofNat 64 ((v.toNat / 2 ^ k + i) * 2 ^ k))

/-- CWB (R261). -/
def execCwb (sw : Bool) (x y : BitVec 6) (f : BitVec 4) (s : State) : Out :=
  startOnly sw f [x, y] (fun _ => 0) (fun h => .cache 2 (h.f.readS x) (wfld (h.f.readS y) 0 32)) s

/-- CINV (R261). -/
def execCinv (sw : Bool) (x y : BitVec 6) (f : BitVec 4) (s : State) : Out :=
  startOnly sw f [x, y] (fun _ => 0) (fun h => .cache 3 (h.f.readS x) (wfld (h.f.readS y) 0 32)) s

/-- CPF (R261). -/
def execCpf (sw : Bool) (x y : BitVec 6) (f : BitVec 4) (s : State) : Out :=
  startOnly sw f [x, y] (fun h => (rangeBlocks (h.f.readS x) (wfld (h.f.readS y) 0 32) 6).length)
    (fun h => .cache 4 (h.f.readS x) (wfld (h.f.readS y) 0 32)) s

/-- The action on one line: the line is written home, removed or fetched; one that cannot be cached is skipped. -/
def cacheLine (cluster fn : Nat) (env : Env) (s : State) (v : Word) : State :=
  match translate s env v .read true with
  | .error _ => countCluster s cluster 0x0D 1
  | .ok p =>
    let phys := p.frame + v.toNat % 2 ^ 19
    if p.policy = 1 ∨ inWindow phys then countCluster s cluster 0x0D 1
    else
      let line := phys / 128
      let mine (x : L2Line) : Bool := x.cluster == cluster && x.line == line
      if fn = 2 then { s with l2 := s.l2.map (fun x => if mine x then { x with dirty := 0#2 } else x) }
      else if fn = 3 then { s with l2 := s.l2.filter (fun x => !mine x) }
      else [2 * line, 2 * line + 1].foldl (holdSector false cluster) s

/-- CACHE_RANGE_COMPLETE (R261): every line of the range has been processed or skipped. -/
def execCacheRangeComplete (id : Nat) (s : State) : Out :=
  match lookup s.engines id with
  | none => .next s
  | some e =>
    match e.op with
    | .cache fn v n =>
      match e.env s with
      | none => .next (finishEngine s id e 0#6)
      | some env => .next (finishEngine ((rangeBlocks v n 7).foldl (cacheLine (e.bank % 1024 / 8) fn env) s) id e 0#6)
    | _ => .next s

/-! ### TLBINV and TLBINVA -/

/-- A privileged instruction of the system group (R62). -/
def privileged (sw : Bool) (f : BitVec 4) (reads : List (BitVec 6)) (s : State) (body : Here → Out) : Out :=
  longLatency sw f reads none s (fun h => if h.w.own.priv then body h else trapIssued s h.f .privileged)

/-- The context that Y names: the issuing one for Y = 0. -/
def namedContext (h : Here) (y : BitVec 6) : Nat := if y = 0#6 then h.w.ctx else wfld (h.f.readS y) 0 32

/-- TLBINV (R286). -/
def execTlbinv (sw : Bool) (x y : BitVec 6) (f : BitVec 4) (s : State) : Out :=
  privileged sw f [x, y] s (fun h =>
    .next (startEngine (issueScalar s h.f.spc 1 0) h f (.tlbInvalidate (namedContext h y) (some (h.f.readS x)) false)))

/-- TLBINVA (R286). -/
def execTlbinva (sw : Bool) (y : BitVec 6) (f : BitVec 4) (s : State) : Out :=
  privileged sw f [y] s (fun h => .next (startEngine (issueScalar s h.f.spc 1 0) h f (.tlbInvalidate (namedContext h y) none true)))

/-- The entries that a TLBINV or TLBINVA removes: none for a context that does not exist or an address that is not canonical. -/
def removedEntries (s : State) (n : Nat) (a : Option Word) : List TlbEntry :=
  if (lookup s.contexts n).isNone then []
  else
    match a with
    | none => s.tlb.filter (fun t => t.ctx == n)
    | some v => if canonical v then s.tlb.filter (fun t => t.ctx == n && t.tag == tlbTag v t.level) else []

/-- Whether an operation still has accesses to make that an entry of a list has translated. -/
def Engine.uses (e : Engine) (l : List TlbEntry) : Bool :=
  e.pages.any (fun x => l.any (fun t => t.ctx == e.ctx && t.tag == tlbTag (BitVec.ofNat 64 (x.1 * 2 ^ 19)) t.level)) ||
    (!e.arrivals.isEmpty && l.any (fun t => t.ctx == e.ctx))

/-- TLBINV_COMPLETE (R286): every TLB has removed the entries, once the accesses that they translated have been performed; stores held past a FENCE
are issued again. -/
def execTlbinvComplete (id : Nat) (s : State) : Out :=
  match lookup s.engines id with
  | none => .next s
  | some e =>
    match e.op with
    | .tlbInvalidate n a _ =>
      let l := removedEntries s n a
      if s.engines.any (fun x => x.2.uses l) then .next s
      else
        let t := if l.isEmpty then s
          else unhold { s with tlb := s.tlb.filter (fun x => !decide (x ∈ l)) } (fun x _ => (lookup s.crews (bankOfFibre x.1)).map (·.ctx) == some n)
        .next (finishEngine t id e 0#6)
    | _ => .next s

/-! ### Page requests (R287, R288, R360) -/

/-- The place of a host physical address (R275). -/
def hostPlace (a : Nat) : Nat := 0x2000_0000_0000 + a

/-- A byte at a host physical address; one beyond the host region of R275 is free. -/
def hostMemoryByte (s : State) (a : Nat) : Byte := if inHost (hostPlace a) then byteAt s (hostPlace a) else Config.freeByte s.tick (hostPlace a)

/-- The cells of bytes at a host physical address; those beyond the host region of R275 are nowhere. -/
def hostCells (a : Nat) (l : List Byte) : List (Nat × Byte) := (cells (hostPlace a) l).filter (fun c => inHost c.1)

/-- The 32 bytes of a request. -/
def Request.bytes (r : Request) (die : Nat) : List Byte :=
  leBytes 8 r.addr.toNat ++ leBytes 4 r.ctx ++ leBytes 2 r.gen.toNat ++ leBytes 2 r.number ++ leBytes 1 r.kind ++ leBytes 1 r.access ++
    leBytes 1 r.level ++ leBytes 1 die ++ leBytes 12 0

/-- PAGE_REQUEST_POST (R287, R360): the oldest waiting request is written at PRQTAIL, while the ring is enabled and has room and fewer than
512 requests are held. -/
def execPageRequestPost (die : Nat) (s : State) : Out :=
  let d := dieState s die
  match d.requests.find? (fun r => r.posted.isNone) with
  | none => .next s
  | some r =>
    if d.prqBase = 0#64 || (d.prqTail + 1) % 512 == d.prqHead || decide (512 ≤ (d.requests.filter (fun r => r.posted.isSome)).length) then .next s
    else
      let t := write s none (hostCells (d.prqBase.toNat + 32 * d.prqTail) (r.bytes die))
      let d' : Die := { d with
        prqTail := (d.prqTail + 1) % 512
        requests := d.requests.map (fun q => if q.number = r.number then { q with posted := some s.time } else q) }
      .next (countDie { t with dies := put t.dies die d', msix := (9 + die) :: t.msix } die 0x03 1)

/-- The outcome of a request told to what waits for it. -/
def Asked.told (die n : Nat) (ok : Bool) (a : Option Asked) : Option Asked :=
  a.map (fun x => if x.die = die ∧ x.request = n ∧ x.outcome.isNone then { x with outcome := some ok } else x)

/-- The outcome told to a fibre. -/
def Fibre.told (die n : Nat) (ok : Bool) (f : Fibre) : Fibre :=
  { f with
    routeAsked := Asked.told die n ok f.routeAsked
    parked := f.parked.map (fun x => if x.die = die ∧ x.request = n ∧ x.outcome.isNone then { x with outcome := some ok } else x) }

/-- A request ends: every waiter learns its outcome, a saved fibre's with the rest (R288). -/
def endRequest (s : State) (die n : Nat) (ok : Bool) : State :=
  let d := dieState s die
  { s with
    dies := put s.dies die { d with requests := d.requests.filter (fun r => r.number != n) }
    fibres := s.fibres.map (fun x => (x.1, x.2.told die n ok))
    saved := s.saved.map (fun x => (x.1, { x.2 with fibres := x.2.fibres.map (fun y => (y.1, y.2.told die n ok)) }))
    engines := s.engines.map (fun x => (x.1, { x.2 with asked := Asked.told die n ok x.2.asked }))
    fabricOps := s.fabricOps.map (fun x => (x.1, { x.2 with asked := Asked.told die n ok x.2.asked }))
    tokens := s.tokens.map (fun x => (x.1, { x.2 with asked := Asked.told die n ok x.2.asked })) }

/-- PAGE_REQUEST_REPLY (R287, R288, R360): a write of `data` to the reply port of a die. -/
def execPageRequestReply (die : Nat) (data : List Byte) (s : State) : Out :=
  let n := leNat data
  let status := fld n 64 8
  if data.length ≠ 16 ∨ 2 ≤ status ∨ fld n 72 56 ≠ 0 then .next (countPackage s 0x06 1)
  else
    let d := dieState s die
    match d.requests.find? (fun r => r.number == fld n 0 16 && r.gen.toNat == fld n 16 16 && r.ctx == fld n 32 32 && r.posted.isSome) with
    | none => .next (countDie s die 0x05 1)
    | some r => .next (endRequest s die r.number (status == 0))

/-- PAGE_REQUEST_TIMEOUT (R288): 100 ms of real time after its posting (R367) a request ends as refused. -/
def execPageRequestTimeout (die req : Nat) (s : State) : Out :=
  match (dieState s die).requests.find? (fun r => r.number == req) with
  | none => .next s
  | some r =>
    match r.posted with
    | none => .next s
    | some t => .next (if t + 100000000 ≤ s.time then countDie (endRequest s die req false) die 0x06 1 else s)

/-- PARKED_REPLAY (R187): the request that a parked fibre waited for has ended: the fibre is ready to replay, or it traps. A fibre saved while parked
keeps the outcome until it resumes (R288). -/
def execParkedReplay (g : Nat) (s : State) : Out :=
  match lookup s.fibres g, lookup s.crews (bankOfFibre g) with
  | some f, some w =>
    match f.parked with
    | none => .next s
    | some p =>
      if w.state ≠ .running ∨ crewRuns s (bankOfFibre g) w = false then .next s
      else
      match p.outcome with
      | none => .next s
      | some true =>
        .next (onFibre s g (fun f =>
          if p.fetch then { f with parked := none, fetchOf := some (p.lane, p.level, p.addr) }
          else if p.lane then { f with parked := none, lReplay := some p.mask, replayOf := some (p.level, p.addr) }
          else { f with parked := none, sReplay := some p.mask, replayOf := some (p.level, p.addr) }))
      | some false =>
        .next (takeTrapOf (onFibre s g (fun f => { f with parked := none })) g p.word p.lane
          { cause := .memTranslate, addr := p.first, mask := p.mask })
  | _, _ => .next s

/-- PRQBASE_WRITE (R360): the base of a die's ring, aligned to 16 KiB; 0 disables it. -/
def execPrqbaseWrite (die : Nat) (v : Word) (s : State) : Out :=
  .next { s with dies := put s.dies die { dieState s die with prqBase := v &&& ~~~0x3FFF#64 } }

/-- PRQHEAD_WRITE (R360). -/
def execPrqheadWrite (die : Nat) (v : Word) (s : State) : Out :=
  .next { s with dies := put s.dies die { dieState s die with prqHead := wfld v 0 9 } }

/-! ### SWAPF -/

/-- A leaf that SWAPF accepts (R290). -/
def swapLeafOk (e : Word) : Bool := wfld e 0 2 == 3 && leafOk 0 e && wfld e 7 1 == 0 && wfld e 8 1 == 0

/-- The frame address of a leaf. -/
def entryFrame (e : Word) : Nat := wfld e 19 33 * 2 ^ 19

/-- The operands of a SWAPF, in the cases of R290. -/
def swapOk (s : State) (x y : Word) : Bool :=
  let e1 := BitVec.ofNat 64 (numberAt s x.toNat 8)
  let e2 := BitVec.ofNat 64 (numberAt s y.toNat 8)
  let at' (v : Word) : Bool := v.toNat % 8 == 0 && inDevice v.toNat
  at' x && at' y && x != y && !unitPoisoned s x.toNat && !unitPoisoned s y.toNat && swapLeafOk e1 && swapLeafOk e2 && wfld e1 52 12 == wfld e2 52 12 &&
    entryFrame e1 != entryFrame e2 && (wfld e1 15 1 == 0 || inDevice (entryFrame e2)) && (wfld e2 15 1 == 0 || inDevice (entryFrame e1))

/-- SWAPF (R290). -/
def execSwapf (sw : Bool) (x y : BitVec 6) (f : BitVec 4) (s : State) : Out :=
  privileged sw f [x, y] s (fun h =>
    let a := h.f.readS x
    let b := h.f.readS y
    let s1 := meet s (((List.range 8).map (a.toNat + ·) ++ (List.range 8).map (b.toNat + ·)).filter inDevice)
    if swapFull s (coreOfFibre s.cur / 128) then .next (stallScalar s sw (.full .swap))
    else if !swapOk s1 a b then trapIssued s1 h.f .swapOperand
    else
      .next (startEngine (issueScalar s1 h.f.spc 1 0) h f
        (.swap a.toNat b.toNat (BitVec.ofNat 64 (numberAt s1 a.toNat 8)) (BitVec.ofNat 64 (numberAt s1 b.toNat 8)))))

/-- The key of the partition that a device address belongs to. -/
def dieKey (s : State) (p : Nat) : Nat :=
  match s.partitions.find? (fun x => x.2.active && decide (p / 2 ^ 37 ∈ x.2.dies)) with | some x => x.2.key | none => 0

/-- The spots of a sector of a frame; protected data is seen and stored under its own key, and a sector that nothing has written under
its partition's. -/
def swapSpots (s : State) (prot : Bool) (base : Nat) (seen : Nat) : List Spot :=
  let key := if prot then some (lookupD s.ciphered (seen / 64) (dieKey s seen)) else none
  (List.range 64).map (fun i => { phys := base + i, place := placeOf s (base + i), page := { localPage with key := key } })

/-- Whether a sector of a frame holds anything but plain zeros. -/
def sectorLive (s : State) (base : Nat) : Bool :=
  (List.range 64).any (fun i => match placeOf s (base + i) with
    | some p => byteAt s p != 0#8 || unitPoisoned s p || (if inStore p then unitMarked s p else (lookup s.memLatent (p / 64)).isSome)
    | none => false) || (lookup s.ciphered (base / 64)).isSome

/-- One sector of each frame exchanged: each keeps the attributes of the leaf through which it is reached. -/
def swapSector (bk : Nat) (e1 e2 : Word) (s : State) (k : Nat) : State :=
  let a := entryFrame e1 + 64 * k
  let b := entryFrame e2 + 64 * k
  if !sectorLive s a && !sectorLive s b then s
  else
    let p1 := wfld e1 15 1 == 1
    let p2 := wfld e2 15 1 == 1
    let r1 := engineRead s bk (swapSpots s p1 a a)
    let r2 := engineRead r1.1 bk (swapSpots s p2 b b)
    engineWrite (engineWrite r2.1 bk ((swapSpots s p1 b a).zip r1.2)) bk ((swapSpots s p2 a b).zip r2.2)

/-- Whether an operation still has accesses to make in one of some frames, by translations that it has made. -/
def Engine.inFrames (e : Engine) (frames : List Nat) : Bool :=
  e.pages.any (fun x => decide (x.2.frame / 2 ^ 19 ∈ frames)) || e.arrivals.any (fun a => a.stores.any (fun x => decide (x.1.phys / 2 ^ 19 ∈ frames)))

/-- Code words fetched from frames whose content is exchanged: what was fetched there is forgotten (R63). -/
def forgetCode (s : State) (frames : List Nat) : State :=
  { s with crews := s.crews.map (fun w => (w.1, { w.2 with code := w.2.code.filter (fun x => !decide (x.2.1 / 2 ^ 19 ∈ frames)) })) }

/-- SWAPF_EXCHANGE (R291): at one point the entries and the frames are exchanged, and both pages leave the TLBs; accesses translated before have
been made, and stores held past a FENCE are issued again. -/
def execSwapfExchange (id : Nat) (s : State) : Out :=
  match lookup s.engines id with
  | none => .next s
  | some e =>
    match e.op with
    | .swap x y e1 e2 =>
      let die := e.bank % 1024 / 128
      let frames := [wfld e1 19 33, wfld e2 19 33]
      if s.engines.any (fun o => decide (o.1 < id) && o.2.bank % 1024 / 128 == die && o.2.op.isSwap) || s.engines.any (fun o => o.2.inFrames frames) then .next s
      else
        let framed (a b : Word) : Nat := a.toNat - entryFrame a + entryFrame b
        let t := write s none (numberCells x 8 (framed e1 e2) ++ numberCells y 8 (framed e2 e1))
        let u := (List.range 8192).foldl (swapSector e.bank e1 e2) t
        let w := conflict u ((List.range 8192).flatMap (fun k => [entryFrame e1 / 64 + k, entryFrame e2 / 64 + k]))
        let z := dropLeaves (unhold w (fun _ h => h.inFrames frames)) [x, y]
        .next (finishEngine (countDie (forgetCode z frames) die 0x08 1) id e 0#6)
    | _ => .next s

/-! ### NRED -/

/-- The reductions of an element of a format (R293, R401): 0 ADD, 1 MIN, 2 MAX, 3 AND, 4 OR, 5 XOR; no flag is set. -/
def nearOp (op fmt m x : Nat) : Nat :=
  match fmtOf fmt with
  | some f =>
    match op with
    | 0 => (f.add m x .rne false 0).1
    | 1 => (f.select false m x).1
    | _ => (f.select true m x).1
  | none =>
    let less : Bool := intValue 32 (fmt == 10) m < intValue 32 (fmt == 10) x
    match op with
    | 0 => (m + x) % 2 ^ 32
    | 1 => if less then m else x
    | 2 => if less then x else m
    | 3 => m &&& x
    | 4 => m ||| x
    | _ => m ^^^ x

/-- The control word of a NRED (R292). -/
def nredOk (c : Word) : Bool :=
  let fmt := wfld c 56 4
  let n := wfld c 0 18
  decide (wfld c 61 3 ≤ 5) && wfld c 60 1 == 0 && wfld c 18 38 == 0 && decide (fmt ∈ [0, 1, 2, 10, 13]) &&
    !(decide (fmt ≤ 2) && decide (3 ≤ wfld c 61 3)) && n != 0 && decide (n ≤ 196608)

/-- The element width of a NRED in bytes. -/
def nredWidth (c : Word) : Nat := if wfld c 56 4 = 1 ∨ wfld c 56 4 = 2 then 2 else 4

/-- A page that a NRED may not update (R293, step 5). -/
def nredRefused (l : List Spot) : Bool := l.any (fun x => !inDevice x.phys || x.page.collective.isSome)

/-- NRED (R292, R293). -/
def execNred (sw : Bool) (x y : BitVec 6) (f : BitVec 4) (z : BitVec 6) (s : State) : Out :=
  longLatency sw f [x, y, z] (some .nred) s (fun h =>
    let v := h.f.readS x
    let a := localAddress (h.f.readS y)
    let c := h.f.readS z
    let w := nredWidth c
    let n := wfld c 0 18
    if !nredOk c then trapIssued s h.f .nredOperand
    else if v.toNat % w ≠ 0 then trapIssuedAt' s h.f .memAlign v
    else if (localPlaces s (bankOfFibre s.cur) a (n * w)).isNone then trapIssuedAt s h.f .scratchRange a
    else
      let lines := linesTouched ((rangeBlocks v (n * w) 6).map (·.toNat))
      let t := walkedRange s h.env v (n * w)
      match spots t h.env v (n * w) .write true with
      | .error q => .next (rangeFail (issueAccess t h.f (if q.2.waits q.1 (replayAfter h.f) then lines else 0)) h.f .write q)
      | .ok l =>
        if nredRefused l then trapIssued t h.f .nredOperand
        else .next (startOn (remember (issueAccess t h.f lines) h.env v) h f (.nred v a c (List.range n)) (pagesOf v l)))
where
  /-- A trap whose frame holds a virtual address. -/
  trapIssuedAt' (s : State) (f : Fibre) (c : Cause) (v : Word) : Out := .next (trapScalar (issueAccess s f 0) c v)

/-- One element applied at its controller; what meets poison places nothing and leaves the destination poisoned (R296). -/
def nredApply (s0 : State) (bk : Nat) (dst : List Spot) (src : List Spot) (c : Word) : State :=
  let s := holdSpots s0 (bk % 1024 / 8) dst true
  let r := engineRead s bk src
  let m := engineRead r.1 bk dst
  if !allRead m.2 then m.1
  else
    let op := wfld c 61 3
    let data : List (Option Byte) :=
      if allRead r.2 then (leBytes dst.length (nearOp op (wfld c 56 4) (readNumber m.2) (readNumber r.2))).map some
      else dst.map (fun _ => none)
    countController (engineWrite m.1 bk (dst.zip data)) ((dst.headD { phys := 0, place := none, page := localPage }).phys) 0x86 1

/-- NRED_ELEMENT (R293): element `i` of operation `id` is applied, by the translations of its issue; the last one lowers the flag. -/
def execNredElement (id i : Nat) (s : State) : Out :=
  match lookup s.engines id with
  | none => .next s
  | some e =>
    match e.op with
    | .nred v a c left =>
      if !decide (i ∈ left) then .next s
      else
        let w := nredWidth c
        let rest := left.filter (fun j => j != i)
        let s1 := if left.length = wfld c 0 18 then countPeerRange s e.bank a .load else s
        let t := nredApply s1 e.bank (splitShadow s1 e.serial (e.spots s1 (v + BitVec.ofNat 64 (i * w)) w)) (localSpotsD s1 e.bank (a + i * w) w) c
        let e' : Engine := { e with op := .nred v a c rest }
        .next (if rest.isEmpty then finishEngine t id e' 0#6 else { t with engines := put t.engines id e' })
    | _ => .next s

end Sys2Proof.Machine
end

