-- ==== Sys2Proof/Machine/SystemRegs.lean ====
section
/-! DEFINITION. System registers and their maps (R20, R34, R48, R49, R111, R143, R189, R198, R227, R232, R256, R277, R320, R333, R371, R383 to
R385, R387). -/

namespace Sys2Proof.Machine

/-! ### The registers as they read -/

/-- `CREWID` (R198). -/
def crewId (fk : Nat) (w : Crew) : Word :=
  BitVec.ofNat 64 (w.gen.toNat * 2 ^ 32 + w.block.berths * 2 ^ 21 + fibreNumber fk / 4 % 16 * 2 ^ 16 + coreOfFibre fk * 2 ^ 6)

/-- `DECKID` (R256). -/
def deckId (s : State) (w : Crew) : Word :=
  match lookup s.decks w.deck with
  | none => 0#64
  | some d =>
    let map := ((List.range d.width).zip d.members).foldl (fun n x => n + x.2 % 8 * 2 ^ (32 + 3 * x.1)) 0
    BitVec.ofNat 64 (map + d.width * 2 ^ 16 + w.index * 2 ^ 12 + d.cluster)

/-- `CTXID` (R320), as admission set it (R329). -/
def ctxId (n : Nat) (o : Admitted) : Word :=
  BitVec.ofNat 64 (o.priv.toNat * 2 ^ 63 + o.prot.toNat * 2 ^ 62 + o.topUp.toNat * 2 ^ 61 + o.gen.toNat * 2 ^ 32 + n % 2 ^ 32)

/-- `GRIDPOS` (R383). -/
def gridPos (c : Context) : Word :=
  let g := gridOf c
  BitVec.ofNat 64 (g.crossing * 2 ^ 40 + ((List.range 5).zip g.coord).foldl (fun n x => n + x.2 % 256 * 2 ^ (8 * x.1)) 0)

/-- `GRIDDIM` (R384). -/
def gridDim (c : Context) : Word :=
  let g := gridOf c
  BitVec.ofNat 64 (g.axes * 2 ^ 40 + ((List.range 5).zip g.extents).foldl (fun n x => n + (x.2 - 1) % 256 * 2 ^ (8 * x.1)) 0)

/-- `yp` (R333). -/
def yieldWord (w : Crew) : Word := BitVec.ofNat 64 (w.grace.toNat * 2 ^ 33 + w.g.toNat * 2 ^ 32 + w.yields.toNat)

/-- `BOOTSTAT` (R371). -/
def bootStat (b : Boot) : Word :=
  BitVec.ofNat 64 (b.version.toNat * 2 ^ 24 + b.reason % 256 * 2 ^ 16 + b.fails % 16 * 2 ^ 12 + b.harbour.toNat * 2 ^ 11 + b.stage % 256)

/-- Axes 0 to 3 of a pattern (R387). -/
def patternWord (p : Pattern) : Word :=
  BitVec.ofNat 64 ((List.range 4).foldl (fun n a => n + (p.axis.getD a 0#16).toNat * 2 ^ (16 * a)) 0)

/-- A system register as it reads. -/
def readSys (s : State) (fk : Nat) (h : Here) (c : Context) (n : Nat) : Word :=
  if n = 0x0001 then h.f.aflags &&& 63#64
  else if n = 0x0002 then h.f.window
  else if n = 0x0003 then BitVec.ofNat 64 (fibreNumber fk)
  else if n = 0x0004 then h.f.lcbase &&& 0x007F_FFFF_FFFF_FFF0#64
  else if n = 0x0005 then crewId fk h.w
  else if n = 0x0006 then deckId s h.w
  else if n = 0x0007 then ctxId h.w.ctx h.w.own
  else if n = 0x0008 then h.w.own.tenant.setWidth 64
  else if n = 0x0009 then gridPos c
  else if n = 0x000A then gridDim c
  else if n = 0x000B then s.ptp
  else if n = 0x0018 then h.w.bi.setWidth 64
  else if n = 0x0019 then h.w.bm.setWidth 64
  else if n = 0x001A then yieldWord h.w
  else if n < 0x0030 then h.w.td[n - 0x20]?.getD 0#64
  else if n < 0x0040 then h.w.fb[n - 0x30]?.getD 0#64
  else if n < 0x0080 then patternWord (patternOf c (n - 0x40))
  else if n = 0x8000 then h.w.trapbase
  else if n = 0x8010 then h.w.heapBase
  else if n = 0x8011 then h.w.heapLimit
  else if n = 0x8012 then h.w.heapOffset
  else bootStat s.boot

/-! ### Writes -/

/-- The fields of `TRAPBASE` (R189). -/
def trapbaseOf (v : Word) : Word := v &&& 0x007F_FFFF_FFFF_FFFD#64
/-- The fields of `HEAPBASE` (R277). -/
def heapBaseOf (v : Word) : Word := v &&& 0x007F_FFFF_FFF8_0001#64
/-- The fields of `HEAPLIMIT` (R277). -/
def heapLimitOf (v : Word) : Word := v &&& 0x007F_FFFF_FFF8_0000#64
/-- The field of `HEAPOFFSET` (R277). -/
def heapOffsetOf (v : Word) : Word := v &&& 0xFFFF_FFFF_FFF8_0000#64

/-- The window is checked (R278): one that is rejected counts HEAP_REJECT at the die of the core, whether or not it is in use (log 131). -/
def checkHeap (s : State) (bk : Nat) : State :=
  match lookup s.crews bk with
  | none => s
  | some w =>
    let dies := match (lookup s.contexts w.ctx).bind (fun c => lookup s.partitions c.partition) with | some p => p.dies | none => []
    let bad := heapRejects dies w.heapBase w.heapLimit w.heapOffset
    let t := onCrew s bk (fun w => { w with heapRejected := bad })
    if bad then countDie t (bk % 1024 / 128) 0x07 1 else t

/-- A pattern-table entry replaced (R387). -/
def setPattern (s : State) (n i : Nat) (p : Pattern) : State :=
  { s with contexts := alter s.contexts n (fun c => { c with patterns := c.patterns.set! i p }) }

/-- A system register written, field by field (R10, R11): read-only registers keep their values. -/
def writeSys (s : State) (fk ctx : Nat) (n : Nat) (v : Word) : State :=
  let bk := bankOfFibre fk
  if n = 0x0001 then onFibre s fk (fun f => { f with aflags := v &&& 63#64 })
  else if 0x20 ≤ n ∧ n < 0x30 then onCrew s bk (fun w => { w with td := w.td.set! (n - 0x20) (v &&& 0xF_FFFF#64) })
  else if 0x30 ≤ n ∧ n < 0x34 then onCrew s bk (fun w => { w with fb := w.fb.set! (n - 0x30) (v &&& ~~~1#64) })
  else if 0x40 ≤ n ∧ n < 0x80 then
    setPattern s ctx (n - 0x40) { axis := (List.range 4).map (fun a => bits v (16 * a) 16) ++ [0#16], control := 0#16 }
  else if n = 0x8000 then onCrew s bk (fun w => { w with trapbase := trapbaseOf v })
  else if n = 0x8010 then checkHeap (onCrew s bk (fun w => { w with heapBase := heapBaseOf v })) bk
  else if n = 0x8011 then checkHeap (onCrew s bk (fun w => { w with heapLimit := heapLimitOf v })) bk
  else if n = 0x8012 then checkHeap (onCrew s bk (fun w => { w with heapOffset := heapOffsetOf v })) bk
  else s

/-! ### MFSR and MTSR (R143) -/

/-- Whether R48 keeps a crew from reading, or from writing, a register. -/
def sysDenied (priv : Bool) (n : Nat) (w : Bool) : Bool := !priv && (decide (0xC000 ≤ n) || (w && decide (0x8000 ≤ n)))

/-- MFSR (R143). -/
def execMfsr (sw : Bool) (d : BitVec 6) (n : BitVec 16) (s : State) : Out :=
  scalarOp sw [] s (fun h =>
    match lookup s.contexts h.w.ctx with
    | none => .next s
    | some c =>
      if sysDenied h.w.own.priv n.toNat false then trapIssued s h.f .privileged
      else if !h.f.clausesDone then .next (stallScalar s sw .clauses)
      else
        let t := issueScalar s h.f.spc 1 0
        let v := match here t with | some h' => readSys t t.cur h' c n.toNat | none => 0#64
        .next (onCur t (fun f => (f.writeS d v).next4)))

/-- MTSR (R143). -/
def execMtsr (sw : Bool) (d : BitVec 6) (n : BitVec 16) (s : State) : Out :=
  unfenced sw [d] s (fun h =>
    if sysDenied h.w.own.priv n.toNat true then trapIssued s h.f .privileged
    else if !h.f.clausesDone then .next (stallScalar s sw .clauses)
    else .next (onCur (writeSys (issueScalar s h.f.spc 1 0) s.cur h.w.ctx n.toNat (h.f.readS d)) Fibre.next4))

end Sys2Proof.Machine
end

