-- ==== Sys2Proof/Machine/HostPorts.lean ====
section
/-! DEFINITION. What the host reaches through CXL and the memory BAR (R304, R354 to R360, R376, R377): records, registrations, releases, memory
and event counters. -/

namespace Sys2Proof.Machine

/-! ### Submission (R356, R357) -/

/-- A submission page changed. -/
def onSubmission (s : State) (p : Nat) (g : Submission → Submission) : State :=
  { s with submissions := s.submissions.set! (p % 8) (g (s.submissions[p % 8]?.getD Submission.zero)) }

/-- Whether the part accepts records and registrations: stage 6, not in harbour mode (R369, R370). -/
def isReady (s : State) : Bool := s.boot.stage == 6 && !s.boot.harbour

/-- The RCAUSE of a record written to the port of partition `p` (R323, R356, R357); 0 where it passes. Word 2 gives its W three bits, so that cause 3
cannot arise. -/
def recordCause (s : State) (p : Nat) (r : Record) : Nat :=
  if !isReady s then 5
  else if r.kind ≠ 0 then 1
  else if wfld r.w2 43 20 ≠ 0 ∨ wfld r.w3 54 2 ≠ 0 ∨ wfld r.w3 59 5 ≠ 0 then 2
  else if r.w0.toNat % 64 ≠ 0 then 7
  else if wfld r.w3 56 3 ≠ p ∨ (lookup s.partitions p).isNone then 5
  else if (s.contexts.find? (fun c => c.2.partition == p && c.2.sailing == wfld r.w3 48 6)).isNone then 4
  else 0

/-- A refused record (R357). -/
def refuseRecord (s : State) (p cause : Nat) : State :=
  countPackage (onSubmission s p (fun x => { x with
    refused := if x.refused = 0xFFFF#16 then 0xFFFF#16 else x.refused + 1#16, rcause := BitVec.ofNat 8 cause })) 0x02 1

/-- SUBMIT_RECORD (R356): one aligned write of 32 bytes; the record is enqueued, held or refused. -/
def execSubmitRecord (p offset : Nat) (data : List Byte) (s : State) : Out :=
  let t := countPackage s 0x01 1
  if offset ≠ 0 ∨ data.length ≠ 32 then .next (refuseRecord t p 6)
  else
    let r := recordOf data
    let cause := recordCause s p r
    if cause ≠ 0 then .next (refuseRecord t p cause)
    else
      match s.contexts.find? (fun c => c.2.partition == p && c.2.sailing == wfld r.w3 48 6) with
      | none => .next t
      | some (n, _) =>
        .next (settleSailing (enqueue { t with contexts := alter t.contexts n (fun c => { c with started := true }) } n r none (0#32, 0#32) 0) n)

/-- SUBMITSTAT as it reads (R357). -/
def submitStat (x : Submission) : Nat :=
  x.refused.toNat * 2 ^ 32 + x.rcause.toNat * 2 ^ 24 + x.dcause.toNat * 2 ^ 16 + x.dbusy.toNat * 2 ^ 15

/-- SUBMITSTAT_READ (R357): the read returns the word and clears its REFUSED count. -/
def execSubmitstatRead (p : Nat) (s : State) : Out :=
  let x := s.submissions[p % 8]?.getD Submission.zero
  .next (onSubmission { s with hostRead := leBytes 8 (submitStat x) } p (fun x => { x with refused := 0#16 }))

/-! ### Registration (R319, R357, R358, R374) -/

/-- A byte of device memory as the part itself reads it: the content of a poisoned sector is not stated. -/
def plainByte (s : State) (p : Nat) : Byte :=
  if unitPoisoned s p then Config.freeByte s.tick p else (viewByte s p none).getD (Config.freeByte s.tick p)

/-- A context descriptor as it is read. -/
structure Descriptor where
  bytes : List Byte
  number : Nat
  ctx : Context

/-- A descriptor from its 256 bytes, at address `v`. -/
def descriptorOf (v : Nat) (l : List Byte) : Descriptor :=
  let n (o k : Nat) : Nat := leNat ((l.drop o).take k)
  let w (o : Nat) : Word := BitVec.ofNat 64 (n o 8)
  { bytes := l, number := n 0 4
    ctx := {
      gen := BitVec.ofNat 16 (n 4 2), tenant := BitVec.ofNat 12 (n 6 2), priv := n 8 1 % 2 == 1, prot := n 8 1 / 2 % 2 == 1, topUp := n 8 1 / 4 % 2 == 1
      partition := n 9 1, sailing := n 10 1, keySlot := n 11 1, areas := n 12 4, root := n 0x10 8
      heapBase := w 0x18, heapLimit := w 0x20, heapOffset := w 0x28, trapbase := w 0x30, imageBase := w 0x38, sealedBase := w 0x40
      stackTop := w 0x48, stackBytes := w 0x50, statusArea := w 0x58, descriptor := v, started := false, inUse := [], override := none
      patterns := Vector.replicate 64 { axis := [], control := 0#16 }, member := none, refused := false, joinLinks := [] } }

/-- The descriptor at a physical address. -/
def readDescriptor (s : State) (v : Nat) : Descriptor := descriptorOf v ((List.range 256).map (fun i => plainByte s (v + i)))

/-- The fields of R319 that a registration checks, for a partition's dies. -/
def descriptorOk (dies : List Nat) (d : Descriptor) : Bool :=
  let n (o k : Nat) : Nat := leNat ((d.bytes.drop o).take k)
  let c := d.ctx
  n 6 2 < 2 ^ 12 && n 8 1 < 8 && c.partition < 8 && c.sailing < 64 && decide (1 ≤ c.areas) && c.areas ≤ 4096 &&
    c.heapBase &&& ~~~0x007F_FFFF_FFF8_0001#64 == 0#64 && c.heapLimit &&& ~~~0x007F_FFFF_FFF8_0000#64 == 0#64 &&
    c.heapOffset &&& 0x7FFFF#64 == 0#64 && c.trapbase &&& ~~~0x007F_FFFF_FFFF_FFFD#64 == 0#64 &&
    c.root % 4096 == 0 && inDevice c.root && decide (dieOf c.root ∈ dies) && c.imageBase.toNat % 0x200000 == 0 &&
    (c.prot || c.sealedBase == 0#64) && c.stackTop.toNat % 16 == 0 && c.stackBytes.toNat % 16 == 0 && c.statusArea.toNat % 4096 == 0 &&
    (d.bytes.drop 0x60).all (· == 0#8)

/-- The DCAUSE of a registration (R357); 0 where it is accepted. -/
def registerCause (s : State) (p v : Nat) (d : Descriptor) : Nat :=
  match lookup s.partitions p with
  | none => 4
  | some part =>
    if !isReady s then 4
    else if v % 256 ≠ 0 ∨ 2 ^ 40 < v + 256 then 6
    else if !descriptorOk part.dies d then 1
    else if d.ctx.partition ≠ p then 4
    else if (lookup s.contexts d.number).isSome then 2
    else if (contextOfSailing s p d.ctx.sailing).isSome then 3
    else if d.ctx.prot && (match lookup s.keySlots d.ctx.keySlot with | some k => k.tenant != d.ctx.tenant | none => true) then 5
    else 0
where
  contextOfSailing (s : State) (p sailing : Nat) : Option (Nat × Context) :=
    s.contexts.find? (fun c => c.2.partition == p && c.2.sailing == sailing)

/-- A registration or release is in progress with an outcome (R357). -/
def beginPort (s : State) (p cause : Nat) : State := onSubmission s p (fun x => { x with dbusy := true, outcome := BitVec.ofNat 8 cause })

/-- Whether a page's registration or release is in progress. -/
def portBusy (s : State) (p : Nat) : Bool := (s.submissions[p % 8]?.getD Submission.zero).dbusy

/-- REGISTER_CONTEXT (R319, R352, R357): the descriptor at `v` is read and checked; where it passes, its sailing is live. -/
def execRegisterContext (p : Nat) (v : Word) (s : State) : Out :=
  if portBusy s p then .next s
  else
    let d := readDescriptor s v.toNat
    let cause := registerCause s p v.toNat d
    let t := if cause = 0 then
      { s with contexts := put s.contexts d.number d.ctx, sealCounters := s.sealCounters.filter (fun x => x.1 / 4096 != d.number) }
      else s
    .next (beginPort t p cause)

/-- The DCAUSE of a release (R357, R358). -/
def releaseCause (s : State) (p n : Nat) : Nat :=
  match lookup s.contexts n with
  | none => 4
  | some c =>
    if c.partition ≠ p then 4
    else if busyContext { s with queue := s.queue.filter (fun q => !q.held) } n then 7
    else 0

/-- RELEASE_CONTEXT (R358): held records are discarded with the context. -/
def execReleaseContext (p : Nat) (v : Word) (s : State) : Out :=
  if portBusy s p then .next s
  else
    let cause := if isReady s then releaseCause s p v.toNat else 4
    .next (beginPort (if cause = 0 then releaseContext s v.toNat else s) p cause)

/-- REGISTRATION_COMPLETE (R357). -/
def execRegistrationComplete (p : Nat) (s : State) : Out :=
  if portBusy s p then .next (onSubmission s p (fun x => { x with dbusy := false, dcause := x.outcome })) else .next s

/-! ### Memory (R304, R354) -/

/-- A byte as the host reads it. -/
def hostByte (s : State) (p : Nat) : Byte := if inDevice p then plainByte s p else byteAt s p

/-- The poisoned sectors that a read of the host meets are counted (R299). -/
def countPoison (s : State) (places : List Nat) : State :=
  (distinct ((places.filter inDevice).map (· / 64))).foldl (fun t q => if q ∈ t.poison then countController t (q * 64) 0x84 1 else t) s

/-- HOST_CXL_ACCESS (R304): an access to host memory, or, through the range of R354, to device memory once CXL.mem is enabled (R369, R370). -/
def execHostCxlAccess (x : HostAccess) (s : State) : Out :=
  let p := if x.device then x.addr - s.rangeBase else hostPlace x.addr
  let n := if x.write then x.data.length else x.len
  let inside := if x.device then decide (s.rangeBase ≤ x.addr) && decide (p + n ≤ 2 ^ 40) && decide (5 ≤ s.boot.stage) && !s.boot.harbour else decide (p + n ≤ 2 ^ 52)
  if !inside then .next { s with hostRead := [] }
  else
    let places := (List.range n).map (p + ·)
    if x.write then .next (write s none (places.zip x.data))
    else
      let t := if x.device then countPoison (meet s places) places else s
      .next { t with hostRead := places.map (hostByte t) }

/-! ### Event counters (R376, R377) -/

/-- A counter changed. -/
def onCounter (s : State) (i : Nat) (g : Counter → Counter) : State :=
  { s with counters := s.counters.set! (i % 64) (g (s.counters[i % 64]?.getD Counter.zero)) }

/-- EVENT_COUNTER_SELECT_WRITE (R377): reserved bits stay 0. -/
def execEventCounterSelectWrite (i : Nat) (v : Word) (s : State) : Out :=
  .next (onCounter s i (fun c => { c with select := v &&& 0xC000_0000_07FF_FFFF#64 }))

/-- EVENT_COUNTER_VALUE_WRITE (R377): COUNT is written, and OVF is cleared by a 1. -/
def execEventCounterValueWrite (i : Nat) (v : Word) (s : State) : Out :=
  .next (onCounter s i (fun c =>
    { c with value := (v &&& 0x0000_FFFF_FFFF_FFFF#64) ||| (if bits v 63 1 = 1#1 then 0#64 else c.value &&& 0x8000_0000_0000_0000#64) }))

/-! ### Other BAR offsets (R355, R356, R360, R362) -/

/-- GO (R362): while a command runs it starts nothing and sets STATUS to 4. -/
def mailboxGo (s : State) : State :=
  if s.mailbox.busy then { s with mailbox := { s.mailbox with status := 4#8 } }
  else countPackage { s with mailbox := { s.mailbox with busy := true, running := s.mailbox.opc, switching := false, finished := none } } 0x05 1

/-- `MBCTL` as it reads (R362): GO and the reserved bits are 0. -/
def mbctl (m : Mailbox) : Nat := m.status.toNat * 2 ^ 16 + m.opc.toNat * 2 ^ 8 + m.busy.toNat * 2

/-- The live sailings of a partition (R356). -/
def liveWord (s : State) (p : Nat) : Nat :=
  ((List.range 64).map (fun i => if s.contexts.any (fun c => c.2.partition == p && c.2.sailing == i) then 2 ^ i else 0)).sum

/-- A word of 8 bytes of the submission page of a partition, at an offset (R356): the ports read zero (R10). -/
def submissionWord (s : State) (p o : Nat) : Nat :=
  if o = 0x20 then submitStat (s.submissions[p]?.getD Submission.zero) else if o = 0x50 then liveWord s p else 0

/-- A word of the page-request control of a die (R360): the reply port reads zero. -/
def requestWord (x : Die) (o : Nat) : Nat := if o = 0 then x.prqBase.toNat else if o = 8 then x.prqTail else if o = 0x10 then x.prqHead else 0

/-- The word of 8 bytes at an aligned offset of the first memory BAR, the mailbox buffers apart; an offset that is not listed reads zero (R355). -/
def barWord (s : State) (o : Nat) : Nat :=
  if o < 0x8000 then submissionWord s (o / 0x1000) (o % 0x1000)
  else if o = 0x10_2000 then mbctl s.mailbox
  else if 0x20_0000 ≤ o ∧ o < 0x20_8000 then requestWord (dieState s ((o - 0x20_0000) / 0x1000)) (o % 0x1000)
  else if 0x30_0000 ≤ o ∧ o < 0x30_0400 then
    let c := s.counters[(o - 0x30_0000) / 16]?.getD Counter.zero
    (if o % 16 = 0 then c.select else c.value).toNat
  else if o = 0x40_0000 then (bootStat s.boot).toNat
  else 0

/-- A byte of the first memory BAR as it reads. -/
def barByte (s : State) (o : Nat) : Byte :=
  if 0x10_0000 ≤ o ∧ o < 0x10_1000 then byteOf s.mailbox.request (o - 0x10_0000)
  else if 0x10_1000 ≤ o ∧ o < 0x10_2000 then byteOf s.mailbox.response (o - 0x10_1000)
  else BitVec.ofNat 8 (barWord s (o / 8 * 8) / 256 ^ (o % 8))

/-- A read of `n` bytes of the first memory BAR (R10, R355): one that takes in a REFUSED count clears it (R357). -/
def readBar (s : State) (o n : Nat) : State :=
  let t := { s with hostRead := (List.range n).map (fun i => barByte s (o + i)) }
  ((List.range 8).filter (fun p => decide (o < p * 0x1000 + 0x26) && decide (p * 0x1000 + 0x24 < o + n))).foldl
    (fun u p => onSubmission u p (fun x => { x with refused := 0#16 })) t

/-- A write to MBCTL of `data` from its byte `o`: OPC first, then GO. -/
def writeMbctl (s : State) (o : Nat) (data : List Byte) : State :=
  let byte (i : Nat) : Option Byte := if o ≤ i then data[i - o]? else none
  let t := match byte 1 with | some b => { s with mailbox := { s.mailbox with opc := b } } | none => s
  match byte 0 with
  | some b => if b.getLsbD 0 then mailboxGo t else t
  | none => t

/-- BAR_REGISTER_WRITE (R355): the request buffer, MBCTL, and a record port or reply port written in another form; every other write is discarded. -/
def execBarRegisterWrite (offset : Nat) (data : List Byte) (s : State) : Out :=
  let inside (base size : Nat) : Bool := decide (base ≤ offset) && decide (offset < base + size)
  if inside 0x10_0000 0x1000 then
    .next { s with mailbox := { s.mailbox with request := putBytes s.mailbox.request (offset - 0x10_0000) (data.take (0x10_1000 - offset)) } }
  else if inside 0x10_2000 8 then .next (writeMbctl s (offset - 0x10_2000) data)
  else if offset < 0x8000 ∧ offset % 0x1000 < 0x20 then execSubmitRecord (offset / 0x1000) (offset % 0x1000) data s
  else if inside 0x20_0000 0x8000 && decide (0x20 ≤ offset % 0x1000) && decide (offset % 0x1000 < 0x30) then
    if offset % 0x1000 = 0x20 then execPageRequestReply ((offset - 0x20_0000) / 0x1000) data s else .next (countPackage s 0x06 1)
  else .next s

end Sys2Proof.Machine
end

