-- ==== Sys2Proof/Machine/Operands.lean ====
section
/-! DEFINITION. The operands of lane words (R27, R30 to R37, R52 to R55): names and windows, register lines, selectors, broadcasts,
scratchpad sweeps; issue, the writes of short and long-latency words (R147 to R149, R179), and last-read marks. -/

namespace Sys2Proof.Machine

/-! ### Lanes -/

/-- The lanes of a mask, ascending. -/
def lanesOf (m : Mask) : List Nat := (List.range 32).filter (fun l => m.getLsbD l)

/-- One lane of a register. -/
def laneAt (v : LaneVec) (l : Nat) : Lane := v[l]?.getD 0#32

/-- A register from its lanes. -/
def vecOf (g : Nat → Lane) : LaneVec := Vector.ofFn (fun i : Fin 32 => g i.val)

/-- All lanes zero. -/
def zeroVec : LaneVec := Vector.replicate 32 0#32

/-- The lanes of a mask taken from `new`, the others from `old`. -/
def blend (m : Mask) (new old : LaneVec) : LaneVec := vecOf (fun l => if m.getLsbD l then laneAt new l else laneAt old l)

/-! ### What a lane word works on -/

/-- The current fibre, the clause at the head of its queue, how far it has run, and the word. -/
structure LaneHere where
  h : Here
  c : Clause
  run : Running
  w : LaneWord

/-- `pred` of a word (R27). -/
def LaneHere.pred (x : LaneHere) : Mask := if x.w.pn then ~~~(x.h.f.readP x.w.pi) else x.h.f.readP x.w.pi

/-- The active lanes: `em and pred`, or `pred` alone for EMSET and EMGET (R27, R162). -/
def LaneHere.active (x : LaneHere) (predOnly : Bool) : Mask := if predOnly then x.pred else x.h.f.em &&& x.pred

/-- Number of segments (R55). -/
def LaneHere.segments (x : LaneHere) : Nat := max x.w.count.toNat 1

/-! ### Register names (R34 to R36, R61) -/

/-- The name in a kind-00 operand. -/
def nameOf (o : Operand) : Option Nat :=
  match o with
  | .reg n _ _ => some n.toNat
  | _ => none

/-- The names of a word's sources. -/
def sourceNames (w : LaneWord) : List Nat := [w.a, w.b, w.c].filterMap nameOf

/-- The names of a word's destination; a pair for TOPK (R176). -/
def destNames (w : LaneWord) (pair : Bool) : List Nat :=
  match nameOf w.d with
  | some n => if pair then [n, n + 1] else [n]
  | none => []

/-- Whether a fibre may write through a name. -/
def writable (f : Fibre) (n : Nat) : Bool := match mapName f.window n with | some (_, y) => y | none => false

/-- The window trap of a word (R35, R61). -/
def windowCause (f : Fibre) (w : LaneWord) (pair : Bool) : Option Cause :=
  if (destNames w pair ++ sourceNames w).any (fun n => (mapName f.window n).isNone) then some .regUnmapped
  else if (destNames w pair).any (fun n => !writable f n) then some .regReadonly
  else none

/-- The berth register of a name (R35). -/
def berthReg (f : Fibre) (n : Nat) : Nat := ((mapName f.window n).map (·.1)).getD 0

/-- The berth register of a kind-00 operand. -/
def berthOf (f : Fibre) (o : Operand) : Option Nat := (nameOf o).map (berthReg f)

/-- The registers that a word's last-read marks kill (R32). -/
def marksOf (f : Fibre) (w : LaneWord) : List Nat :=
  distinct ([w.a, w.b, w.c].filterMap (fun o => match o with | .reg n true _ => some (berthReg f n.toNat) | _ => none))

/-- The berth registers that a word names. -/
def regsNamed (f : Fibre) (w : LaneWord) (pair : Bool) : List Nat := (destNames w pair ++ sourceNames w).map (berthReg f)

/-- The scalar registers that a word reads: broadcasts and sweep bases. -/
def scalarsNamed (w : LaneWord) : List Nat :=
  [w.d, w.a, w.b, w.c].filterMap (fun o => match o with | .scalar r => some r.toNat | .sweep r _ => some r.toNat | _ => none)

/-- A scalar register as the CLS of the clause left it (R22). -/
def Clause.scalar (c : Clause) (r : BitVec 6) : Word := if r = 0#6 then 0#64 else c.snapshot[r.toNat]'r.isLt

/-! ### Errors in the register file (R217, R218, R220) -/

/-- The 8-byte units of a register, each of two lanes, that hold a lane of a mask, or that it covers in part. -/
def regUnits (r : Nat) (m : Mask) (part : Bool) : List Nat :=
  ((List.range 16).filter (fun i =>
    let a := m.getLsbD (2 * i)
    let b := m.getLsbD (2 * i + 1)
    if part then a != b else a || b)).map (16 * r + ·)

/-- Whether a unit of a slot has an error or a poison mark. -/
def Slot.marked (sl : Slot) (u : Nat) : Bool := (lookup sl.latent u).isSome || decide (u ∈ sl.poison)

/-- Units written whole lose their errors and marks. -/
def Slot.cleared (sl : Slot) (l : List Nat) : Slot :=
  { sl with latent := sl.latent.filter (fun x => !decide (x.1 ∈ l)), poison := sl.poison.filter (fun u => !decide (u ∈ l)) }

/-- The core of a slot. -/
def coreOfSlot (sk : Nat) : Nat := sk % 16384 / 16

/-- The key of a slot's bank. -/
def bankOfSlot (sk : Nat) : Nat := sk / 16384 * 1024 + coreOfSlot sk

/-- What a read of a unit meets: a single bad bit is corrected, more poison it. -/
def meetUnit (sk : Nat) (s : State) (u : Nat) : State :=
  let sl := slotOf s sk
  match lookup sl.latent u with
  | none => s
  | some n =>
    let t := { s with slots := put s.slots sk { sl with latent := del sl.latent u, poison := if n ≤ 1 then sl.poison else u :: sl.poison } }
    if n ≤ 1 then countCore t (coreOfSlot sk) 0x13 1 else { t with msix := 17 :: t.msix }

/-- The 4 KiB block of a unit of a slot's register lines, numbered after those of R202's stores. -/
def regBlock (sk u : Nat) : Nat := 2048 + (sk / 16384 * 16 + sk % 16) * 8 + u / 512

/-- Units of a slot are read: an uncorrectable error kills the crew of the slot's berth (R218). -/
def readUnits (s : State) (sk : Nat) (l : List Nat) : State × Bool :=
  let t := l.foldl (meetUnit sk) s
  match l.find? (fun u => decide (u ∈ (slotOf t sk).poison)) with
  | none => (t, false)
  | some u => (noteError (killDeck t (bankOfSlot sk)) (coreOfSlot sk) (regBlock sk u), true)

/-- The units with errors that a word's sources would read: a word with an active lane reads each of its live source registers whole (log 132). -/
def faultyUnits (sl : Slot) (regs : List Nat) (m : Mask) : List Nat :=
  if (sl.latent.isEmpty && sl.poison.isEmpty) || m == 0#32 then []
  else ((regs.filter (fun r => !sl.dead.getLsbD r)).flatMap (fun r => regUnits r 0xFFFF_FFFF#32 false)).filter sl.marked

/-! ### Stalls of a lane word (R38) -/

/-- The flag of a long-latency word: the header's first for memory, its second for others; one named flag takes both roles (R23,
R51). -/
def Running.flagFor (r : Running) (mem : Bool) : Option Nat :=
  if mem then flagOf (if r.fa = 15#4 then r.fb else r.fa) else flagOf (if r.fb = 15#4 then r.fa else r.fb)

/-- Why a lane word cannot issue yet: a scalar that has not arrived (R22), a register line that is not held (R31), a flag at its
limit (R23), or a write past a pending FENCE to a shared window (R311). -/
def laneDelay (s : State) (x : LaneHere) (pair : Bool) (flag : Option Nat) : Option Stall :=
  let f := x.h.f
  match (scalarsNamed x.w).find? (fun r => x.c.awaiting.any (fun a => a.1 == r)) with
  | some r => some (.snapshot r)
  | none =>
    match (regsNamed f x.w pair).find? (fun r => !lineHeld s s.cur (r / 4)) with
    | some r => some (.lineMiss (r / 4))
    | none =>
      if f.speculates true && ((destNames x.w pair).map (berthReg f) ++ marksOf f x.w).any (inShared f.window) then some .fencePending
      else
        match flag with
        | some k => if f.lReplay.isNone && 15 ≤ f.flag k then some (.flagFull k) else none
        | none => none

/-- The current fibre's lane word at the head of its queue; a window trap (R35), a stall, or the errors of its sources come before `body`: a word
whose sources have only errors that are corrected issues at its next turn. -/
def laneOp (w : LaneWord) (pair predOnly : Bool) (mem : Option Bool) (s : State) (body : LaneHere → Out) : Out :=
  match here s with
  | none => .fault .noFibre
  | some h =>
    match h.f.clauses, h.f.running with
    | c :: _, some run =>
      let x : LaneHere := { h := h, c := c, run := run, w := w }
      match windowCause h.f w pair with
      | some cause => .next (takeTrap (issueLane s h.f.spc x.segments 0) true { cause := cause, mask := x.active predOnly })
      | none =>
        match laneDelay s x pair (mem.bind run.flagFor) with
        | some st => .next (stallLane (match st with | .lineMiss _ => countCore s (coreOfFibre s.cur) 0x06 1 | _ => s) w.sw st)
        | none =>
          match faultyUnits h.sl ((sourceNames w).map (berthReg h.f)) (x.active predOnly) with
          | [] => body x
          | l => .next (readUnits s (slotOfFibre s.cur) l).1
    | _, _ => .fault .noClause

/-! ### Reading (R32, R37, R53, R54, R148) -/

/-- The value of a berth register in its line: a dead register reads zero (R32). -/
def Slot.value (sl : Slot) (r : Nat) : LaneVec :=
  if sl.dead.getLsbD r then zeroVec
  else match lookup sl.lines (r / 4) with | some ln => ln.data[r % 4]?.getD zeroVec | none => zeroVec

/-- A register as a lane word of the fibre reads it: with a long-latency write outstanding, each lane holds either the value before
it or the written one (R148). -/
def regSeen (s : State) (f : Fibre) (sl : Slot) (r pos seg : Nat) : LaneVec :=
  f.lpend.foldl
    (fun v p =>
      if p.reg = some r then
        vecOf (fun l => if p.mask.getLsbD l && Config.choice s.tick p.id ((seg * 4 + pos) * 32 + l) then laneAt p.value l else laneAt v l)
      else v)
    (sl.value r)

/-- The bits of a register that a selector names (R54). -/
def selectorMask (sel : BitVec 4) : Lane :=
  if 8 ≤ sel.toNat then 0xF#32 <<< (4 * (sel.toNat - 8))
  else if 4 ≤ sel.toNat then 0xFF#32 <<< (8 * (sel.toNat - 4))
  else 0xFFFF_FFFF#32

/-- A selected source element, widened by sign or by zeros (R152). -/
def selectSource (sel : BitVec 4) (signed : Bool) (v : Lane) : Lane :=
  if 8 ≤ sel.toNat then
    let x := (v >>> (4 * (sel.toNat - 8))).setWidth 4
    if signed then x.signExtend 32 else x.setWidth 32
  else if 4 ≤ sel.toNat then
    let x := (v >>> (8 * (sel.toNat - 4))).setWidth 8
    if signed then x.signExtend 32 else x.setWidth 32
  else v

/-- A result laid into the selected bits of a register (R54, R152). -/
def insertSelected (sel : BitVec 4) (old new : Lane) : Lane :=
  let m := selectorMask sel
  let shifted := if 8 ≤ sel.toNat then new <<< (4 * (sel.toNat - 8)) else if 4 ≤ sel.toNat then new <<< (8 * (sel.toNat - 4)) else new
  (old &&& ~~~m) ||| (shifted &&& m)

/-- The selector of a kind-00 operand. -/
def selectorOf (o : Operand) : BitVec 4 :=
  match o with
  | .reg _ _ sel => sel
  | _ => 0#4

/-! ### Sweeps (R55) -/

/-- The base of a sweep. -/
def sweepBase (c : Clause) (b : BitVec 6) : Nat := wfld (c.scalar b) 0 24

/-- The local address of segment `i` and lane `l`. -/
def sweepAddress (base : Nat) (step : BitVec 7) (i l : Nat) : Int := (base : Int) + step.toInt * 16 * i + 4 * l

/-- Whether four bytes at a local address lie in a given region (R138). -/
def inRegion (s : State) (bk : Nat) (region : Option (Option Nat)) (a : Int) : Bool :=
  decide (0 ≤ a) && region.isSome && localRegion a.toNat == region && (localPlaces s bk a.toNat 4).isSome

/-- The address at which a sweep fails its check, for the active lanes (R55). -/
def sweepFails (s : State) (bk base : Nat) (step : BitVec 7) (segs : Nat) (m : Mask) : Option Int :=
  if base % 4 ≠ 0 then some base
  else
    (lanesOf m).findSome? (fun l =>
      let region := localRegion (base + 4 * l)
      if inRegion s bk region (sweepAddress base step 0 l) && inRegion s bk region (sweepAddress base step (segs - 1) l) then none
      else ((List.range segs).map (fun i => sweepAddress base step i l)).find? (fun a => !inRegion s bk region a))

/-- The sweeps that a word names, with their bases. -/
def sweepsNamed (c : Clause) (w : LaneWord) : List (Nat × BitVec 7) :=
  [w.d, w.a, w.b, w.c].filterMap (fun o => match o with | .sweep b t => some (sweepBase c b, t) | _ => none)

/-- The lines of deck-peer windows that a sweep touches, counted per segment (R150). -/
def sweepLines (base : Nat) (step : BitVec 7) (segs : Nat) (m : Mask) : Nat :=
  (List.range segs).foldl
    (fun n i => n + linesTouched (((lanesOf m).map (fun l => (sweepAddress base step i l).toNat)).filter isPeer)) 0

/-! ### Running the segments -/

/-- What a word has done so far: the state, the destination register, the generators, the flags raised, and the scratchpad bytes
of a long-latency destination, which wait for completion. `killed` marks an uncorrectable error in the crew's own deck (R218). -/
structure Progress where
  s : State
  dval : LaneVec
  wrote : Bool
  gens : Vector Lane 32
  fl : Fl
  cells : Tab Byte
  killed : Bool

/-- An element-wise word: how selected sources are widened, what an immediate stands for, whether D is read as a source, and what
a lane computes from its operands and its generator. -/
structure Elementwise where
  signed : Bool := false
  selects : Bool := false
  imm : BitVec 13 → Lane
  readsD : Bool := false
  fn : (a b c d : Lane) → (gen : BitVec 32) → Lane × BitVec 32 × Fl

/-- Four bytes of a sweep read by one lane. -/
def readSweepLane (t : Progress) (a : Nat) : Progress × Lane :=
  match localSpots t.s (bankOfFibre t.s.cur) a 4 with
  | none => (t, 0#32)
  | some l =>
    let s0 := if isPeer a then countPeer t.s .load else t.s
    match performOne s0 s0.cur true .load (BitVec.ofNat 64 a) l with
    | (s1, .error _) => ({ t with s := s1, killed := true }, 0#32)
    | (s1, .ok v) =>
      let bytes := (l.zip (leBytes 4 v)).map (fun y => ((y.1.place.bind (lookup t.cells)).getD y.2))
      ({ t with s := s1 }, BitVec.ofNat 32 (leNat bytes))

/-- A sweep operand's values in one segment. -/
def readSweep (x : LaneHere) (m : Mask) (t : Progress) (b : BitVec 6) (step : BitVec 7) (seg : Nat) : Progress × LaneVec :=
  (lanesOf m).foldl
    (fun (acc : Progress × LaneVec) l =>
      let r := readSweepLane acc.1 (sweepAddress (sweepBase x.c b) step seg l).toNat
      (r.1, acc.2.set! l r.2)) (t, zeroVec)

/-- A register operand's value, the destination as earlier segments left it. -/
def readReg (x : LaneHere) (t : Progress) (r pos seg : Nat) : LaneVec :=
  if t.wrote && berthOf x.h.f x.w.d == some r then t.dval else regSeen t.s x.h.f x.h.sl r pos seg

/-- An operand's values in one segment (R53). -/
def readOperand (x : LaneHere) (m : Mask) (t : Progress) (imm : BitVec 13 → Lane) (seg pos : Nat) (o : Operand) : Progress × LaneVec :=
  match o with
  | .unused | .pred _ => (t, zeroVec)
  | .reg n _ _ => (t, readReg x t (berthReg x.h.f n.toNat) pos seg)
  | .scalar r => (t, Vector.replicate 32 ((x.c.scalar r).setWidth 32))
  | .sweep b step => readSweep x m t b step seg
  | .imm v => (t, Vector.replicate 32 (imm v))

/-- The lanes computed, in ascending order. -/
def runLanes (m : Mask) (g : Nat → BitVec 32 → Lane × BitVec 32 × Fl) (gens : Vector Lane 32) (fl : Fl) :
    LaneVec × Vector Lane 32 × Fl :=
  (lanesOf m).foldl
    (fun (acc : LaneVec × Vector Lane 32 × Fl) l =>
      let r := g l (laneAt acc.2.1 l)
      (acc.1.set! l r.1, acc.2.1.set! l r.2.1, acc.2.2 ||| r.2.2)) (zeroVec, gens, fl)

/-- A segment's results written to a sweep destination: performed, or kept until completion. -/
def writeSweep (x : LaneHere) (m : Mask) (long : Bool) (t : Progress) (b : BitVec 6) (step : BitVec 7) (seg : Nat) (v : LaneVec) :
    Progress :=
  let targets := (lanesOf m).filterMap (fun l =>
    let a := (sweepAddress (sweepBase x.c b) step seg l).toNat
    (localSpots t.s (bankOfFibre t.s.cur) a 4).map (fun sp => (a, sp, leBytes 4 (laneAt v l).toNat)))
  let sp := targets.flatMap (fun y => y.2.1)
  let bytes := targets.flatMap (fun y => y.2.2)
  let s0 := targets.foldl (fun u y => if isPeer y.1 then countPeer u (.store 0) else u) t.s
  if long then
    { t with s := s0, cells := (sp.zip bytes).foldl (fun c y => match y.1.place with | some p => put c p y.2 | none => c) t.cells }
  else
    match lookup s0.fibres s0.cur with
    | none => t
    | some f =>
      match storeOne s0 s0.cur f true 0#64 sp bytes with
      | (s1, .error _) => { t with s := s1, killed := true }
      | (s1, .ok _) => { t with s := s1 }

/-- One segment: sources read in every active lane, then the results written (R55, R149). -/
def segment (x : LaneHere) (m : Mask) (long : Bool) (e : Elementwise) (t : Progress) (seg : Nat) : Progress :=
  if t.killed then t
  else
    let sel (o : Operand) (v : LaneVec) (l : Nat) : Lane := if e.selects then selectSource (selectorOf o) e.signed (laneAt v l) else laneAt v l
    let ra := readOperand x m t e.imm seg 0 x.w.a
    let rb := readOperand x m ra.1 e.imm seg 1 x.w.b
    let rc := readOperand x m rb.1 e.imm seg 2 x.w.c
    let rd := if e.readsD || (nameOf x.w.d).isSome then readOperand x m rc.1 e.imm seg 3 x.w.d else (rc.1, zeroVec)
    let u := rd.1
    if u.killed then u
    else
      let r := runLanes m (fun l g => e.fn (sel x.w.a ra.2 l) (sel x.w.b rb.2 l) (sel x.w.c rc.2 l) (sel x.w.d rd.2 l) g) u.gens u.fl
      let v := { u with gens := r.2.1, fl := r.2.2 }
      match x.w.d with
      | .reg _ _ s =>
        let new := vecOf (fun l => insertSelected s (laneAt rd.2 l) (laneAt r.1 l))
        { v with dval := blend m new rd.2, wrote := true }
      | .sweep b step => writeSweep x m long v b step seg r.1
      | _ => v

/-! ### Writing registers (R32, R147, R179, R311) -/

/-- A register as it is now, kept as a shadow the first time a word past a pending FENCE changes it. -/
def shadowReg (s : State) (fk r : Nat) : State :=
  let sl := slotOf s (slotOfFibre fk)
  onFibre s fk (fun f => { f with fence := f.fence.map (fun x =>
    if x.shadows.any (fun y => y.reg == r) then x
    else { x with shadows := x.shadows ++ [{ reg := r, dead := sl.dead.getLsbD r, value := sl.value r }] }) })

/-- Lanes of a berth register written: a dead register becomes live and its other lanes read zero. -/
def Slot.writeReg (sl : Slot) (r : Nat) (m : Mask) (v : LaneVec) : Slot :=
  { sl with
    dead := sl.dead &&& ~~~(BitVec.twoPow 256 r)
    lines := alter sl.lines (r / 4) (fun ln => { ln with state := .dirty, data := ln.data.set! (r % 4) (blend m v (sl.value r)) }) }

/-- The lanes of a write that no higher-numbered fibre of the berth has written in the same clock: its write is the later (R37). -/
def Slot.lasting (sl : Slot) (clock i r : Nat) (m : Mask) : Mask :=
  if sl.wrote.clock = clock then
    sl.wrote.made.foldl (fun m y => if y.1 = r ∧ i < y.2.1 then m &&& ~~~y.2.2 else m) m
  else m

/-- A write by fibre `i` of the berth is noted for the rest of its clock. -/
def Slot.noted (sl : Slot) (clock i r : Nat) (m : Mask) : Slot :=
  { sl with wrote := { clock := clock, made := (r, i, m) :: (if sl.wrote.clock = clock then sl.wrote.made else []) } }

/-- A berth register written by a fibre; nothing where no lane is active. A unit written in part is read first, and may kill the crew; one written
whole loses its errors (R217, R218). -/
def writeBerth (s : State) (fk : Nat) (spec : Bool) (r : Nat) (m0 : Mask) (v : LaneVec) : State :=
  let sk := slotOfFibre fk
  let m := (slotOf s sk).lasting s.clock (fk % 4) r m0
  if m = 0#32 then s
  else
    let t := if spec then shadowReg s fk r else s
    let sl := slotOf t sk
    let bad := if sl.dead.getLsbD r then [] else (regUnits r m true).filter sl.marked
    let whole := if sl.dead.getLsbD r then regUnits r 0xFFFF_FFFF#32 false else regUnits r m false
    match (if bad.isEmpty then (t, false) else readUnits t sk bad) with
    | (u, true) => u
    | (u, false) => { u with slots := put u.slots sk ((((slotOf u sk).writeReg r m v).cleared whole).noted s.clock (fk % 4) r m) }

/-- A berth register dies (R32). -/
def killBerth (s : State) (fk : Nat) (spec : Bool) (r : Nat) : State :=
  let t := if spec then shadowReg s fk r else s
  let sl := slotOf t (slotOfFibre fk)
  { t with slots := put t.slots (slotOfFibre fk) { sl with dead := sl.dead ||| BitVec.twoPow 256 r } }

/-- Registers die. -/
def killMarks (s : State) (fk : Nat) (spec : Bool) (l : List Nat) : State := l.foldl (fun t r => killBerth t fk spec r) s

/-- A short write makes older long-latency writes void in its lanes (R179). -/
def Fibre.voidLanes (f : Fibre) (r : Nat) (m : Mask) : Fibre :=
  { f with lpend := f.lpend.map (fun p => if p.reg = some r then { p with mask := p.mask &&& ~~~m } else p) }

/-- A pending FENCE keeps what a word enqueued before it has done (R310, R312). -/
def Fibre.syncFence (f : Fibre) (pre : Bool) : Fibre :=
  if !pre then f
  else
    { f with fence := f.fence.map (fun x =>
        let mine := f.clauses.filter (fun c => x.checkpoint.clauses.any (fun d => d.serial == c.serial))
        { x with checkpoint := { x.checkpoint with
            preds := f.preds, em := f.em, aflags := f.aflags, gens := f.gens, clauses := mine,
            running := if mine.isEmpty then none else f.running, flags := f.flags, lpend := f.lpend } }) }

/-- The word at LPC has done its work in its fibre: `g` changes the fibre, and the next word follows. -/
def finishLane (s : State) (g : Fibre → Fibre) : State :=
  onCur s (fun f => ((g f).nextLane).syncFence f.prefence)

/-- The value that a destination is left with, where its own mark kills it before the write (R32). -/
def keptBits (x : LaneHere) (v : LaneVec) : LaneVec :=
  match berthOf x.h.f x.w.d with
  | some r => if r ∈ marksOf x.h.f x.w then vecOf (fun l => laneAt v l &&& selectorMask (selectorOf x.w.d)) else v
  | none => v

/-- A short word completes: marks, then the destination, then flags and generators. -/
def commitShort (x : LaneHere) (m : Mask) (t : Progress) : State :=
  let fk := t.s.cur
  let spec := x.h.f.speculates true
  let s1 := killMarks t.s fk spec (marksOf x.h.f x.w)
  let s2 := match berthOf x.h.f x.w.d with
    | some r => if t.wrote then onFibre (writeBerth s1 fk spec r m (keptBits x t.dval)) fk (fun f => f.voidLanes r m) else s1
    | none => s1
  finishLane s2 (fun f => { f.orFlags t.fl with gens := t.gens })

/-- A long-latency operation is registered: its flag is raised, and it completes later. -/
def Fibre.pendLane (f : Fibre) (reg : Option Nat) (m : Mask) (v : LaneVec) (cells : List (Nat × Byte)) (marks : List Nat) (fl : Fl)
    (flag : Option Nat) (clause : Nat) : Fibre :=
  { f with
    lpend := f.lpend ++ [{ id := f.nextId, reg := reg, mask := m, value := v, cells := cells, marks := marks, aflags := fl, flag := flag,
                           clause := clause }]
    nextId := f.nextId + 1 }

/-- A long-latency word that is not a memory access has issued (R147). -/
def commitLong (x : LaneHere) (m : Mask) (t : Progress) : State :=
  let flag := x.run.flagFor false
  finishLane t.s (fun f =>
    ({ f with gens := t.gens }.raise flag).pendLane (berthOf x.h.f x.w.d) m (keptBits x t.dval) t.cells (marksOf x.h.f x.w) t.fl flag
      x.c.serial)

/-- An element-wise word (R153, R156, R164 to R167): sweeps are checked at issue, then the segments run in order. -/
def elementwise (w : LaneWord) (long : Bool) (e : Elementwise) (s : State) : Out :=
  laneOp w false false (if long then some false else none) s (fun x =>
    let m := x.active false
    let bk := bankOfFibre s.cur
    let n := x.segments
    match (sweepsNamed x.c w).findSome? (fun y => sweepFails s bk y.1 y.2 n m) with
    | some a =>
      .next (takeTrap (issueLane s x.h.f.spc n 0) true
        { cause := .scratchRange, addr := BitVec.ofInt 64 (a % 2 ^ 24), mask := m })
    | none =>
      let bm := (sweepsNamed x.c w).foldl (fun k y => k + sweepLines y.1 y.2 n m) 0
      let reach := (sweepsNamed x.c w).flatMap (fun y => (lanesOf m).map (fun l =>
        (Except.ok ((localSpots s bk (y.1 + 4 * l) 4).getD []) : Except (Word × Fail) (List Spot))))
      let d : Deed := if w.d.isSweep then .store 0 else .load
      match accessDelay s s.cur x.h.f true d n reach with
      | some st => .next (stallLane s w.sw st)
      | none =>
        let s1 := countCore (issueLane s x.h.f.spc n bm) (coreOfFibre s.cur) 0x03 w.count.toNat
        let t0 : Progress := { s := s1, dval := zeroVec, wrote := false, gens := x.h.f.gens, fl := 0#6, cells := [], killed := false }
        let t := (List.range n).foldl (segment x m long e) t0
        .next (if t.killed then t.s else if long then commitLong x m t else commitShort x m t))

/-- A word without sweeps that reads its sources and changes registers, predicates or masks (R159 to R176): `g` gives the registers
written with their lanes, the flags raised, and the change of the fibre. -/
def crossLane (w : LaneWord) (pair predOnly : Bool) (imm : BitVec 13 → Lane)
    (g : LaneHere → Mask → (a b : LaneVec) → List (Nat × Mask × LaneVec) × Fl × (Fibre → Fibre)) (s : State) : Out :=
  laneOp w pair predOnly none s (fun x =>
    let m := x.active predOnly
    let s1 := issueLane s x.h.f.spc 1 0
    let t0 : Progress := { s := s1, dval := zeroVec, wrote := false, gens := x.h.f.gens, fl := 0#6, cells := [], killed := false }
    let a := (readOperand x m t0 imm 0 0 w.a).2
    let b := (readOperand x m t0 imm 0 1 w.b).2
    let r := g x m a b
    let spec := x.h.f.speculates true
    let s2 := killMarks s1 s.cur spec (marksOf x.h.f w)
    let s3 := r.1.foldl (fun t y => onFibre (writeBerth t s.cur spec y.1 y.2.1 y.2.2) s.cur (fun f => f.voidLanes y.1 y.2.1)) s2
    .next (finishLane s3 (fun f => r.2.2 (f.orFlags r.2.1))))

end Sys2Proof.Machine
end

