-- ==== Sys2Proof/Machine/FabricOps.lean ====
section
/-! DEFINITION. Fabric operations as words (R393, R394, R423): their checks, their patterns, their charge, the completion words of `q3`
(R395), and the making of an operation. -/

namespace Sys2Proof.Machine

/-- The pattern index of an operation. -/
def FabricWords.pat (w : FabricWords) : Nat := wfld w.w0 46 6
/-- LW. -/
def FabricWords.lw (w : FabricWords) : Bool := wfld w.w0 45 1 == 1
/-- W64. -/
def FabricWords.w64 (w : FabricWords) : Bool := wfld w.w0 44 1 == 1
/-- FMT. -/
def FabricWords.fmt (w : FabricWords) : Nat := wfld w.w0 40 4
/-- BOP. -/
def FabricWords.bop (w : FabricWords) : Nat := wfld w.w0 38 2
/-- GTAG. -/
def FabricWords.gtag (w : FabricWords) : Nat := wfld w.w0 16 16
/-- The low half of word 3: a size or a count. -/
def FabricWords.count (w : FabricWords) : Nat := wfld w.w3 0 32
/-- LOFF. -/
def FabricWords.loff (w : FabricWords) : BitVec 32 := bits w.w3 32 32

/-- The fields that every kind shares (R393). -/
def commonOk (kind red : Nat) (w : FabricWords) : Bool :=
  wfld w.w0 32 6 == 0 && wfld w.w0 0 16 == 0 && canonical w.w1 && (kind == 4 || !w.w64) &&
    (if kind = 3 then reductionOk red w.fmt w.bop else w.fmt == 0 && w.bop == 0) && (w.lw || w.gtag == 0)

/-- The words of a store, copy or reduction (R393): sizes, counts, alignment and the landing word. -/
def movingOk (kind : Nat) (w : FabricWords) : Bool :=
  (if w.lw then w.w1.toNat % 16 == 0 else w.loff == 0#32) &&
    (if kind = 1 then decide (w.count ∈ [1, 2, 4, 8]) && w.w1.toNat % w.count == 0
     else w.count != 0 && (kind != 3 || w.count % reduceWidth w.fmt == 0) && (!localForm w.w2 || wfld w.w2 24 32 == 0))

/-- The words of an atomic (R393, R404); operation 2 is CAS. -/
def atomicOk (red : Nat) (w : FabricWords) : Bool :=
  !w.lw && w.w1.toNat % (if w.w64 then 8 else 4) == 0 && (w.w64 || (wfld w.w2 32 32 == 0 && wfld w.w3 32 32 == 0)) &&
    (red == 2 || w.w3 == 0#64)

/-- An operation of kind 1 to 4 that keeps R393. -/
def operationOk (kind red : Nat) (w : FabricWords) : Bool :=
  commonOk kind red w && (if kind = 4 then atomicOk red w else movingOk kind w)

/-- The queue fields of an operation pushed to `q2` (R393). -/
def queueFieldsOk (w : FabricWords) : Bool :=
  let qop := wfld w.w0 57 3
  (if wfld w.w0 60 4 = 3 then decide (qop < 5) else qop == 0) && decide (wfld w.w0 52 4 ≤ 12)

/-- The flag that QFLAG names. -/
def queueFlag (w : FabricWords) : Option Nat := if wfld w.w0 52 4 = 0 then none else some (wfld w.w0 52 4 - 1)

/-- What a pattern gives an operation (R388, R389, R400, R404): the axis fields on the wire, the number of members, and the contributor
index; none where it is refused. -/
def aim (c : Context) (kind : Nat) (i : Nat) : Option (List (BitVec 16) × Nat × Nat) :=
  let g := gridOf c
  let p := patternOf c i
  match patternValues g p with
  | none => none
  | some v =>
    if kind = 3 then
      (if !isMember v g.coord || decide (4096 < contributors g p v) then none else some (convergingOn v, 1, contributorIndex g p v))
    else if kind = 4 && memberCount v != 1 then none
    else some (resolvePattern g p, memberCount v, 0)

/-- The charge to `bm` (R392). -/
def fabricCharge (kind : Nat) (w : FabricWords) : Nat := if kind = 1 ∨ kind = 4 then 1 else (w.count + 63) / 64

/-- The chunks of an operation (R397). -/
def fabricChunks (kind : Nat) (w : FabricWords) : Nat := if kind = 1 ∨ kind = 4 then 1 else chunkCount w.count

/-- Who sends an operation. -/
structure Sender where
  fibre : Nat
  serial : Nat
  ctx : Nat

/-- An operation accepted for a sender, with its pattern resolved. -/
def makeOp (o : Sender) (kind red : Nat) (w : FabricWords) (queued : Bool) (flag dest : Option Nat)
    (a : List (BitVec 16) × Nat × Nat) : FabricOp :=
  { words := w, kind := kind, red := red, queued := queued, taken := !queued, fibre := o.fibre, bank := bankOfFibre o.fibre,
    serial := o.serial, ctx := o.ctx, core := coreOfFibre o.fibre, flag := flag, pattern := a.1, members := a.2.1,
    contributor := a.2.2, remoteAddr := w.w1, dest := dest, chunks := fabricChunks kind w, sent := 0, left := false, acks := [],
    void := none, stopped := false, refused := false, data := [], asked := none }

/-! ### Completion words (R395) -/

/-- A word posted to `q3`: 16 and then 64 held, beyond that dropped, which the next word tells. -/
def Fibre.pushQ3 (f : Fibre) (x : Word) : Fibre :=
  if 80 ≤ f.q3.length then { f with q3lost := true }
  else { f with q3 := f.q3 ++ [if f.q3lost then x ||| BitVec.twoPow 64 63 else x], q3lost := false }

/-- The linear index of this package in a context's crossing (R386). -/
def ownIndex (c : Context) : Nat := linearIndex (gridOf c).extents (gridOf c).coord

/-- A completion word (R395). -/
def fabricWord (queued : Bool) (kind : Nat) (sender : Bool) (status gtag target chunk : Nat) : Word :=
  BitVec.ofNat 64 ((if queued then 0 else 2 ^ 62) + kind * 2 ^ 58 + sender.toNat * 2 ^ 56 + status * 2 ^ 48 + gtag * 2 ^ 32 +
    target % 65536 * 65536 + chunk % 65536)

/-- The sender's own report of an operation. -/
def postSender (s : State) (o : Sender) (queued : Bool) (kind status gtag chunk : Nat) : State :=
  match lookup s.contexts o.ctx with
  | none => s
  | some c => onOwner s o.serial o.fibre (fun f => f.pushQ3 (fabricWord queued kind true status gtag (ownIndex c) chunk))

/-- A flag of a sender falls. -/
def lowerSender (s : State) (o : Sender) (flag : Option Nat) : State := onOwner s o.serial o.fibre (fun f => f.complete flag 0#6)

/-! ### Triggered sends (R413, R414, R423) -/

/-- The kind of an armed operation. -/
def armedKind (w : FabricWords) : Nat := wfld w.w0 60 4
/-- Its reduction. -/
def armedRed (w : FabricWords) : Nat := wfld w.w0 57 3

/-- The sender of an armed send. -/
def Armed.sender (a : Armed) : Sender := { fibre := a.fibre, serial := a.serial, ctx := a.ctx }

/-- A released send acts as the instruction form issued now: its pattern is read now, and one that is no longer valid is reported. -/
def actSend (s : State) (a : Armed) : State :=
  match lookup s.contexts a.ctx with
  | none => s
  | some c =>
    match aim c (armedKind a.op) a.op.pat with
    | some x => addFabricOp s (makeOp a.sender (armedKind a.op) (armedRed a.op) a.op false a.flag none x)
    | none => lowerSender (postSender s a.sender false (armedKind a.op) 13 a.op.gtag 0) a.sender a.flag

/-- A send is cancelled or discarded: its flag falls and CANCELLED is posted (R414). -/
def cancelSend (s : State) (a : Armed) : State :=
  lowerSender (postSender s a.sender false (armedKind a.op) 14 a.op.gtag 0) a.sender a.flag

/-- The unit of a landing word with other sends. -/
def setArmed (s : State) (p : Nat) (l : List Armed) : State :=
  if inStore p then onBank s (placeBank p) (fun b => { b with armed := l }) else { s with memArmed := l }

/-- A generation satisfies a wait for `g` (R209). -/
def satisfies (gen g : BitVec 16) : Bool := decide ((gen - g).toNat < 32768)

/-- The sends armed on a word for generations that `gen` satisfies are released (R207). -/
def releaseSends (s : State) (p : Nat) (gen : BitVec 16) : State :=
  let hit (a : Armed) : Bool := a.place == p && satisfies gen a.gen
  let l := armedAt s p
  if l.any hit then (l.filter hit).foldl actSend (setArmed s p (l.filter (fun a => !hit a))) else s

end Sys2Proof.Machine
end

