-- ==== Sys2Proof/Machine/Landing.lean ====
section
/-! DEFINITION. Landing words (R205 to R209, R402): arrivals, the completion of a generation and what it releases, among it held
launches (R344), and the landing-word instructions (R248 to R252). -/

namespace Sys2Proof.Machine

/-! ### The word (R205) -/

/-- The fields of a landing word. -/
structure LWord where
  target : BitVec 32
  count : BitVec 32
  gen : BitVec 16
  flags : BitVec 8
  logc : BitVec 8
  moff : BitVec 32
  deriving DecidableEq, Repr

/-- The bytes of a place as the mapping of a key shows them; a byte whose tag fails shows as zero. -/
def viewNumber (s : State) (p n : Nat) (key : Option Nat) : Nat :=
  leNat ((List.range n).map (fun i => (viewByte s (p + i) key).getD 0#8))

/-- The word at a place. -/
def readWord (s : State) (p : Nat) (key : Option Nat) : LWord :=
  let n := viewNumber s p 16 key
  { target := BitVec.ofNat 32 (fld n 0 32), count := BitVec.ofNat 32 (fld n 32 32), gen := BitVec.ofNat 16 (fld n 64 16),
    flags := BitVec.ofNat 8 (fld n 80 8), logc := BitVec.ofNat 8 (fld n 88 8), moff := BitVec.ofNat 32 (fld n 96 32) }

/-- Its 16 bytes. -/
def LWord.bytes (w : LWord) : List Byte :=
  leBytes 4 w.target.toNat ++ leBytes 4 w.count.toNat ++ leBytes 2 w.gen.toNat ++ leBytes 1 w.flags.toNat ++ leBytes 1 w.logc.toNat ++
    leBytes 4 w.moff.toNat

/-- ARMED. -/
def LWord.armed (w : LWord) : Bool := w.flags.getLsbD 0
/-- FLAGS[7:3] is zero and LOGC at most 12. -/
def LWord.ok (w : LWord) : Bool := bits w.flags 3 5 == 0#5 && decide (w.logc.toNat ≤ 12)

/-- A word written: one update of its landing unit. -/
def writeWord (s : State) (p : Nat) (key : Option Nat) (w : LWord) : State := write s key (cells p w.bytes)

/-- The place of the manifest. -/
def LWord.manifest (w : LWord) (p : Nat) : Nat := p + w.moff.toNat

/-- LEN, as LWINIT recorded it (R249, R402). -/
def manifestLen (s : State) (w : LWord) (p : Nat) (key : Option Nat) : Nat := viewNumber s (w.manifest p + 8) 4 key

/-- A manifest of `len` bytes keeps the bounds of R205: below offset 0x0C0000 of the scratchpad, or within the word's 512 KiB block. -/
def manifestInside (p moff len : Nat) : Bool :=
  if inStore p then decide (placeOffset p + moff + len ≤ 0xC0000) else decide (p % 2 ^ 19 + moff + len ≤ 2 ^ 19)

/-- An event of a landing word: 0 credited, 1 stale, 2 duplicate, 3 malformed, 4 completed (R221, R299). -/
def countLanding (s : State) (p i : Nat) : State :=
  if inStore p then countCore s (placeBank p % 1024) (0x0C + i) 1 else countController s p (0x88 + i) 1

/-! ### What a generation releases -/

/-- The fibres that wait on a word for a generation that `gen` satisfies are released (R209). -/
def releaseWaiters (s : State) (p : Nat) (gen : BitVec 16) : State :=
  { s with fibres := s.fibres.map (fun e => match e.2.sWait with
      | some (.landing q g) => if q = p && satisfies gen g then (e.1, e.2.completeWait) else e
      | _ => e) }

/-- Records `i`, `j`, `k` of a launch (R344). -/
def launchRecord (c : Context) (t : Record) (i j k : Nat) : Record :=
  let x := (wfld t.w3 0 16 + i) % 65536
  let y := (wfld t.w3 16 16 + j) % 65536
  let z := (wfld t.w3 32 16 + k) % 65536
  { t with w3 := stampPartition c (BitVec.ofNat 64 (x + y * 2 ^ 16 + z * 2 ^ 32)) }

/-- The counter of a join record raised. -/
def joinAdd (s : State) (n : Nat) (j : Link) (by' : Nat) : State :=
  match j.places s n with
  | some l =>
    let part := (l.drop 16).take 4
    contextWrite s part (leBytes 4 (contextNumber s part + by'))
  | none => s

/-- The extent word of a launch; free where its address cannot be read. -/
def launchExtent (s : State) (l : Launch) : Nat :=
  match contextPlaces s (envOfView s l.ctx l.view) l.extent 8 .read with
  | some x => contextNumber s x
  | none => leNat ((List.range 8).map (fun i => Config.freeByte s.tick (l.extent.toNat + i)))

/-- A held launch is released (R344); its sailing may end with it (R318). -/
def releaseLaunch (s : State) (l : Launch) : State :=
  match lookup s.contexts l.ctx with
  | none => s
  | some c =>
    let x := launchExtent s l
    let nx := fld x 0 16
    let ny := fld x 16 16
    let nz := fld x 32 16
    let n := nx * ny * nz
    let done :=
      if l.most < n then endAbnormal s l.ctx l.view.own l.template l.joinLink 8 0
      else if n = 0 then childEnd 64 s l.ctx l.joinLink false
      else
        let t := match l.joinLink with
          | some j => joinAdd s l.ctx j (n - 1)
          | none => s
        (List.range n).foldl
          (fun u m => enqueue u l.ctx (launchRecord c l.template (m / (ny * nz)) (m / nz % ny) (m % nz)) l.joinLink l.carve 0) t
    settleSailing done l.ctx

/-- The launches held on a word for a generation that `gen` satisfies are released. -/
def releaseLaunches (s : State) (p : Nat) (gen : BitVec 16) : State :=
  let hit (l : Launch) : Bool := l.place == p && satisfies gen l.gen
  if s.launches.any hit then
    (s.launches.filter hit).foldl releaseLaunch { s with launches := s.launches.filter (fun l => !hit l) }
  else s

/-- What any change of GEN releases. -/
def afterGen (s : State) (p : Nat) (gen : BitVec 16) : State := releaseLaunches (releaseWaiters s p gen) p gen

/-- A generation completes (R207). -/
def completeWord (s : State) (p : Nat) (key : Option Nat) (w : LWord) : State :=
  let more := decide (w.target.toNat < w.count.toNat)
  let flags := (w.flags &&& 0xFE#8) ||| (if more then 4#8 else 0#8)
  let w' : LWord := { w with gen := w.gen + 1#16, count := 0#32, target := 0#32, flags := flags }
  let len := manifestLen s w p key
  let s1 := writeWord s p key w'
  let s2 :=
    if w.moff = 0#32 || !manifestInside p w.moff.toNat len || decide (len ≤ 16) then s1
    else write s1 key (cells (w.manifest p + 16) (List.replicate (len - 16) 0#8))
  afterGen (releaseSends (countLanding s2 p 4) p w'.gen) p w'.gen

/-! ### Arrivals (R206, R402) -/

/-- An arrival: its generation tag, the bytes it counts, its contributor and chunk, and whether it is void. -/
structure Credit where
  tag : BitVec 16
  n : Nat
  who : Option (Nat × Nat)
  void : Bool

/-- What becomes of an arrival. -/
inductive Landed where
  | credited | stale | duplicate | malformed
  deriving DecidableEq, Repr

/-- The byte of the manifest and the bit in it of a contributor's chunk. -/
def chunkBit (w : LWord) (c k : Nat) : Nat × Nat := (16 + (k * 2 ^ w.logc.toNat + c) / 8, (k * 2 ^ w.logc.toNat + c) % 8)

/-- The owner of a word in scratchpad has been killed and drains (R219). -/
def ownerKilled (s : State) (p : Nat) : Bool :=
  inStore p && (match lookup s.crews (placeBank p) with | some w => w.ending == some .killed | none => false)

/-- Steps 1 to 3 of R206. -/
def judge (s : State) (p : Nat) (key : Option Nat) (a : Credit) : Landed :=
  let w := readWord s p key
  let len := manifestLen s w p key
  let manifest := w.moff != 0#32
  if ownerKilled s p then .stale
  else if !w.ok || (manifest && !manifestInside p w.moff.toNat (max len 16)) then .malformed
  else if manifest && (match a.who with | some (c, _) => decide (2 ^ w.logc.toNat ≤ c) | none => false) then .malformed
  else if a.tag ≠ w.gen then .stale
  else
    match a.who with
    | none => .credited
    | some (c, k) =>
      if !manifest then .credited
      else
        let b := chunkBit w c k
        if len ≤ b.1 then .malformed
        else if (BitVec.ofNat 8 (viewNumber s (w.manifest p + b.1) 1 key)).getLsbD b.2 then .duplicate
        else .credited

/-- The manifest after a credited arrival: the header of the last generation is zeroed first (R207), then the chunk's bit and a void
arrival are recorded. -/
def markManifest (s : State) (p : Nat) (key : Option Nat) (w : LWord) (a : Credit) : State :=
  if w.moff = 0#32 then s
  else
    let m := w.manifest p
    let s1 := if w.count = 0#32 then write s key (cells m (List.replicate 8 0#8)) else s
    match a.who with
    | none => s1
    | some (c, k) =>
      let b := chunkBit w c k
      let byte := BitVec.ofNat 8 (viewNumber s1 (m + b.1) 1 key) ||| BitVec.twoPow 8 b.2
      let s2 := write s1 key [(m + b.1, byte)]
      if !a.void then s2
      else
        let poidx := viewNumber s2 m 4 key
        let least := if poidx = 0 then c + 1 else min poidx (c + 1)
        write s2 key (numberCells m 4 least ++ numberCells (m + 4) 4 (viewNumber s2 (m + 4) 4 key + 1))

/-- What an arrival meets in the units of the word and of the manifest that it reads or writes in part (R217): one that fails kills the owner (R218). -/
def meetArrival (s : State) (p : Nat) (key : Option Nat) (a : Credit) : State :=
  let t := meet s ((List.range 16).map (p + ·))
  let w := readWord t p key
  let m := w.manifest p
  let ps := (List.range 16).map (p + ·) ++ (if w.moff = 0#32 then [] else
    (List.range 16).map (m + ·) ++ (match a.who with | some (c, k) => [m + (chunkBit w c k).1] | none => []))
  let u := meet t ps
  match ps.find? (fun q => inStore q && unitPoisoned u q) with
  | some q => (meetFailed u (placeBank p) q).1
  | none => u

/-- An arrival applied to the word at a place as one indivisible update; `place` puts its data where it belongs. -/
def arrive (s0 : State) (p : Nat) (key : Option Nat) (a : Credit) (place : State → State) : State × Landed :=
  let s := meetArrival s0 p key a
  let w := readWord s p key
  match judge s p key a with
  | .stale => (countLanding s p 1, .stale)
  | .duplicate => (countLanding s p 2, .duplicate)
  | .malformed => (countLanding s p 3, .malformed)
  | .credited =>
    let s1 := markManifest (place s) p key w a
    let w' : LWord := { w with
      count := BitVec.ofNat 32 (min (w.count.toNat + a.n) (2 ^ 32 - 1)), flags := if a.void then w.flags ||| 2#8 else w.flags }
    let s2 := countLanding s1 p 0
    (if w'.armed && decide (w'.target.toNat ≤ w'.count.toNat) then completeWord s2 p key w' else writeWord s2 p key w', .credited)

/-! ### References (R205, R248) -/

/-- Where a landing reference leads. -/
inductive LandingAt where
  | trap (c : Cause) (addr : Word)
  | fail (at' : Word) (x : Fail)
  | word (place : Nat) (key : Option Nat)
  deriving DecidableEq, Repr

/-- A reference of a crew resolved and checked. A scratchpad offset of the window of a bank that is Empty, or of a retired core, reaches no word: it
is refused as LW_PLACE and not counted as an access (log 127). -/
def resolveLanding (s : State) (env : Env) (bk : Nat) (v : Word) (w : Want) : LandingAt :=
  if v.toNat % 16 ≠ 0 then .trap .memAlign v
  else if localForm v then
    if wfld v 24 32 ≠ 0 then .trap .lwOperand 0#64
    else
      match localPlaces s bk (wfld v 0 24) 16 with
      | some (p :: _) => .word p none
      | _ => .trap .scratchRange (BitVec.ofNat 64 (wfld v 0 24))
  else
    match spots s env v 16 w false with
    | .error (a, x) => .fail a x
    | .ok l =>
      match l.head? with
      | none => .trap .lwPlace 0#64
      | some x =>
        match x.place with
        | some p => if inHost p || (inStore p && decide (0xC0000 ≤ placeOffset p)) then .trap .lwPlace 0#64 else .word p x.page.key
        | none => .trap .lwPlace 0#64

/-- The spots of a landing word. -/
def wordSpots (p : Nat) (key : Option Nat) : List Spot :=
  (List.range 16).map (fun i => { phys := p + i, place := some (p + i), page := { localPage with key := key } })

/-- The charge to `bm` for a landing word: 1 in device memory or a peer window (R224). -/
def landingToll (v : Word) (p : Nat) : Nat := if !inStore p || (localForm v && isPeer (wfld v 0 24)) then 1 else 0

/-- A landing word of a deck-peer window is accessed: counted at the cluster of the accessing fibre (R271). -/
def peerWord (s : State) (v : Word) (d : Deed) : State := if localForm v && isPeer (wfld v 0 24) then countPeer s d else s

/-- A landing-word instruction (R248): the reference is resolved and checked; where the word is read, its units are met, and `body` gets the
state, the word's place and its key. `more` is what it charges beside its word where it is parked at its first issue (R224). -/
def landingOp (sw : Bool) (reads : List (BitVec 6)) (x : BitVec 6) (want : Want) (reading : Bool) (more : Here → Nat)
    (body : State → Here → Nat → Option Nat → Out) (s0 : State) : Out :=
  unfenced sw reads s0 (fun h =>
    let v := h.f.readS x
    let s := if localForm v then s0 else walkedRange s0 h.env v 16
    match resolveLanding s h.env (bankOfFibre s.cur) v want with
    | .trap c a => .next (trapScalar (issueAccess s h.f 0) c a)
    | .fail a y => .next (rangeFail (issueAccess s h.f (if y.waits a (replayAfter h.f) then 1 + more h else 0)) h.f want (a, y))
    | .word p key =>
      if !reading then body s h p key
      else
        match meetRead s (bankOfFibre s.cur) (wordSpots p key) with
        | (t, some (i, y)) =>
          .next (scalarFail (issueAccess t h.f 0) (replayAfter h.f) (v + BitVec.ofNat 64 i) y want)
        | (t, none) => if (readWord t p key).ok then body t h p key else trapIssued t h.f .lwOperand)

/-! ### The instructions (R249 to R252) -/

/-- The lines of a manifest outside the crew's own scratchpad. -/
def manifestLines (bk m n : Nat) : Nat :=
  if inStore m && placeBank m == bk then 0 else linesTouched ((List.range n).map (m + ·))

/-- The operands of LWINIT that R249 refuses, whatever the word's place. -/
def initRefused (c : Word) (n : Nat) : Bool :=
  decide (wfld c 20 12 ≠ 0 ∨ 12 < wfld c 16 4 ∨ n % 16 ≠ 0 ∨ (0 < n ∧ wfld c 32 32 = 0) ∨ 65536 < n ∨ (wfld c 32 32 ≠ 0 ∧ n < 16))

/-- LWINIT (R249): it writes the word as if nothing had been credited, so an earlier credit is erased (R425). -/
def execLwinit (sw : Bool) (x y z : BitVec 6) (s : State) : Out :=
  landingOp sw [x, y, z] x .write false
    (fun h =>
      let n := (h.f.readS z).toNat
      let m := (h.f.readS x).toNat + wfld (h.f.readS y) 32 32
      if initRefused (h.f.readS y) n then 0 else linesTouched ((List.range n).map (m + ·)))
    (fun s h p key =>
    let c := h.f.readS y
    let n := (h.f.readS z).toNat
    let moff := wfld c 32 32
    if initRefused c n ∨ (moff ≠ 0 ∧ !manifestInside p moff n) then trapIssued s h.f .lwOperand
    else
      let w : LWord := { target := 0#32, count := 0#32, gen := bits c 0 16, flags := 0#8, logc := BitVec.ofNat 8 (wfld c 16 4),
                         moff := BitVec.ofNat 32 moff }
      let m := p + moff
      let toll := landingToll (h.f.readS x) p + manifestLines (bankOfFibre s.cur) m n
      let t := peerWord (issueAccess s h.f toll) (h.f.readS x) (.store 0)
      let t1 := if n = 0 then t else write t key (cells m (List.replicate 8 0#8 ++ leBytes 4 n ++ List.replicate (n - 12) 0#8))
      .next (onCur (afterGen (writeWord t1 p key w) p w.gen) Fibre.next4)) s

/-- LWARM (R250). -/
def execLwarm (sw : Bool) (x y z : BitVec 6) (s : State) : Out :=
  landingOp sw [x, y] x .write true (fun _ => 0) (fun s h p key =>
    let n := h.f.readS y
    if wfld n 0 32 = 0 ∨ wfld n 32 32 ≠ 0 then trapIssued s h.f .lwOperand
    else
      let t := peerWord (issueAccess s h.f (landingToll (h.f.readS x) p)) (h.f.readS x) (.update some)
      let w := readWord t p key
      let old := BitVec.ofNat 64 (viewNumber t (p + 8) 8 key)
      let w' : LWord := { w with target := bits n 0 32, flags := 1#8 }
      let u := if w'.target.toNat ≤ w'.count.toNat then completeWord t p key w' else writeWord t p key w'
      .next (onCur u (fun f => (f.writeS z old).next4))) s

/-- LWADD (R251). -/
def execLwadd (sw : Bool) (x y z : BitVec 6) (s : State) : Out :=
  landingOp sw [x, y, z] x .write true (fun _ => 0) (fun s h p key =>
    let n := h.f.readS y
    let g := h.f.readS z
    if wfld n 32 32 ≠ 0 ∨ wfld g 16 48 ≠ 0 then trapIssued s h.f .lwOperand
    else
      let t := peerWord (issueAccess s h.f (landingToll (h.f.readS x) p)) (h.f.readS x) (.update some)
      let r := arrive t p key { tag := bits g 0 16, n := wfld n 0 32, who := none, void := false } id
      .next (onCur r.1 Fibre.next4)) s

/-- LWAIT (R252): it waits at its address until GEN satisfies `g`. -/
def execLwait (sw : Bool) (x y : BitVec 6) (s : State) : Out :=
  landingOp sw [x, y] x .read true (fun _ => 0) (fun s h p key =>
    let g := h.f.readS y
    if wfld g 16 48 ≠ 0 then trapIssued s h.f .lwOperand
    else
      let t := peerWord (issueAccess s h.f (landingToll (h.f.readS x) p)) (h.f.readS x) .load
      if satisfies (readWord t p key).gen (bits g 0 16) then .next (onCur t Fibre.next4)
      else .next (waitHere t true (.landing p (bits g 0 16)))) s

/-- LWTEST (R252): bytes 4 to 11 in one read. -/
def execLwtest (sw : Bool) (x y : BitVec 6) (s : State) : Out :=
  landingOp sw [x] x .read true (fun _ => 0) (fun s h p key =>
    let t := peerWord (issueAccess s h.f (landingToll (h.f.readS x) p)) (h.f.readS x) .load
    .next (onCur t (fun f => (f.writeS y (BitVec.ofNat 64 (viewNumber t (p + 4) 8 key))).next4))) s

end Sys2Proof.Machine
end

