-- ==== Sys2Proof/Machine/Functions.lean ====
section
/-! DEFINITION. The functions of R158. The exact bits within the bounds are the implementation's (R158): each result is the free value
`Config.function` where that lies within the bound, and otherwise the exact value rounded. The exact values are computed here in
fixed point, to far more bits than a bound asks for. -/

namespace Sys2Proof.Machine

/-- The fraction bits of the fixed-point values. -/
def fix : Nat := 512

/-- x − x³/3 + … : atan(1/n) in units of 2^-q, `k` terms left, `t` = 1/n^i, with alternating signs. -/
def atanTerms (k i n t : Nat) (plus : Bool) (acc : Int) : Int :=
  match k with
  | 0 => acc
  | k + 1 => atanTerms k (i + 2) n (t / (n * n)) (!plus) (if plus then acc + (t / i : Nat) else acc - (t / i : Nat))

/-- π in units of 2^-720. -/
def piFix : Nat :=
  (4 * (4 * atanTerms 160 1 5 (2 ^ 720 / 5) true 0 - atanTerms 160 1 239 (2 ^ 720 / 239) true 0)).toNat

/-- ln 2 in units of 2^-fix. -/
def ln2Fix : Nat := (List.range 540).foldl (fun a k => a + 2 ^ fix / ((k + 1) * 2 ^ (k + 1))) 0

/-- e^x in units of 2^-fix, for x below 1 in the same units. -/
def expTerms (k i t x acc : Nat) : Nat :=
  match k with
  | 0 => acc
  | k + 1 => expTerms k (i + 1) (t * x / 2 ^ fix / i) x (acc + t)

/-- 2^x for a fraction x in units of 2^-fix. -/
def exp2Fraction (x : Nat) : Nat := expTerms 120 1 (2 ^ fix) (x * ln2Fix / 2 ^ fix) 0

/-- 2^x for x = n + f: the magnitude. -/
def exp2Mag (x : Int) : Mag :=
  { m := exp2Fraction (x % 2 ^ fix).toNat, e := x / 2 ^ fix - fix, sticky := true }

/-- A signed value m × 2^e in units of 2^-fix. -/
def toFix (neg : Bool) (m : Nat) (e : Int) : Int :=
  let k := e + fix
  let v : Nat := if 0 ≤ k then m * 2 ^ k.toNat else m / 2 ^ (-k).toNat
  if neg then -(v : Int) else (v : Int)

/-- y + y³/3 + … in units of 2^-fix. -/
def atanhTerms (k i t y2 acc : Nat) : Nat :=
  match k with
  | 0 => acc
  | k + 1 => atanhTerms k (i + 2) (t * y2 / 2 ^ fix) y2 (acc + t / i)

/-- log₂ of m × 2^e in units of 2^-fix. -/
def log2Fix (m : Nat) (e : Int) : Int :=
  let l := Nat.log2 m
  let x := m * 2 ^ fix / 2 ^ l
  let y := (x - 2 ^ fix) * 2 ^ fix / (x + 2 ^ fix)
  let ln := 2 * atanhTerms 180 1 y (y * y / 2 ^ fix) 0
  (e + l) * 2 ^ fix + (ln * 2 ^ fix / ln2Fix : Nat)

/-- x − x³/6 + … or 1 − x²/2 + … in units of 2^-fix. -/
def sinTerms (k i t x2 : Nat) (plus : Bool) (acc : Int) : Int :=
  match k with
  | 0 => acc
  | k + 1 => sinTerms k (i + 2) (t * x2 / 2 ^ fix / ((i + 1) * (i + 2))) x2 (!plus) (if plus then acc + t else acc - t)

/-- sin (or cos) of m × 2^e, in units of 2^-fix, the argument reduced exactly. -/
def sinFix (cos : Bool) (m : Nat) (e : Int) : Int :=
  let half := piFix / 2
  let x := m * 2 ^ (e + 720).toNat
  let k := x / half + (if cos then 1 else 0)
  let r := x % half / 2 ^ (720 - fix)
  let x2 := r * r / 2 ^ fix
  let v := if k % 2 = 0 then sinTerms 70 1 r x2 true 0 else sinTerms 70 0 (2 ^ fix) x2 true 0
  if k % 4 < 2 then v else -v

/-- tanh of a positive m × 2^e in units of 2^-fix. -/
def tanhFix (m : Nat) (e : Int) : Nat :=
  let x := (toFix false m e).toNat
  if 200 * 2 ^ fix < x then 2 ^ fix - 1
  else
    let y := 2 * x * 2 ^ fix / ln2Fix
    let t := 2 ^ fix * 2 ^ fix / exp2Fraction (y % 2 ^ fix) / 2 ^ (y / 2 ^ fix)
    (2 ^ fix - t) * 2 ^ fix / (2 ^ fix + t)

/-! ### Choosing a result within a bound -/

/-- The exponent of one ulp of a format at a magnitude. -/
def Fmt.ulp (f : Fmt) (x : Mag) : Int := max x.top f.emin - f.mbits

/-- Whether an encoding is finite and within `n` × 2^q of every value from `lo` to `hi`, in units of 2^x. -/
def Fmt.within (f : Fmt) (c : Nat) (lo hi x : Int) (n : Nat) (q : Int) : Bool :=
  match f.decode c with
  | .nan _ | .inf _ => false
  | v =>
    let e := min (min x q) (v.exp x)
    let near (y : Int) : Bool := decide ((v.at e - y * 2 ^ (x - e).toNat).natAbs ≤ n * 2 ^ (q - e).toNat)
    near lo && near hi

/-- Whether an encoding is finite and within 2^q of 1/√(m × 2^e), decided without a root: (c + 2^q)²·m·2^e is at least 1, and (c − 2^q)²·m·2^e at most 1
where c exceeds 2^q. -/
def Fmt.withinRoot (f : Fmt) (c m : Nat) (e q : Int) : Bool :=
  match f.decode c with
  | .nan _ | .inf _ => false
  | v =>
    let x := min q (v.exp q)
    let u : Int := 2 ^ (q - x).toNat
    let k := 2 * x + e
    let square (y : Int) : Int := y * y * m * 2 ^ k.toNat
    let one : Int := 2 ^ (-k).toNat
    decide (0 ≤ v.at x + u) && decide (one ≤ square (v.at x + u)) && (decide (v.at x ≤ u) || decide (square (v.at x - u) ≤ one))

/-- The flags of a finite result that the table does not call exact (R158). -/
def Fmt.inexactResult (f : Fmt) (c : Nat) : Nat × Fl :=
  let mag := c % 2 ^ (f.width - 1)
  (c, Fl.inexact ||| raiseIf (mag != 0 && decide (mag < 2 ^ f.mbits)) Fl.underflow)

/-- The implementation's result where it keeps a bound, else the exact value rounded, which keeps it. An overflow is R95's. -/
def Fmt.chosen (f : Fmt) (op a : Nat) (neg : Bool) (x : Mag) (ok : Nat → Bool) : Nat × Fl :=
  let exact := f.round neg x .rne false 0
  if exact.2 &&& Fl.overflow ≠ 0#6 then exact
  else
    let c := Config.function op f.width a % 2 ^ f.width
    f.inexactResult (if ok c then c else exact.1)

/-- The error of a fixed-point value, in its units. -/
def fixError : Int := 2 ^ 16

/-- A result within n × 2^q of a fixed-point value. -/
def Fmt.bounded (f : Fmt) (op a : Nat) (neg : Bool) (x : Mag) (n : Nat) (q : Int) : Nat × Fl :=
  let v : Int := if neg then -(x.m : Int) else x.m
  f.chosen op a neg x (fun c => f.within c (v - fixError) (v + fixError) x.e n q)

/-- The exponent of one ulp at the least magnitude that a fixed-point value stands for. -/
def Fmt.ulpBelow (f : Fmt) (x : Mag) : Int := f.ulp { x with m := x.m - fixError.toNat }

/-- A result within `n` ulp of a fixed-point value. -/
def Fmt.boundedUlp (f : Fmt) (op a : Nat) (neg : Bool) (x : Mag) (n : Nat) : Nat × Fl := f.bounded op a neg x n (f.ulpBelow x)

/-- A fixed-point value as a magnitude. -/
def fixMag (v : Nat) : Mag := { m := v, e := -(fix : Int), sticky := true }

/-- An invalid operand. -/
def Fmt.invalidNaN (f : Fmt) (sig : Bool) : Nat × Fl := (f.canonicalNaN, raiseIf sig Fl.invalid)

/-- FRCP (R158): correctly rounded, so that a representable reciprocal is exact (the run of R273 leaves AFLAGS at 0). -/
def Fmt.frcp (f : Fmt) (a : Nat) : Nat × Fl :=
  match f.decode a with
  | .nan s => f.invalidNaN s
  | .zero n => (f.sign n (f.inf.getD 0), Fl.divzero)
  | .inf n => (f.sign n 0, 0#6)
  | .fin n m e => f.round n (divMag 1 0 m e) .rne false 0

/-- FRSQ (R158). -/
def Fmt.frsq (f : Fmt) (a : Nat) : Nat × Fl :=
  match f.decode a with
  | .nan s => f.invalidNaN s
  | .zero n => (f.sign n (f.inf.getD 0), Fl.divzero)
  | .inf false => (0, 0#6)
  | .inf true | .fin true _ _ => f.invalidNaN true
  | .fin false m e =>
    let q := divMag 1 0 m e
    let x := sqrtMag q.m q.e
    f.chosen 0x08C a false x (fun c => f.withinRoot c m e (f.ulp x))

/-- FEXP2 (R158): exact for an integral operand with a representable result; far below the format the result lies within 2 ulp of a value above 0 that no
unit of the format shows. -/
def Fmt.fexp2 (f : Fmt) (a : Nat) : Nat × Fl :=
  match f.decode a with
  | .nan s => f.invalidNaN s
  | .inf true => (0, 0#6)
  | .inf false => (f.inf.getD 0, 0#6)
  | .zero _ => f.round false { m := 1, e := 0, sticky := false } .rne false 0
  | .fin n m e =>
    if 20 < Nat.log2 m + e then
      if n then
        let c := Config.function 0x08D f.width a % 2 ^ f.width
        f.inexactResult (if f.within c 0 1 (f.emin - f.mbits - 64) 2 (f.emin - f.mbits) then c else 0)
      else f.overflow false .rne false
    else
      let x := toFix n m e
      if x % 2 ^ fix = 0 ∧ f.emin - f.mbits ≤ x / 2 ^ fix then
        f.round false { m := 1, e := x / 2 ^ fix, sticky := false } .rne false 0
      else f.bounded 0x08D a false (exp2Mag x) 2 (f.ulp (exp2Mag x))

/-- FLOG2 (R158): exact for powers of two. -/
def Fmt.flog2 (f : Fmt) (a : Nat) : Nat × Fl :=
  match f.decode a with
  | .nan s => f.invalidNaN s
  | .zero _ => (f.sign true (f.inf.getD 0), Fl.divzero)
  | .inf false => (f.inf.getD 0, 0#6)
  | .inf true | .fin true _ _ => f.invalidNaN true
  | .fin false m e =>
    if m = 2 ^ Nat.log2 m then
      let k := e + Nat.log2 m
      if k = 0 then (0, 0#6) else f.round (k < 0) { m := k.natAbs, e := 0, sticky := false } .rne false 0
    else
      let v := log2Fix m e
      f.boundedUlp 0x08E a (v < 0) (fixMag v.natAbs) 2

/-- FSIN or FCOS (R158): an absolute bound of 2^-22, to which a format of 16 bits, in which no result keeps it, adds half an ulp (log 18). -/
def Fmt.fsincos (f : Fmt) (cos : Bool) (a : Nat) : Nat × Fl :=
  match f.decode a with
  | .nan s => f.invalidNaN s
  | .inf _ => f.invalidNaN true
  | .zero n => if cos then f.round false { m := 1, e := 0, sticky := false } .rne false 0 else (f.sign n 0, 0#6)
  | .fin n m e =>
    let v := if n && !cos then -(sinFix cos m e) else sinFix cos m e
    let x := fixMag v.natAbs
    if v = 0 then f.inexactResult 0
    else
      let q := min (f.ulpBelow x - 1) (-22)
      let half : Nat := if f.width = 32 then 0 else 2 ^ (f.ulpBelow x - 1 - q).toNat
      f.bounded (if cos then 0x090 else 0x08F) a (v < 0) x (2 ^ (-22 - q).toNat + half) q

/-- FTANH (R158). -/
def Fmt.ftanh (f : Fmt) (a : Nat) : Nat × Fl :=
  match f.decode a with
  | .nan s => f.invalidNaN s
  | .inf n => ((f.round n { m := 1, e := 0, sticky := false } .rne false 0).1, 0#6)
  | .zero n => (f.sign n 0, 0#6)
  | .fin n m e =>
    let x := fixMag (tanhFix m e)
    if x.m + 1 = 2 ^ fix then
      f.chosen 0x091 a n x (fun c => if n then f.within c (-(2 ^ fix)) (-x.m) x.e 2 (f.ulp x) else f.within c x.m (2 ^ fix) x.e 2 (f.ulp x))
    else f.boundedUlp 0x091 a n x 2

end Sys2Proof.Machine
end

