-- ==== Sys2Proof/Machine/LaneInt.lean ====
section
/-! DEFINITION. The integer lane instructions (R153 to R155). -/

namespace Sys2Proof.Machine

/-- The element width and signedness that TY selects (R56). -/
def intType (ty : BitVec 3) : Nat × Bool :=
  match ty.toNat with
  | 0 => (32, true)
  | 1 => (32, false)
  | 2 => (16, true)
  | 3 => (16, false)
  | 4 => (8, true)
  | _ => (8, false)

/-- Element `i` of width `w` (R84). -/
def element (w i : Nat) (x : Lane) : Nat := x.toNat / 2 ^ (w * i) % 2 ^ w

/-- The elements of a lane computed in ascending order (R84, R97). -/
def packed (w : Nat) (g : Nat → BitVec 32 → Nat × BitVec 32 × Fl) (gen : BitVec 32) : Lane × BitVec 32 × Fl :=
  let r := (List.range (32 / w)).foldl
    (fun (acc : Nat × BitVec 32 × Fl) i =>
      let y := g i acc.2.1
      (acc.1 + y.1 % 2 ^ w * 2 ^ (w * i), y.2.1, acc.2.2 ||| y.2.2)) (0, gen, 0#6)
  (BitVec.ofNat 32 r.1, r.2.1, r.2.2)

/-- The same element in every position of a lane. -/
def spreadElement (w v : Nat) : Lane := (packed w (fun _ g => (v, g, 0#6)) 0#32).1

/-- An immediate of a packed integer type: its low bits in each element (R53). -/
def intImm (ty : BitVec 3) (v : BitVec 13) : Lane := spreadElement (intType ty).1 (v.signExtend 32).toNat

/-- An immediate as the sign-extended 32-bit integer. -/
def wordImm (v : BitVec 13) : Lane := v.signExtend 32

/-- An integer instruction: `g` gives an element's result from its width, signedness and operands (R153). -/
def integer (w : LaneWord) (g : (n : Nat) → (signed : Bool) → (a b c : Int) → Nat × Fl) (s : State) : Out :=
  let n := (intType w.ty).1
  let sg := (intType w.ty).2
  elementwise w false
    { signed := w.ty == 0#3, selects := true, imm := intImm w.ty,
      fn := fun a b c _ gen =>
        packed n (fun i gen =>
          let v (x : Lane) : Int := intValue n sg (element n i x)
          let r := g n sg (v a) (v b) (v c)
          (r.1, gen, r.2)) gen } s

/-- An integer instruction that changes no flag. -/
def integerPlain (w : LaneWord) (g : (n : Nat) → (signed : Bool) → (a b c : Int) → Int) (s : State) : Out :=
  integer w (fun n sg a b c => (intCode n (g n sg a b c), 0#6)) s

/-- An integer instruction whose result is clamped under SAT (R153). -/
def integerSat (w : LaneWord) (g : (signed : Bool) → (a b c : Int) → Int) (s : State) : Out :=
  integer w (fun n sg a b c => intResult n sg w.sat (g sg a b c)) s

/-- An instruction on 32-bit elements that may read its destination (R154). -/
def fieldOp32 (w : LaneWord) (readsD : Bool) (g : (a b c d : Lane) → Lane) (s : State) : Out :=
  elementwise w false
    { signed := w.ty == 0#3, selects := true, imm := wordImm, readsD := readsD,
      fn := fun a b c d gen => (g a b c d, gen, 0#6) } s

/-- The bits of an element combined. -/
def bitwise (w : LaneWord) (g : Nat → Nat → Nat) (s : State) : Out :=
  integer w (fun n _ a b _ => (g (intCode n a) (intCode n b), 0#6)) s

/-- The start and length of the field of R154. -/
def fieldOf (b c : Lane) : Nat × Nat := (b.toNat % 32, min (c.toNat % 64) (32 - b.toNat % 32))

/-- IBFE on one lane (R154). -/
def extractField (signed : Bool) (a b c : Lane) : Lane :=
  let p := (fieldOf b c).1
  let n := (fieldOf b c).2
  if n = 0 then 0#32
  else
    let f := a.toNat / 2 ^ p % 2 ^ n
    if signed then BitVec.ofInt 32 (BitVec.ofNat n f).toInt else BitVec.ofNat 32 f

/-- IBFI on one lane (R154). -/
def insertField (a b c old : Lane) : Lane :=
  let p := (fieldOf b c).1
  let n := (fieldOf b c).2
  let m : Lane := BitVec.ofNat 32 ((2 ^ n - 1) * 2 ^ p)
  (old &&& ~~~m) ||| ((a <<< p) &&& m)

/-- IADD (R153). -/
def execIadd (w : LaneWord) (s : State) : Out := integerSat w (fun _ a b _ => a + b) s
/-- ISUB (R153). -/
def execIsub (w : LaneWord) (s : State) : Out := integerSat w (fun _ a b _ => a - b) s
/-- IMUL (R153). -/
def execImul (w : LaneWord) (s : State) : Out := integerSat w (fun _ a b _ => a * b) s
/-- IMULH (R153). -/
def execImulh (w : LaneWord) (s : State) : Out := integerPlain w (fun n _ a b _ => a * b / 2 ^ n) s
/-- IMAD (R153): exact before it is wrapped or clamped. -/
def execImad (w : LaneWord) (s : State) : Out := integerSat w (fun _ a b c => a * b + c) s
/-- IMIN (R153). -/
def execImin (w : LaneWord) (s : State) : Out := integerPlain w (fun _ _ a b _ => min a b) s
/-- IMAX (R153). -/
def execImax (w : LaneWord) (s : State) : Out := integerPlain w (fun _ _ a b _ => max a b) s
/-- IABS (R153). -/
def execIabs (w : LaneWord) (s : State) : Out := integerSat w (fun _ a _ _ => (a.natAbs : Int)) s
/-- INEG (R153). -/
def execIneg (w : LaneWord) (s : State) : Out := integerSat w (fun _ a _ _ => -a) s
/-- IAND (R153). -/
def execIand (w : LaneWord) (s : State) : Out := bitwise w (fun x y => x &&& y) s
/-- IOR (R153). -/
def execIor (w : LaneWord) (s : State) : Out := bitwise w (fun x y => x ||| y) s
/-- IXOR (R153). -/
def execIxor (w : LaneWord) (s : State) : Out := bitwise w (fun x y => x ^^^ y) s
/-- IANDN (R153). -/
def execIandn (w : LaneWord) (s : State) : Out := bitwise w (fun x y => x ^^^ (x &&& y)) s
/-- ISHL (R153). -/
def execIshl (w : LaneWord) (s : State) : Out := integerPlain w (fun n _ a b _ => a * 2 ^ (b % n).toNat) s
/-- ISHR (R153): the sign or zeros shifted in. -/
def execIshr (w : LaneWord) (s : State) : Out := integerPlain w (fun n _ a b _ => a / 2 ^ (b % n).toNat) s
/-- ICLZ (R153). -/
def execIclz (w : LaneWord) (s : State) : Out := integer w (fun n _ a _ _ => (leadingZeros (BitVec.ofInt n a), 0#6)) s
/-- IPOPC (R153). -/
def execIpopc (w : LaneWord) (s : State) : Out := integer w (fun n _ a _ _ => (ones (BitVec.ofInt n a), 0#6)) s
/-- IBFE (R154). -/
def execIbfe (w : LaneWord) (s : State) : Out := fieldOp32 w false (fun a b c _ => extractField (w.ty == 0#3) a b c) s
/-- IBFI (R154): D is read as a source. -/
def execIbfi (w : LaneWord) (s : State) : Out := fieldOp32 w true insertField s
/-- IMOV (R153, R155). -/
def execImov (w : LaneWord) (s : State) : Out := integerPlain w (fun _ _ a _ _ => a) s
/-- LNOP (R155): issues and changes nothing. -/
def execLnop (w : LaneWord) (s : State) : Out := crossLane w false false wordImm (fun _ _ _ _ => ([], 0#6, fun f => f)) s

end Sys2Proof.Machine
end

