-- ==== Sys2Proof/Machine/LaneFloat.lean ====
section
/-! DEFINITION. The floating-point lane instructions (R156 to R158), conversions, dot products, block scales and seeds (R164 to
R168). -/

namespace Sys2Proof.Machine

/-- The format that TY selects (R56). -/
def floatType (ty : BitVec 3) : Fmt :=
  match ty.toNat with
  | 0 => .fp32
  | 1 => .fp16
  | _ => .bf16

/-- An immediate of a floating-point type: its integer value rounded to nearest even, in every element (R53). -/
def floatImm (f : Fmt) (v : BitVec 13) : Lane := spreadElement f.width (intToFloat f v.toInt .rne false 0).1

/-- The generator after a result, stepped under RS, and the value that rounds it (R97). -/
def stepGen (rm : Mode) (gen : BitVec 32) : BitVec 32 := if rm = .rs then xorshift gen else gen

/-- A floating-point instruction: `g` gives an element's result from its format, operands, mode, SAT and generator value (R156). -/
def floating (w : LaneWord) (long : Bool) (g : Fmt → (a b c : Nat) → Mode → Bool → Nat → Nat × Fl) (s : State) : Out :=
  let f := floatType w.ty
  let rm := modeOf w.rm
  elementwise w long
    { imm := floatImm f,
      fn := fun a b c _ gen =>
        packed f.width (fun i gen =>
          let gen' := stepGen rm gen
          let r := g f (element f.width i a) (element f.width i b) (element f.width i c) rm w.sat gen'.toNat
          (r.1, gen', r.2)) gen } s

/-- FADD (R156). -/
def execFadd (w : LaneWord) (s : State) : Out := floating w false (fun f a b _ => f.add a b) s
/-- FSUB (R156). -/
def execFsub (w : LaneWord) (s : State) : Out := floating w false (fun f a b _ => f.sub a b) s
/-- FMUL (R156). -/
def execFmul (w : LaneWord) (s : State) : Out := floating w false (fun f a b _ => f.mul a b) s
/-- FFMA (R156): one rounding. -/
def execFfma (w : LaneWord) (s : State) : Out := floating w false (fun f a b c => f.fma a b c) s
/-- FDIV (R156): long-latency. -/
def execFdiv (w : LaneWord) (s : State) : Out := floating w true (fun f a b _ => f.div a b) s
/-- FMIN (R157). -/
def execFmin (w : LaneWord) (s : State) : Out := floating w false (fun f a b _ _ _ _ => f.select false a b) s
/-- FMAX (R157). -/
def execFmax (w : LaneWord) (s : State) : Out := floating w false (fun f a b _ _ _ _ => f.select true a b) s
/-- FABS (R157). -/
def execFabs (w : LaneWord) (s : State) : Out := floating w false (fun f a _ _ _ _ _ => f.abs a) s
/-- FNEG (R157). -/
def execFneg (w : LaneWord) (s : State) : Out := floating w false (fun f a _ _ _ _ _ => f.negate a) s
/-- FRND (R156). -/
def execFrnd (w : LaneWord) (s : State) : Out := floating w false (fun f a _ _ rm _ r => f.roundIntegral a rm r) s
/-- FSQRT (R156): long-latency. -/
def execFsqrt (w : LaneWord) (s : State) : Out := floating w true (fun f a _ _ => f.sqrt a) s
/-- FRCP (R158): long-latency. -/
def execFrcp (w : LaneWord) (s : State) : Out := floating w true (fun f a _ _ _ _ _ => f.frcp a) s
/-- FRSQ (R158): long-latency. -/
def execFrsq (w : LaneWord) (s : State) : Out := floating w true (fun f a _ _ _ _ _ => f.frsq a) s
/-- FEXP2 (R158): long-latency. -/
def execFexp2 (w : LaneWord) (s : State) : Out := floating w true (fun f a _ _ _ _ _ => f.fexp2 a) s
/-- FLOG2 (R158): long-latency. -/
def execFlog2 (w : LaneWord) (s : State) : Out := floating w true (fun f a _ _ _ _ _ => f.flog2 a) s
/-- FSIN (R158): long-latency. -/
def execFsin (w : LaneWord) (s : State) : Out := floating w true (fun f a _ _ _ _ _ => f.fsincos false a) s
/-- FCOS (R158): long-latency. -/
def execFcos (w : LaneWord) (s : State) : Out := floating w true (fun f a _ _ _ _ _ => f.fsincos true a) s
/-- FTANH (R158): long-latency. -/
def execFtanh (w : LaneWord) (s : State) : Out := floating w true (fun f a _ _ _ _ _ => f.ftanh a) s

/-! ### CVT (R164, R165) -/

/-- The bits of an element of a format within its place in a lane: 6-bit elements in bytes, scales in halfwords (R91, R164). -/
def elementBits (code : Nat) : Nat := if code = 5 ∨ code = 6 then 6 else if code = 14 then 10 else elementWidth code

/-- CVT on one lane. -/
def convertLane (b c : Nat) (rm : Mode) (sat : Bool) (r : Nat) (a old : Lane) : Lane × Fl :=
  let src := b % 16
  let dst := b / 16 % 16
  let x := element (elementWidth src) (c % 8) a % 2 ^ elementBits src
  let y := convert src dst x rm sat r
  let n := elementWidth dst
  let at' := n * (c / 8 % 8)
  let m : Lane := BitVec.ofNat 32 ((2 ^ n - 1) * 2 ^ at')
  ((old &&& ~~~m) ||| BitVec.ofNat 32 (y.1 % 2 ^ n * 2 ^ at'), y.2)

/-- Whether a conversion rounds: one between integer formats does not (R97, R101). -/
def convertRounds (b : Nat) : Bool := (intFmtOf (b % 16)).isNone || (intFmtOf (b / 16 % 16)).isNone

/-- CVT (R164, R165): D is read as a source. -/
def execCvt (w : LaneWord) (s : State) : Out :=
  let rm := modeOf w.rm
  let b := w.b.immBits.toNat
  elementwise w false
    { imm := wordImm, readsD := true,
      fn := fun a _ _ d gen =>
        let gen' := if convertRounds b then stepGen rm gen else gen
        let r := convertLane b w.c.immBits.toNat rm w.sat gen'.toNat a d
        (r.1, gen', r.2) } s

/-! ### Dot products (R166, R106) -/

/-- The exact sum of products and an added term (R96, R106), and whether it is invalid. -/
def dotSum (l : List (Val × Val)) (c : Val) (down : Bool) : Val × Bool :=
  let ps := l.map (fun y => y.1.mul y.2)
  let vs := ps.map (·.1)
  let both := vs.any (fun v => v == .inf false) && vs.any (fun v => v == .inf true)
  let invalid := ps.any (·.2) || both
  if vs.any Val.isNaN || both then (.nan false, invalid || c.isSignalling)
  else
    let t := sumVals (vs ++ [c]) down
    (t.1, t.2 || invalid)

/-- The element formats of a dot product: A's and B's codes of R59 and the width. -/
def dotFormats (n : Nat) (ty : BitVec 3) : Nat × Nat × Nat :=
  match n, ty.toNat with
  | 4, 0 => (3, 3, 8)
  | 4, 1 => (4, 4, 8)
  | 4, 2 => (3, 4, 8)
  | 4, 3 => (8, 8, 8)
  | 4, 4 => (11, 11, 8)
  | 4, _ => (8, 11, 8)
  | 8, _ => (7, 7, 4)
  | _, 0 => (1, 1, 16)
  | _, 1 => (2, 2, 16)
  | _, 2 => (9, 9, 16)
  | _, _ => (12, 12, 16)

/-- A dot product on one lane. -/
def dotLane (n : Nat) (ty : BitVec 3) (rm : Mode) (sat : Bool) (r : Nat) (a b c : Lane) : Nat × Fl :=
  let (fa, fb, w) := dotFormats n ty
  match fmtOf fa, fmtOf fb with
  | some x, some y =>
    Fmt.fp32.finish
      (dotSum ((List.range n).map (fun i => (x.decode (element w i a), y.decode (element w i b)))) (Fmt.fp32.decode c.toNat) (rm == .rd))
      rm sat r
  | _, _ =>
    match intFmtOf fa, intFmtOf fb with
    | some (_, sa), some (_, sb) =>
      let t := (List.range n).foldl (fun t i => t + intValue w sa (element w i a) * intValue w sb (element w i b)) (0 : Int)
      intResult 32 true sat (c.toInt + t)
    | _, _ => (0, 0#6)

/-- A dot product of `n` elements (R166). -/
def dotProduct (n : Nat) (w : LaneWord) (s : State) : Out :=
  let rm := modeOf w.rm
  elementwise w false
    { imm := wordImm,
      fn := fun a b c _ gen =>
        let gen' := stepGen rm gen
        let r := dotLane n w.ty rm w.sat gen'.toNat a b c
        (BitVec.ofNat 32 r.1, gen', r.2) } s

/-- DOT4 (R166). -/
def execDot4 (w : LaneWord) (s : State) : Out := dotProduct 4 w s
/-- DOT8 (R166). -/
def execDot8 (w : LaneWord) (s : State) : Out := dotProduct 8 w s
/-- DOT2 (R166). -/
def execDot2 (w : LaneWord) (s : State) : Out := dotProduct 2 w s

/-! ### Block scales and seeds (R167, R168) -/

/-- SCALE on one lane. -/
def scaleLane (scale : Nat) (rm : Mode) (sat : Bool) (r a : Nat) : Nat × Fl :=
  match scaleValue scale, Fmt.fp32.decode a with
  | none, _ => (Fmt.fp32.canonicalNaN, Fl.invalid)
  | some _, .nan sig => (Fmt.fp32.canonicalNaN, raiseIf sig Fl.invalid)
  | some _, .inf neg => (Fmt.fp32.sign neg 0x7F800000, 0#6)
  | some _, .zero neg => (Fmt.fp32.sign neg 0, 0#6)
  | some (k, q), .fin neg m e => Fmt.fp32.round neg { m := m * k, e := e + q, sticky := false } rm sat r

/-- SCALE (R167): an immediate A is an FP32 element, an immediate B the word that holds the scales. -/
def execScale (w : LaneWord) (s : State) : Out :=
  let rm := modeOf w.rm
  let fixA (v : Lane) : Lane := match w.a with | .imm x => floatImm .fp32 x | _ => v
  elementwise w false
    { imm := wordImm,
      fn := fun a b _ _ gen =>
        let gen' := stepGen rm gen
        let r := scaleLane (b.toNat / (if w.ty = 0#3 then 1 else 2 ^ 16) % 2 ^ 10) rm w.sat gen'.toNat (fixA a).toNat
        (BitVec.ofNat 32 r.1, gen', r.2) } s

/-- A seed: zero is replaced (R98, R168). -/
def seedOf (v : Lane) : BitVec 32 := if v = 0#32 then 0x6D2B79F5#32 else v

/-- SEED (R168). -/
def execSeed (w : LaneWord) (s : State) : Out :=
  crossLane w false false wordImm
    (fun _ m a _ => ([], 0#6, fun f => { f with gens := vecOf (fun l => if m.getLsbD l then seedOf (laneAt a l) else laneAt f.gens l) })) s

end Sys2Proof.Machine
end

