-- ==== Sys2Proof/Machine/Copy.lean ====
section
/-! DEFINITION. The copy engine (R239 to R245): its commands and their checks, the pieces in which they place bytes, landing credits and
completion words. -/

namespace Sys2Proof.Machine

/-! ### Commands (R240) -/

/-- The pairings of a CONVERT (R241). -/
def copyFormatsOk (h : Word) (n : Nat) : Bool :=
  let a := copySrc h
  let b := copyDst h
  let even (c : Nat) : Bool := (packedWidth c false != 4 || n % 2 == 0) && (packedWidth c false != 6 || n % 4 == 0)
  a != 15 && b != 15 && decide (wfld h 41 3 ≤ 4) && ((a != 14 && b != 14) || (a == 14 && b == 0) || (a == 0 && b == 14)) && even a && even b &&
    (if copyBSC h then a == 0 && decide (3 ≤ b) && decide (b ≤ 7) && n % copyBlock h == 0 else wfld h 34 1 == 0)

/-- A command that keeps R240 and R241. -/
def copyOk (h : Word) (w : List Word) : Bool :=
  let op := copyOpc h
  let n := copyCount w
  let flat (l : Bool) (v : Word) : Bool := !l || wfld v 24 40 == 0
  let ref := w.getLastD 0#64
  wfld h 32 2 == 0 && !(decide (12 ≤ wfld h 52 4) && wfld h 52 4 != 15) && (copyLW h || wfld h 0 16 == 0) &&
    n != 0 && wfld (copyWord w 3) 32 32 == 0 &&
    (if op = 4 then wfld h 36 4 == 0 && copyFormatsOk h n else wfld h 40 12 == 0 && wfld h 34 2 == 0) &&
    (if op = 1 ∨ op = 2 then decide (wfld h 36 4 ≤ 9) else if op = 3 then decide (wfld h 36 4 ≤ 3) && n % copySize h == 0 else wfld h 36 4 == 0) &&
    flat (copyDS h) (copyWord w 1) && (op == 3 || flat (copySS h) (copyWord w 2)) &&
    ((op != 1 && op != 2) || flat (copySS h) (copyWord w 4)) && (!(op == 4 && copyBSC h) || flat (copyDS h) (copyWord w 4)) &&
    (!copyLW h || (ref.toNat % 16 == 0 && !(localForm ref && wfld ref 24 32 != 0)))

/-- The charge to `bm` (R242): destination bytes with the scales, and the indices. -/
def copyCharge (h : Word) (w : List Word) : Nat :=
  let indices := if copyOpc h = 1 ∨ copyOpc h = 2 then 4 * copyCount w else 0
  (copyBytes h w + copyScaleBytes h w + indices + 63) / 64

/-- The pieces of a command: one element of a SCATTER, else 512 destination bytes (R245). -/
def copyPieces (h : Word) (w : List Word) : Nat := if copyOpc h = 2 then copyCount w else (copyBytes h w + 511) / 512

/-! ### Reading and writing -/

/-- Why a command does not go on: it ends with a status, asks for a page, or waits for a swap. -/
inductive CopyStop where
  | status (n : Nat)
  | page (addr : Word) (x : Fail) (w : Want)
  | wait

/-- The status of a failure (R243, R244). -/
def copyStatus (x : Fail) : Nat :=
  match x with
  | .translate | .resolvable _ _ => 2
  | .permit => 3
  | .poison | .ecc | .killed => 5

/-- The spots of a range of a command. -/
def copyReach (s : State) (e : Engine) (env : Env) (loc : Bool) (base : Word) (off n : Nat) (w : Want) : State × Except CopyStop (List Spot) :=
  if loc then
    match localSpots s e.bank (wfld base 0 24 + off) n with
    | some l => (s, .ok l)
    | none => (s, .error (.status 4))
  else
    let v := base + BitVec.ofNat 64 off
    let t := walkedRange s env v n
    match engineSpots t env v n w with
    | .error (a, x) => (t, .error (.page a x w))
    | .ok l => if l.any (fun x => swapping t x.phys) then (t, .error .wait) else (remember t env v, .ok (if w = .write then splitShadow t e.serial l else l))

/-- The bytes of a source range. -/
def copyRead (s : State) (e : Engine) (env : Env) (loc : Bool) (base : Word) (off n : Nat) : State × Except CopyStop (List Byte) :=
  match copyReach s e env loc base off n .read with
  | (t, .error x) => (t, .error x)
  | (t, .ok l) =>
    let r := engineRead (if loc then countPeerRange t e.bank (wfld base 0 24 + off) .load else holdSpots t (e.bank % 1024 / 8) l false) e.bank l
    if allRead r.2 then (r.1, .ok (r.2.map (fun b => b.getD 0#8))) else (r.1, .error (.status 5))

/-- The bytes of several source ranges, in order. -/
def copyReads (s : State) (e : Engine) (env : Env) (loc : Bool) (base : Word) (l : List (Nat × Nat)) : State × Except CopyStop (List Byte) :=
  match l with
  | [] => (s, .ok [])
  | (o, n) :: r =>
    match copyRead s e env loc base o n with
    | (t, .error x) => (t, .error x)
    | (t, .ok b) =>
      match copyReads t e env loc base r with
      | (u, .error x) => (u, .error x)
      | (u, .ok c) => (u, .ok (b ++ c))

/-- Bytes for one destination range: its base word, offset and content. -/
structure CopyPart where
  base : Word
  off : Nat
  data : List Byte

/-- Element `i` of packed bytes. -/
def packedAt (a : Array Byte) (w i : Nat) : Nat := bitsAt a (w * i) w

/-- The generator of a command before its element `i` (R241). -/
def copyGenerator (h : Word) (i : Nat) : BitVec 32 :=
  Nat.repeat xorshift i (seedOf (0x6D2B79F5#32 + BitVec.ofNat 32 (copyTag h)))

/-- Elements from number `first` on, converted without a scale by R99 to R103 (R241), between one format and itself too. -/
def copyConvertPlain (h : Word) (first : Nat) (l : List Nat) : List Nat × Fl :=
  let rm := modeOf (bits h 41 3)
  let r := l.foldl
    (fun (acc : List Nat × Fl × BitVec 32) x =>
      let g := stepGen rm acc.2.2
      let y := convertAny (copySrc h) (copyDst h) (x % 2 ^ (if copySrc h = 14 then 10 else 32)) rm (wfld h 40 1 == 1) g.toNat
      (acc.1 ++ [y.1], acc.2.1 ||| y.2, g)) ([], 0#6, copyGenerator h first)
  (r.1, r.2.1)

/-- Piece `k` of a CONVERT: its element bytes, and with BSC the scales of the blocks that begin in it. -/
def copyConvert (s : State) (e : Engine) (env : Env) (h : Word) (w : List Word) (k : Nat) : State × Except CopyStop (List CopyPart × Fl) :=
  let wd := packedWidth (copyDst h) false
  let ws := packedWidth (copySrc h) false
  let total := copyCount w
  let firstBit := 4096 * k
  let lastBit := min (4096 * (k + 1)) (total * wd)
  let i0 := firstBit / wd / 32 * 32
  let i1 := min total ((lastBit + wd * 32 - 1) / (wd * 32) * 32)
  match copyRead s e env (copySS h) (copyWord w 2) (i0 * ws / 8) ((i1 - i0) * ws / 8) with
  | (t, .error x) => (t, .error x)
  | (t, .ok b) =>
    let a := b.toArray
    let xs := (List.range (i1 - i0)).map (packedAt a ws)
    let cut (l : List Nat) : List Byte := ((packBits wd l).drop ((firstBit - i0 * wd) / 8)).take ((lastBit - firstBit) / 8)
    match (if copyBSC h then fmtOf (copyDst h) else none) with
    | none =>
      let r := copyConvertPlain h i0 xs
      (t, .ok ([{ base := copyWord w 1, off := 512 * k, data := cut r.1 }], r.2))
    | some f =>
      let bl := copyBlock h
      let r := convertBlocks f bl xs
      let begins := (List.range r.2.1.length).filter (fun j => decide (firstBit ≤ (i0 + bl * j) * wd) && decide ((i0 + bl * j) * wd < lastBit))
      let scales : CopyPart :=
        { base := copyWord w 4, off := 2 * ((i0 + bl * begins.headD 0) / bl), data := begins.flatMap (fun j => leBytes 2 (r.2.1.getD j 0)) }
      (t, .ok ([{ base := copyWord w 1, off := 512 * k, data := cut r.1 }, scales], r.2.2))

/-- What piece `k` of a command places, from its sources (R241). -/
def copyPiece (s : State) (e : Engine) (env : Env) (h : Word) (w : List Word) (k : Nat) : State × Except CopyStop (List CopyPart × Fl) :=
  let size := copySize h
  let n := min 512 (copyBytes h w - 512 * k)
  let part (r : State × Except CopyStop (List Byte)) (off : Nat) : State × Except CopyStop (List CopyPart × Fl) :=
    match r with
    | (t, .error x) => (t, .error x)
    | (t, .ok b) => (t, .ok ([{ base := copyWord w 1, off := off, data := b }], 0#6))
  let indices (first count : Nat) : State × Except CopyStop (List Nat) :=
    match copyRead s e env (copySS h) (copyWord w 4) (4 * first) (4 * count) with
    | (t, .error x) => (t, .error x)
    | (t, .ok b) => (t, .ok ((List.range count).map (fun i => leNat ((b.drop (4 * i)).take 4))))
  match copyOpc h with
  | 0 => part (copyRead s e env (copySS h) (copyWord w 2) (512 * k) n) (512 * k)
  | 1 =>
    match indices (512 / size * k) (n / size) with
    | (t, .error x) => (t, .error x)
    | (t, .ok l) => part (copyReads t e env (copySS h) (copyWord w 2) (l.map (fun i => (i * size, size)))) (512 * k)
  | 2 =>
    match indices k 1 with
    | (t, .error x) => (t, .error x)
    | (t, .ok l) => part (copyRead t e env (copySS h) (copyWord w 2) (k * size) size) (l.headD 0 * size)
  | 3 => (s, .ok ([{ base := copyWord w 1, off := 512 * k, data := (List.range n).map (fun i => bits (copyWord w 2) (8 * (i % size)) 8) }], 0#6))
  | _ => copyConvert s e env h w k

/-- The destination spots of the parts, all of them before anything is placed; a failed unit that a part covers in part stops the
command (R217, R218). The scales of a CONVERT lie in the destination's space (log 128). -/
def copyTargets (s : State) (e : Engine) (env : Env) (loc : Bool) (l : List CopyPart) :
    State × Except CopyStop (List (CopyPart × List Spot)) :=
  match l with
  | [] => (s, .ok [])
  | p :: r =>
    if p.data.isEmpty then copyTargets s e env loc r
    else
      match copyReach s e env loc p.base p.off p.data.length .write with
      | (s1, .error x) => (s1, .error x)
      | (s1, .ok sp) =>
        let ps := sp.filterMap (·.place)
        let partials := sp.filter (fun x => match x.place with
          | some q => inStore q && unitMarked s1 q && !covers ps 8 q
          | none => false)
        match meetRead s1 e.bank partials with
        | (t, some _) => (t, .error (.status 5))
        | (t, none) =>
          match copyTargets t e env loc r with
          | (u, .error x) => (u, .error x)
          | (u, .ok m) => (u, .ok ((p, sp) :: m))

/-- The landing word of a command (R245): none without one. -/
def copyLanding (s : State) (e : Engine) (env : Env) (h : Word) (w : List Word) : Except CopyStop (Option (Nat × Option Nat)) :=
  if !copyLW h then .ok none
  else
    match resolveLanding s env e.bank (w.getLastD 0#64) .write with
    | .word p key => .ok (some (p, key))
    | .trap .scratchRange _ => .error (.status 4)
    | .trap _ _ => .error (.status 6)
    | .fail a x => .error (.page a x .write)

/-- A command that stops, or waits. A failure replaces the LW_STALE of an arrival that was dropped before it (log 129). -/
def copyStop (s : State) (id : Nat) (e : Engine) (x : CopyStop) : State :=
  match x with
  | .wait => s
  | .status n => { s with engines := put s.engines id { e with status := n, ready := true } }
  | .page a y w =>
    match askPage s (e.bank % 1024 / 128) e.ctx e.asked a y w with
    | (t, .ok q) => { t with engines := put t.engines id { e with asked := some q } }
    | (t, .error z) => { t with engines := put t.engines id { e with status := copyStatus z, ready := true } }

/-- Bytes placed by a command, at a local address or in memory, but for places that a later operation holds (R226). -/
def copyPut (s : State) (id : Nat) (e : Engine) (loc : Option Nat) (l : List (Spot × Byte)) : State :=
  let t := match loc with
    | some a => countPeerRange s e.bank a (.store 0)
    | none => holdSpots s (e.bank % 1024 / 8) (l.map (·.1)) true
  writeBytes t e.bank id e.lost (l.map (fun x => (x.1, some x.2)))

/-- The local address of a part. -/
def CopyPart.local (p : CopyPart) (loc : Bool) : Option Nat := if loc then some (wfld p.base 0 24 + p.off) else none

/-- The arrivals that a piece makes (R245). -/
def copyArrivals (loc : Bool) (k : Nat) (land : Nat × Option Nat) (l : List (CopyPart × List Spot)) : List CopyArrival :=
  (List.range l.length).zipWith (fun i x =>
    { k := 2 * k + i, loc := x.1.local loc, stores := x.2.zip x.1.data, place := land.1, key := land.2 }) l

/-- One piece of a command with OPC `opc` is moved: placed, or on its way to the landing word. -/
def copyStep (opc id : Nat) (s : State) : State :=
  match lookup s.engines id with
  | none => s
  | some e =>
    match e.op with
    | .copy h w k =>
      if copyOpc h ≠ opc || e.ready || Asked.waiting e.asked then s
      else
        match e.env s with
        | none => copyStop s id e (.status 2)
        | some env =>
          let s1 := if copyLW h && !localForm (w.getLastD 0#64) then walkedRange s env (w.getLastD 0#64) 16 else s
          match copyLanding s1 e env h w with
          | .error x => copyStop s1 id e x
          | .ok land =>
            match copyPiece s1 e env h w k with
            | (t, .error x) => copyStop t id e x
            | (t, .ok (parts, fl)) =>
              match copyTargets t e env (copyDS h) parts with
              | (u, .error x) => copyStop u id e x
              | (u, .ok l) =>
                let e1 : Engine := { e with op := .copy h w (k + 1), aflags := e.aflags ||| fl, asked := none, ready := decide (copyPieces h w ≤ k + 1) }
                let n := l.foldl (fun n x => n + x.1.data.length) 0
                match land with
                | none =>
                  let v := l.foldl (fun v x => copyPut v id e (x.1.local (copyDS h)) (x.2.zip x.1.data)) u
                  { v with engines := put v.engines id { e1 with placed := e.placed + n } }
                | some x => { u with engines := put u.engines id { e1 with arrivals := e.arrivals ++ copyArrivals (copyDS h) k x l } }
    | _ => s

/-- COPY (R241). -/
def execCopy (id : Nat) (s : State) : Out := .next (copyStep 0 id s)
/-- GATHER (R241). -/
def execGather (id : Nat) (s : State) : Out := .next (copyStep 1 id s)
/-- SCATTER (R241). -/
def execScatter (id : Nat) (s : State) : Out := .next (copyStep 2 id s)
/-- FILL (R241). -/
def execFill (id : Nat) (s : State) : Out := .next (copyStep 3 id s)
/-- CONVERT (R241). -/
def execConvert (id : Nat) (s : State) : Out := .next (copyStep 4 id s)

/-- LW_ARRIVAL (R206, R245): the next arrival of command `id`, numbered `k`, is applied to its landing word. -/
def execLwArrival (id k : Nat) (s : State) : Out :=
  match lookup s.engines id with
  | none => .next s
  | some e =>
    match e.arrivals with
    | [] => .next s
    | a :: rest =>
      if a.k ≠ k then .next s
      else
        let h := match e.op with | .copy h _ _ => h | _ => 0#64
        let r := engineRead s e.bank (wordSpots a.place a.key)
        if !allRead r.2 then
          .next { r.1 with engines := put r.1.engines id { e with status := 5, ready := true, arrivals := [] } }
        else
          let x := arrive r.1 a.place a.key { tag := bits h 0 16, n := a.stores.length, who := none, void := false }
            (fun t => copyPut t id e a.loc a.stores)
          let e' : Engine :=
            if x.2 = .credited then { e with arrivals := rest, placed := e.placed + a.stores.length }
            else { e with arrivals := rest, status := if e.status = 0 then 7 else e.status }
          .next { x.1 with engines := put x.1.engines id e' }

/-! ### Completion (R244) -/

/-- A completion word. -/
def copyWordOut (h : Word) (status placed : Nat) : Word :=
  BitVec.ofNat 64 (copyTag h * 2 ^ 48 + status * 2 ^ 40 + min placed (2 ^ 32 - 1))

/-- A command leaves the engine: its flag falls, its flags are set, and its completion word is queued. -/
def copyFinish (s : State) (id : Nat) (e : Engine) (h : Word) : State :=
  let t := finishEngine s id e e.aflags
  if e.status = 0 && wfld h 57 1 == 0 then t
  else onOwner t e.serial e.fibre (fun f => { f with q1 := f.q1 ++ [copyWordOut h e.status e.placed] })

/-- COPY_COMMAND_COMPLETE (R244). -/
def execCopyCommandComplete (id : Nat) (s : State) : Out :=
  match lookup s.engines id with
  | none => .next s
  | some e =>
    match e.op with
    | .copy h _ _ => .next (if e.ready && e.arrivals.isEmpty then copyFinish s id e h else s)
    | _ => .next s

/-- COPY_INVALID_OPC (R243): the header alone completes MALFORMED. -/
def execCopyInvalidOpc (id : Nat) (s : State) : Out :=
  match lookup s.engines id with
  | none => .next s
  | some e =>
    match e.op with
    | .copy h _ _ => .next (if 4 < copyOpc h then copyFinish s id { e with status := 1 } h else s)
    | _ => .next s

/-! ### Pushes (R239, R242) -/

/-- A word pushed to `q0`. -/
def pushCopy (sw : Bool) (h : Here) (x : Word) (s : State) : State :=
  let q := h.f.q0 ++ [x]
  let header := q.headD 0#64
  if FullUnit.copyWords.full s s.cur h.f then stallScalar s sw (.full .copyWords)
  else if q.length ≤ copyWords header then onCur (issueScalar s h.f.spc 1 0) (fun f => ({ f with q0 := q } : Fibre).next4)
  else if FullUnit.copyCommands.full s s.cur h.f then stallScalar s sw (.full .copyCommands)
  else
    let w := q.drop 1
    let known := decide (copyOpc header ≤ 4)
    let ok := known && copyOk header w
    let flag := if ok then flagOf (bits header 52 4) else none
    if (match flag with | some k => decide (15 ≤ h.f.flag k) | none => false) then stallScalar s sw (.flagFull (flag.getD 0))
    else
      let t := issueScalar s h.f.spc 1 (if ok then copyCharge header w else 0)
      let e : Engine := { newEngine t h flag (.copy header w 0) [] with status := if ok || !known then 0 else 1, ready := known && !ok }
      onCur (addEngine t e) (fun f => (({ f with q0 := [] } : Fibre).raise flag).next4)

end Sys2Proof.Machine
end

