-- ==== Sys2Proof/Machine/Fences.lean ====
section
/-! DEFINITION. FENCE, FENCEN, the acquire and release instructions (R307 to R314), and the completion of a pending FENCE. -/

namespace Sys2Proof.Machine

/-! ### What a fence waits for (R307, R310) -/

/-- Whether the clauses enqueued before a pending fence have completed; held by a handler, their lane operations have (R194). -/
def Fibre.prefenceDone (f : Fibre) (x : Fence) : Bool :=
  let mine := f.clauses.filter (fun c => x.checkpoint.clauses.any (fun d => d.serial == c.serial))
  if f.handler.isSome then f.lpend.all (fun p => !mine.any (fun c => c.serial == p.clause)) else mine.isEmpty

/-! ### FENCE and FENCEN (R309 to R311) -/

/-- What a fence checkpoints (R311): the fibre just after the FENCE has issued. -/
def Fibre.checkpointed (f : Fibre) : Checkpoint :=
  { sregs := f.sregs, preds := f.preds, em := f.em, aflags := f.aflags, gens := f.gens, spc := f.spc, clauses := f.clauses,
    running := f.running, flags := f.flags, spend := f.spend, lpend := f.lpend }

/-- FENCE (R311): it issues, and the fibre speculates past it. -/
def execFence (sw : Bool) (r e : BitVec 1) (k : BitVec 3) (s : State) : Out :=
  unfenced sw [] s (fun h =>
    .next (onCur (issueScalar s h.f.spc 1 0) (fun f0 =>
      let f := f0.next4
      let x : Fence := { scope := k.toNat, engines := e == 1#1, remote := r == 1#1, limit := min 64 (Config.specLimit s.tick), checkpoint := f.checkpointed,
                         reads := [], stores := [], shadows := [], heldTrap := none, issued := 0, rolledBack := false }
      { f with fence := some x })))

/-- FENCEN (R310): a stall until its waits have ended. -/
def execFencen (sw : Bool) (r e : BitVec 1) (k : BitVec 3) (s : State) : Out :=
  unfenced sw [] s (fun h =>
    if h.f.laneOpsDone && enginesDone s s.cur k.toNat (e == 1#1) (r == 1#1) then .next (onCur (issueScalar s h.f.spc 1 0) Fibre.next4)
    else .next (stallScalar s sw (.drain k.toNat (e == 1#1) (r == 1#1))))

/-- The places of held stores that write a part of a marked unit of a store: each is read first and may meet an error (R217). -/
def Fence.partials (x : Fence) (s : State) : List Nat :=
  x.stores.flatMap (fun y =>
    let ps := y.cells.map (·.1)
    ps.filter (fun p => inStore p && unitMarked s p && !covers ps 8 p))

/-- FENCE_COMPLETE (R310 to R312): the waits of fibre `g`'s fence have ended; held stores are performed in order, and a held trap is taken. Where one
of the stores would meet a failed unit, what was done past the fence is undone and done again, so that its instruction traps as past a FENCEN. -/
def execFenceComplete (g : Nat) (s : State) : Out :=
  match lookup s.fibres g with
  | none => .next s
  | some f =>
    match f.fence with
    | none => .next s
    | some x =>
      if !f.prefenceDone x || !enginesDone s g x.scope x.engines x.remote then .next s
      else
        let done (t : State) : State := onFibre t g (fun f => { f with fence := none })
        let ps := x.partials s
        let m := meet s ps
        if ps.any (unitPoisoned m) then .next (done (rollback m g))
        else
          let u := x.stores.foldl (fun u y => placeCells u g y.key y.cells) (done m)
          .next (match x.heldTrap with
            | some (lane, trap, word) => takeTrapOf u g word lane trap
            | none => u)

/-! ### Acquire and release (R313, R314) -/

/-- LDACQW and LDACQD: the load is performed once no FENCE is pending, and its value is taken at once. -/
def acquire (sw : Bool) (d b : BitVec 6) (o : BitVec 10) (n : Nat) (s : State) : Out :=
  unfenced sw [b] s (fun h =>
    .next (memoryAccess sw true h (offsetAddress h.f b o n) n .load (fun v f => f.writeS d (widen n true v)) s))

/-- STRELW and STRELD: a stall as of FENCEN at crossing scope, then the store. -/
def release (sw : Bool) (d b : BitVec 6) (o : BitVec 10) (n : Nat) (s : State) : Out :=
  unfenced sw [d, b] s (fun h =>
    if h.f.laneOpsDone && enginesDone s s.cur 7 true true then
      .next (memoryAccess sw true h (offsetAddress h.f b o n) n (.store (h.f.readS d).toNat) (fun _ f => f) s)
    else .next (stallScalar s sw (.drain 7 true true)))

/-- LDACQW (R313). -/
def execLdacqw (sw : Bool) (d b : BitVec 6) (o : BitVec 10) (s : State) : Out := acquire sw d b o 4 s
/-- LDACQD (R313). -/
def execLdacqd (sw : Bool) (d b : BitVec 6) (o : BitVec 10) (s : State) : Out := acquire sw d b o 8 s
/-- STRELW (R313). -/
def execStrelw (sw : Bool) (d b : BitVec 6) (o : BitVec 10) (s : State) : Out := release sw d b o 4 s
/-- STRELD (R313). -/
def execStreld (sw : Bool) (d b : BitVec 6) (o : BitVec 10) (s : State) : Out := release sw d b o 8 s

end Sys2Proof.Machine
end

