-- ==== Sys2Proof/Machine/FibreEvents.lean ====
section
/-! DEFINITION. The arrival of scalar results (R24, R115), the completion of long-latency lane operations (R147, R179) and the filling of
register lines (R30, R31). -/

namespace Sys2Proof.Machine

/-! ### Scalar results -/

/-- A result taken from a list of those outstanding: what the registers and clauses become. -/
def arriveIn (id : Nat) (spend : List ScalarPending) (sregs : Vector Word 64) (clauses : List Clause) :
    List ScalarPending × Vector Word 64 × List Clause :=
  match spend.find? (fun p => p.id == id) with
  | none => (spend, sregs, clauses)
  | some p =>
    match p.value with
    | none => (spend, sregs, clauses)
    | some v =>
      (spend.filter (fun q => q.id != id), if p.live && p.dest != 0#6 then sregs.set p.dest.toNat v p.dest.isLt else sregs,
        clauses.map (fun c =>
          if c.awaiting.any (fun a => a.2 == id) then
            { c with snapshot := c.snapshot.set p.dest.toNat v p.dest.isLt, awaiting := c.awaiting.filter (fun a => a.2 != id) }
          else c))

/-- A result arrives in a fibre, and in what a pending FENCE would restore. -/
def Fibre.arrive (f : Fibre) (id : Nat) : Fibre :=
  let r := arriveIn id f.spend f.sregs f.clauses
  { f with
    spend := r.1, sregs := r.2.1, clauses := r.2.2
    fence := f.fence.map (fun x =>
      let c := arriveIn id x.checkpoint.spend x.checkpoint.sregs x.checkpoint.clauses
      { x with checkpoint := { x.checkpoint with spend := c.1, sregs := c.2.1, clauses := c.2.2 } }) }

/-- SCALAR_RESULT_ARRIVAL (R115): result `id` of fibre `g` arrives; a newer write of its register has made it void. -/
def execScalarResultArrival (g id : Nat) (s : State) : Out := .next (onFibre s g (fun f => f.arrive id))

/-! ### Long-latency lane operations -/

/-- A completed operation leaves a list: older writes of its register give way in its lanes (R179). -/
def leavePending (p : LanePending) (l : List LanePending) : List LanePending :=
  (l.filter (fun q => q.id != p.id)).map (fun q =>
    if q.reg = p.reg ∧ q.reg.isSome ∧ q.id < p.id then { q with mask := q.mask &&& ~~~p.mask } else q)

/-- The shadow of a register after an operation issued before the fence has killed or written it. -/
def ShadowReg.after (x : ShadowReg) (p : LanePending) : ShadowReg :=
  let y := if x.reg ∈ p.marks then { x with dead := true, value := zeroVec } else x
  if p.reg = some y.reg ∧ p.mask ≠ 0#32 then
    { y with dead := false, value := blend p.mask p.value (if y.dead then zeroVec else y.value) }
  else y

/-- What a pending FENCE would restore, after an operation issued before it has completed. -/
def Fence.laneDone (x : Fence) (p : LanePending) : Fence :=
  let c := x.checkpoint
  if c.lpend.any (fun q => q.id == p.id) then
    { x with
      shadows := x.shadows.map (fun y => y.after p)
      checkpoint := { c with
        lpend := leavePending p c.lpend, aflags := c.aflags ||| p.aflags.setWidth 64
        flags := match p.flag with | none => c.flags | some k => c.flags.set! k (c.flags[k]?.getD 0#4 - 1#4) } }
  else x

/-- The bytes of a scratchpad destination are written, or held past a pending FENCE; a failed unit that they cover in part kills its owner (R217, R218). -/
def laneCells (s : State) (fk : Nat) (spec : Bool) (l : List (Nat × Byte)) : State :=
  if l.isEmpty then s
  else if spec then
    onFibre s fk (fun f => { f with fence := f.fence.map (fun x => { x with stores := x.stores ++ [{ cells := l, key := none }] }) })
  else
    let ps := l.map (·.1)
    let r := meetRead s (bankOfFibre fk) ((cellSpots none l).filter (fun x => match x.place with | some p => unitMarked s p && !covers ps 8 p | none => false))
    if r.2.isSome then r.1 else placeCells r.1 fk none l

/-- LANE_OP_COMPLETE (R147): operation `id` of fibre `g` writes its results, ORs its flags and lowers its flag; its clause may leave the
queue. -/
def execLaneOpComplete (g id : Nat) (s : State) : Out :=
  match lookup s.fibres g with
  | none => .next s
  | some f =>
    match f.lpend.find? (fun p => p.id == id) with
    | none => .next s
    | some p =>
      let spec := match f.fence with | some x => !x.checkpoint.lpend.any (fun q => q.id == id) | none => false
      let s1 := killMarks (laneCells s g spec p.cells) g spec p.marks
      let s2 := match p.reg with | some r => writeBerth s1 g spec r p.mask p.value | none => s1
      .next (onFibre s2 g (fun f =>
        (Fibre.retireClause { (f.lower p.flag).orFlags p.aflags with
          lpend := leavePending p f.lpend, fence := f.fence.map (fun x => x.laneDone p) }).syncFence f.prefence))

/-! ### Register lines -/

/-- The place of register `i` of the line whose image is at place `a`. -/
def linePlace (a i : Nat) : Nat := a + 128 * i

/-- A line's dead bits: kept in the line once its berth has left, else the slot's (R30, R32). -/
def lineDead (sl : Slot) (m : Nat) (ln : Line) : BitVec 4 :=
  match ln.state with
  | .evictable _ => ln.dead
  | _ => (sl.dead >>> (4 * m)).setWidth 4

/-- Whether a line has content to write back. -/
def Line.unsaved (ln : Line) : Bool := match ln.state with | .dirty | .evictable true => true | _ => false

/-- Register `i` of a held line written to its image, but for units that fail: those poison their image (log 133). -/
def writeBackReg (s : State) (sk m i : Nat) (key : Option Nat) (ln : Line) : State :=
  let units := (regUnits (4 * m + i) 0xFFFF_FFFF#32 false).filter (slotOf s sk).marked
  let t := units.foldl (meetUnit sk) s
  let bad := units.filter (fun u => decide (u ∈ (slotOf t sk).poison))
  let all := cells (linePlace ln.tag i) (((ln.data[i]?.getD zeroVec).toList).flatMap (fun l => leBytes 4 l.toNat))
  if bad.isEmpty then write t key all
  else
    let failed (c : Nat × Byte) : Bool := decide (16 * (4 * m + i) + (c.1 - linePlace ln.tag i) / 8 ∈ bad)
    let u := poisonPlaces (write t key (all.filter (fun c => !failed c))) ((all.filter failed).map (·.1))
    let v := match ln.state with | .evictable _ => u | _ => killDeck u (bankOfSlot sk)
    noteError v (coreOfSlot sk) (regBlock sk (bad.headD 0))

/-- A held line `m` of a slot is written back to its image (R31, R32): live registers only; each dead one is skipped. `dead` gives the dead bits.
A line of a protected crew is written back before its seal, so what a miss evicts is stored in plain. -/
def writeBack (s : State) (sk m : Nat) (key : Option Nat) (ln : Line) (dead : BitVec 4) : State :=
  (List.range 4).foldl
    (fun t i => if dead.getLsbD i then countCore t (coreOfSlot sk) 0x08 1 else countCore (writeBackReg t sk m i key ln) (coreOfSlot sk) 0x07 1) s

/-- A register read from the image. -/
def imageReg (bytes : List (Option Byte)) (i : Nat) : LaneVec :=
  vecOf (fun l => BitVec.ofNat 32 (readNumber ((bytes.drop (128 * i + 4 * l)).take 4)))

/-- LINE_FILL_COMPLETE (R31): the miss of line `m` in a slot is served: the old content is written back, and the image line is read. -/
def execLineFillComplete (slot m : Nat) (s : State) : Out :=
  let bk := slot / 16384 * 1024 + slot % 16384 / 16
  let fk := 4 * slot
  let missed := (slotFibres s slot).any (fun i => match lookup s.fibres i with
    | some f => (match f.lStall with | some (.lineMiss n, _) => n == m | _ => false)
    | none => false)
  match lookup s.crews bk with
  | none => .next s
  | some w =>
    if !missed || lineHeld s fk m then .next s
    else
      let sl := slotOf s slot
      let key := areaKey s w
      let s1 := match lookup sl.lines m with
        | some ln => if ln.unsaved then writeBack s slot m none ln (lineDead sl m ln) else s
        | none => s
      let tag := lineTag w fk m
      let spots := (List.range 512).map (fun i => ({ phys := tag + i, place := some (tag + i), page := { localPage with key := key } } : Spot))
      let r := engineRead s1 bk spots
      if !allRead r.2 then .next (killDeck r.1 bk)
      else
        let ln : Line := { tag := tag, state := .clean, dead := 0#4, data := Vector.ofFn (fun i : Fin 4 => imageReg r.2 i.val) }
        let filled : Slot := { slotOf r.1 slot with lines := put (slotOf r.1 slot).lines m ln }
        .next { r.1 with slots := put r.1.slots slot (filled.cleared ((List.range 4).flatMap (fun i => regUnits (4 * m + i) 0xFFFF_FFFF#32 false))) }

end Sys2Proof.Machine
end

