-- ==== Sys2Proof/Machine/Saves.lean ====
section
/-! DEFINITION. Saves (R28, R29, R201, R213, R321, R331, R332, R336, R337), seals (R349, R352), and the bank transfer engine (R348). -/

namespace Sys2Proof.Machine

/-! ### Save areas as memory -/

/-- The spots of `n` bytes of a crew's save area from an offset (R321, R431). -/
def areaSpots (w : Crew) (key : Option Nat) (o n : Nat) : List Spot :=
  (List.range n).map (fun i => { phys := areaPlace w (o + i), place := some (areaPlace w (o + i)), page := { localPage with key := key } })

/-- The 4 KiB blocks that a full save of a crew covers, as offsets in the bank's region and in the save area (R201, R321). -/
def saveBlocks (b : LaunchBlock) : List (Nat × Nat) :=
  (List.range b.footprint).map (fun i => (0x1000 * i, 0x130000 + 0x1000 * i)) ++
  ((List.range 16).filter b.tileMask.getLsbD).flatMap (fun t => (List.range 4).map (fun i => (tileOffset t + 0x1000 * i, 0xB0000 + 0x4000 * t + 0x1000 * i))) ++
  ((List.range 8).filter b.accMask.getLsbD).flatMap (fun a => (List.range 8).map (fun i => (accOffset a + 0x1000 * i, 0xF0000 + 0x8000 * a + 0x1000 * i)))

/-- Bytes moved between two lists of spots: a failed unit kills the deck of the bank (R218). -/
def moveSpots (s : State) (bk : Nat) (src dst : List Spot) : State :=
  let r := engineRead s bk src
  if allRead r.2 then engineWrite r.1 bk (dst.zip r.2) else killDeck r.1 bk

/-- The crew stores of the declaration written to the save area (R201). -/
def saveStores (s : State) (bk : Nat) (w : Crew) : State :=
  (saveBlocks w.block).foldl (fun t b => moveSpots t bk (bankSpots bk b.1 0x1000) (areaSpots w (areaKey t w) b.2 0x1000)) s

/-! ### Fibre records and dead masks (R28, R29) -/

/-- The SPC of a record: a CLSWAIT that waits for its entry is saved at its own address (R351). -/
def recordSpc (f : Fibre) : Word := match f.sWait with | some (.clause _) => f.spc - 4#64 | _ => f.spc

/-- Bytes of the implementation's own, from an offset of a save area (R29, R321). -/
def ownCells (s : State) (w : Crew) (o n : Nat) : List (Nat × Byte) :=
  (List.range n).map (fun i => (areaPlace w (o + i), Config.headerByte s.tick (o + i)))

/-- The fibre record of a fibre at offset `o`, but for its trap-frame slot. -/
def recordCells (s : State) (w : Crew) (o : Nat) (f : Fibre) : List (Nat × Byte) :=
  (List.range 64).flatMap (fun i => areaCells w (o + 8 * i) 8 (f.readS (BitVec.ofNat 6 i)).toNat) ++
  (List.range 8).flatMap (fun j => areaCells w (o + 0x200 + 4 * j) 4 (f.readP (BitVec.ofNat 3 j)).toNat) ++
  areaCells w (o + 0x220) 4 f.em.toNat ++
  areaCells w (o + 0x224) 6 (flagWord f).toNat ++ ownCells s w (o + 0x22A) 6 ++
  areaCells w (o + 0x230) 8 (recordSpc f).toNat ++ areaCells w (o + 0x238) 8 f.lpc.toNat ++
  (List.range 4).flatMap (fun e => areaCells w (o + 0x240 + 8 * e) 8 (match f.clauses[e]? with | some c => c.header.toNat | none => 0)) ++
  areaCells w (o + 0x260) 8 f.window.toNat ++ areaCells w (o + 0x268) 8 f.aflags.toNat ++ ownCells s w (o + 0x270) 16 ++ ownCells s w (o + 0x300) 256

/-- The offset of berth `j`'s image in a save area (R321). -/
def berthOffset (j : Nat) : Nat := 0x1000 + 0xA000 * j

/-- The key of slot `j` of a bank. -/
def slotKey (bk j : Nat) : Nat := bk / 1024 * 16384 + bk % 1024 * 16 + j

/-- The crew header, fibre records and dead masks written to a save area; `at'` gives the number in its berth under which a fibre is recorded,
if it is. -/
def writeRecords (s : State) (bk : Nat) (w : Crew) (at' : Nat → Fibre → Option Nat) : State :=
  let key := areaKey s w
  let t := write s key (ownCells s w 0 0x1000)
  let u := (crewFibres t bk).foldl (fun u fk => match lookup u.fibres fk with
    | some f =>
      (match at' fk f with
      | some i => write u key (recordCells u w (berthOffset (fibreNumber fk / 4 % 16) + 0x400 * i) f)
      | none => u)
    | none => u) t
  (List.range w.block.berths).foldl (fun u j =>
    write u key (areaCells w (berthOffset j + 0x1000) 32 (slotOf u (slotKey bk j)).dead.toNat)) u

/-! ### Carry sets (R328, R336, R342) -/

/-- The role of a fibre. -/
def roleOf (w : Crew) (f : Fibre) : Option Role := w.block.roles[f.role]?

/-- The top of a fibre's stack (R321). -/
def stackOf (w : Crew) (fk : Nat) : Word :=
  w.own.stackTop - BitVec.ofNat 64 (w.area * 64 + fibreNumber fk % 64) * w.own.stackBytes

/-- A fibre's scalar registers at a start, but for those carried (R41, R336). -/
def carriedRegs (mask : BitVec 64) (old : Vector Word 64) (frame stack : Word) (index : Nat) : Vector Word 64 :=
  Vector.ofFn (fun i : Fin 64 =>
    if i.val ≠ 0 ∧ mask.getLsbD i.val then old[i.val]
    else if i.val = 1 then frame
    else if i.val = 2 then BitVec.ofNat 64 index
    else if i.val = 62 ∨ i.val = 63 then stack
    else 0#64)

/-- What a carry-only save keeps of a fibre (R336, R342). -/
def Fibre.carryOnly (f : Fibre) (mask : BitVec 64) (frame stack : Word) : Fibre :=
  { f with
    sregs := carriedRegs mask f.sregs frame stack f.index, preds := Vector.replicate 8 0#32, em := 0xFFFF_FFFF#32,
    flags := Vector.replicate 12 0#4, aflags := 0#64, clauses := [], running := none, sStall := none, lStall := none, sWait := none }

/-- The berth registers that a fibre's carried lane registers name. -/
def carriedLanes (w : Crew) (f : Fibre) : List Nat :=
  if f.ended || f.frozen then []
  else
    match roleOf w f with
    | some r => ((List.range 256).filter r.laneCarry.getLsbD).filterMap (fun n => (mapName f.window n).map (·.1))
    | none => []

/-- Registers as a mask. -/
def regMask (l : List Nat) : BitVec 256 := l.foldl (fun m r => m ||| BitVec.twoPow 256 r) 0#256

/-- Every register of a crew's slots dies but those carried. -/
def killUncarried (s : State) (bk : Nat) (w : Crew) : State :=
  (List.range w.block.berths).foldl (fun t j =>
    let k := slotKey bk j
    let kept := regMask ((slotFibres t k).flatMap (fun fk => match lookup t.fibres fk with | some f => carriedLanes w f | none => []))
    { t with slots := put t.slots k { slotOf t k with dead := (slotOf t k).dead ||| ~~~kept } }) s

/-- A crew's fibres and registers cut down to their carry sets. -/
def carryCrew (s : State) (bk : Nat) (w : Crew) (frame : Word) : State :=
  (crewFibres s bk).foldl (fun t fk => onFibre t fk (fun f =>
    match roleOf w f with
    | some r => if f.ended then f else f.carryOnly r.scalarCarry frame (stackOf w fk)
    | none => f)) (killUncarried s bk w)

/-! ### Register lines (R30, R33, R337) -/

/-- The line numbers of a slot. -/
def slotLines (sl : Slot) : List Nat := sl.lines.map (·.1)

/-- A crew's own lines of a slot changed. -/
def onOwnLines (s : State) (bk j : Nat) (w : Crew) (g : State → Nat → Line → State × Option Line) : State :=
  let k := slotKey bk j
  (slotLines (slotOf s k)).foldl (fun t m =>
    match lookup (slotOf t k).lines m with
    | none => t
    | some ln =>
      if ln.tag ≠ lineTag w (4 * k) m then t
      else
        let r := g t m ln
        let sl := slotOf r.1 k
        { r.1 with slots := put r.1.slots k { sl with lines := match r.2 with | some x => put sl.lines m x | none => del sl.lines m } }) s

/-- The crew leaves its lines behind as Evictable, their dead bits with them (R30). -/
def evictLines (s : State) (bk : Nat) (w : Crew) : State :=
  (List.range w.block.berths).foldl (fun t j => onOwnLines t bk j w (fun u m ln =>
    (u, some { ln with state := .evictable ln.unsaved, dead := lineDead (slotOf u (slotKey bk j)) m ln }))) s

/-- Every dirty line of the crew is written back (R348, R349). -/
def cleanLines (s : State) (bk : Nat) (w : Crew) : State :=
  (List.range w.block.berths).foldl (fun t j => onOwnLines t bk j w (fun u m ln =>
    let dead := lineDead (slotOf u (slotKey bk j)) m ln
    let v := if ln.unsaved then writeBack u (slotKey bk j) m (areaKey u w) ln dead else u
    (v, some { ln with state := (match ln.state with | .evictable _ => .evictable false | _ => .clean) }))) s

/-- The crew's lines become Invalid. -/
def dropLines (s : State) (bk : Nat) (w : Crew) : State :=
  (List.range w.block.berths).foldl (fun t j => onOwnLines t bk j w (fun u _ _ => (u, none))) s

/-! ### Seals (R349, R350, R352) -/

/-- The parts of a save area that a seal covers, as offsets and sizes. -/
def sealParts (b : LaunchBlock) : List (Nat × Nat) :=
  [(0, 0x1000)] ++ (List.range b.berths).map (fun j => (berthOffset j, 0xA000)) ++
  ((List.range 16).filter b.tileMask.getLsbD).map (fun t => (0xB0000 + 0x4000 * t, 0x4000)) ++
  ((List.range 8).filter b.accMask.getLsbD).map (fun a => (0xF0000 + 0x8000 * a, 0x8000)) ++ [(0x130000, 0x1000 * b.footprint)]

/-- The places that a seal covers, in order. -/
def sealPlaces (w : Crew) : List Nat := (sealParts w.block).flatMap (fun x => (List.range x.2).map (fun i => areaPlace w (x.1 + i)))

/-- The virtual address of a sealed slot. -/
def sealSlot (o : Admitted) (a : Nat) : Word := o.sealedBase + BitVec.ofNat 64 (a * 0x201000)

/-- The key of a slot's counter. -/
def sealKey (n a : Nat) : Nat := n * 4096 + a

/-- The initialisation vector of R352. -/
def sealIv (n a counter : Nat) : List Byte := beBytes 4 n ++ beBytes 4 a ++ beBytes 4 counter

/-- Bytes 0x000 to 0x03F of a slot. -/
def sealHeader (o : Admitted) (n a counter len : Nat) : List Byte :=
  leBytes 8 counter ++ leBytes 4 n ++ leBytes 2 o.gen.toNat ++ leBytes 2 a ++ leBytes 4 len ++ leBytes 44 0

/-- The key of a context's slot (R374). -/
def contextKey (s : State) (o : Admitted) : List Byte := match lookup s.keySlots o.keySlot with | some k => k.key | none => List.replicate 32 0#8

/-- The save area sealed into its slot, and overwritten with zeros; no line of the crew stays (R349). -/
def sealArea (s : State) (bk : Nat) (w : Crew) : State :=
  let t := cleanLines s bk w
  let places := sealPlaces w
  let key := areaKey t w
  let counter := lookupD t.sealCounters (sealKey w.ctx w.area) 0 + 1
  let head := sealHeader w.own w.ctx w.area counter places.length
  let r := gcmSeal (contextKey t w.own) (sealIv w.ctx w.area counter) head (places.map (fun p => (viewByte t p key).getD 0#8))
  let u := { t with sealCounters := put t.sealCounters (sealKey w.ctx w.area) counter }
  let v := match contextPlaces u (envOf u w) (sealSlot w.own w.area) (0x50 + places.length) .write with
    | some l => contextWrite u l (head ++ r.1 ++ r.2)
    | none => u
  dropLines ((List.range 512).foldl (fun x i => write x key ((List.range 0x1000).map (fun j => (areaPlace w (0x1000 * i + j), 0#8)))) v) bk w

/-! ### The save of a crew (R331, R332) -/

/-- Whether a range that an engine writes reaches a bank's stores. -/
def reachesBank (s : State) (bk : Nat) (e : Engine) (x : Bool × Word × Nat) : Bool :=
  if x.1 then x.2.2 != 0 && (localPlace s e.bank (wfld x.2.1 0 24)).map placeBank == some bk
  else
    match e.env s with
    | none => false
    | some env => (pageStarts x.2.1 x.2.2).any (fun v => match spots s env v 1 .write true with
        | .ok (y :: _) => (y.place.filter inStore).map placeBank == some bk
        | _ => false)

/-- Whether an accepted command still writes a bank's stores, or credits a landing word there (R332). -/
def Engine.fills (s : State) (bk : Nat) (e : Engine) : Bool :=
  match e.op with
  | .tzero _ | .tileLoad .. | .mma .. | .accz .. | .accLoad .. | .accMove .. => e.bank == bk
  | .tileStore _ rb rows loc => rows.any (fun a => reachesBank s bk e (loc, BitVec.ofNat 64 a, rb))
  | .accStore _ a n => reachesBank s bk e (true, BitVec.ofNat 64 a, 4 * n)
  | .accConvert _ a m n fb => (convertDests fb a (m * n)).any (fun x => reachesBank s bk e (true, BitVec.ofNat 64 x.1, x.2))
  | .copy h words _ =>
    (copyDests s e.bank (e.env s) h words).any (reachesBank s bk e) || e.arrivals.any (fun a => inStore a.place && placeBank a.place == bk)
  | _ => false

/-- Whether a crew's save can be taken: what fills its stores is complete, and its outstanding results have been written. -/
def saveReady (s : State) (bk : Nat) (w : Crew) : Bool :=
  (fibresOf s bk).all (fun e => e.2.spend.isEmpty && e.2.lpend.isEmpty) &&
    !s.engines.any (fun e => decide (e.2.bank ∈ deckMembers s w) && e.2.fills s bk)

/-- The sends that a save does not keep are discarded (R413): those on words beyond the first `kept` bytes of scratchpad. -/
def dropSends (s : State) (bk kept : Nat) : State :=
  let hit (a : Armed) : Bool := decide (kept < placeOffset a.place + 16)
  ((bankOf s bk).armed.filter hit).foldl cancelSend (onBank s bk (fun b => { b with armed := b.armed.filter (fun a => !hit a) }))

/-- What a save writes: the records, the lines left behind, in full also the stores, and for a protected crew the seal. -/
def saveImage (s : State) (bk : Nat) (w : Crew) (full : Bool) : State :=
  let t := evictLines (writeRecords s bk w (fun fk _ => some (fk % 4))) bk w
  let u := dropSends (if full then saveStores t bk w else t) bk (if full then 0x1000 * w.block.footprint else 0)
  if w.own.prot then sealArea u bk w else u

/-- The entry of a saved crew: what its image holds beyond the published layout. -/
def savedEntry (s : State) (bk : Nat) (w : Crew) (full : Bool) (home : Option Nat) : Saved :=
  { crew := { w with written := true }, full := full, home := home, fibres := fibresOf s bk, armed := (bankOf s bk).armed
    barriers := match lookup s.decks w.deck with | some d => d.barriers | none => [] }

/-- The key of a crew's save area. -/
def areaId (w : Crew) : Nat := w.ctx * 4096 + w.area

/-- SAVE_COMPLETE (R331, R332, R336, R337): the crew of core `g` is saved, and drains. A failed unit met on the way kills its deck. -/
def execSaveComplete (g : Nat) (s : State) : Out :=
  let bk := activeBank s g
  match lookup s.crews bk with
  | none => .next s
  | some w =>
    match w.state with
    | .saving full =>
      if !saveReady s bk w then .next s
      else
        let t := if full then s else carryCrew s bk w w.record.w1
        let v := saveImage t bk w full
        let u := { v with saved := put v.saved (areaId w) (savedEntry v bk w full none) }
        .next (onCrew u bk (fun x => if x.state = .saving full then
          { x with state := .draining, ending := some .resume, saved := true, yields := x.yields + 1#32 } else x))
    | _ => .next s

/-- GRACE_EXPIRY (R335, R337): grace has ended by count or by time: every fibre of the crew of core `g` stops, and the crew is saved in full. -/
def execGraceExpiry (g : Nat) (s : State) : Out :=
  let bk := activeBank s g
  match lookup s.crews bk with
  | none => .next s
  | some w =>
    if w.g && graceOver s w && w.state == .running && crewRuns s bk w then
      .next (onCrew (haltCrew s bk) bk (fun w => { w with state := .saving true }))
    else .next s

end Sys2Proof.Machine
end

