-- ==== Sys2Proof/Machine/Scheduling.lean ====
section
/-! DEFINITION. The scheduling instructions (R339 to R346) and QPRIO (R327). -/

namespace Sys2Proof.Machine

/-- A scheduling instruction of the current fibre with its context. -/
def schedOp (sw : Bool) (reads : List (BitVec 6)) (s : State) (body : Here → Context → Out) : Out :=
  unfenced sw reads s (fun h => match lookup s.contexts h.w.ctx with | some c => body h c | none => .next s)

/-! ### Records in memory -/

/-- The bytes of an operand in memory as a scalar load reads them. -/
def readBlock (s0 : State) (env : Env) (bk : Nat) (v : Word) (n : Nat) (w : Want) : State × Except (Word × Fail) (List Byte) :=
  let s := walkedRange s0 env v n
  match spots s env v n w false with
  | .error x => (s, .error x)
  | .ok l =>
    match meetRead (holdSpots (remember (countReserved s l) env v) (bk % 1024 / 8) l false) bk l with
    | (t, some (i, x)) => (t, .error (v + BitVec.ofNat 64 i, x))
    | (t, none) =>
      let bytes := l.map (fun x => match x.place with | some p => seenByte t p x.page.key | none => some 0#8)
      match (List.range l.length).find? (fun i => (bytes.getD i none).isNone) with
      | some i =>
        (tagFailures t ((l.filterMap (·.place)).drop i) ((l[i]?).bind (·.page.key)), .error (v + BitVec.ofNat 64 i, .poison))
      | none => (t, .ok (bytes.map (fun b => b.getD 0#8)))

/-- A trap of a scheduling instruction that has issued. -/
def schedTrap (t : State) (c : Cause) : Out := .next (trapScalar t c 0#64)

/-- The context of a sailing of a partition (R318). -/
def contextOf (s : State) (partition sailing : Nat) : Option (Nat × Context) :=
  s.contexts.find? (fun c => c.2.partition == partition && c.2.sailing == sailing)

/-- The checks of R323 on a record of SPAWN or LAUNCHI: its kind is START, reserved bits are zero, the code pointer is a multiple of 64, and its
partition field names a live sailing. -/
def childOk (s : State) (r : Record) : Bool :=
  r.kind == 0 && wfld r.w2 43 20 == 0 && wfld r.w3 54 2 == 0 && wfld r.w3 59 5 == 0 && r.w0.toNat % 64 == 0 &&
    (contextOf s (wfld r.w3 56 3) (wfld r.w3 48 6)).isSome

/-- A carve taken from the issuing crew (R340); none where it is above LEFT. -/
def takeCarve (t : State) (f : Fibre) (times : Nat) (carve : Word) : Option State :=
  let bk := bankOfFibre t.cur
  match lookup t.crews bk with
  | none => none
  | some w =>
    let bi := times * wfld carve 0 32
    let bm := times * wfld carve 32 32
    if w.bi.toNat < bi ∨ w.bm.toNat < bm then none else some (charge t bk t.cur f.spc bi bm)

/-- The check of a join link (R340, R344): a link that is not 0 translates for writing. -/
def linkReach (s : State) (env : Env) (j : Word) : State × Except (Word × Fail) (List Spot) :=
  if j = 0#64 then (s, .ok []) else (walkedRange s env j 32, spots (walkedRange s env j 32) env j 32 .write false)

/-- A carve as the halves of `bi` and `bm`. -/
def carveOf (v : Word) : BitVec 32 × BitVec 32 := (bits v 0 32, bits v 32 32)

/-- SPAWN (R340). -/
def execSpawn (sw : Bool) (x y : BitVec 6) (f : BitVec 4) (z : BitVec 6) (s : State) : Out :=
  longLatency sw f [x, y, z] none s (fun h =>
    match lookup s.contexts h.w.ctx with
    | none => .next s
    | some c =>
      let v := h.f.readS x
      let j := h.f.readS z
      let bk := bankOfFibre s.cur
      let t := issueAccess s h.f 1
      if v.toNat % 32 ≠ 0 ∨ j.toNat % 32 ≠ 0 then schedTrap t .recordInvalid
      else
        match readBlock t h.env bk v 32 .read with
        | (u, .error q) => .next (rangeFail u h.f .read q)
        | (u, .ok l) =>
          match linkReach u h.env j with
          | (u, .error q) => .next (rangeFail u h.f .write q)
          | (u, .ok _) =>
            let r := recordOf l
            if !childOk u r then schedTrap u .recordInvalid
            else
              match takeCarve u h.f r.width (h.f.readS y) with
              | none => schedTrap u .budgetCarve
              | some w =>
                let r' : Record := { r with w3 := stampPartition c r.w3 }
                .next (onCur (enqueue w h.w.ctx r' (if j = 0#64 then none else some { addr := j, view := h.w.view }) (carveOf (h.f.readS y)) 0) Fibre.next4))

/-! ### Arrivals (R336, R341, R342) -/

/-- The current fibre has drained and arrives: it stops, and the crew moves on where every fibre has arrived or ended. -/
def arriveEnd (t : State) (a : Arrival) (g : Fibre → Fibre) : State :=
  switch (settleCrew (onCur t (fun f => { g f with arrived := some a, sWait := none, sStall := none })) (bankOfFibre t.cur)) t.cur

/-- An instruction that drains and then arrives: `start` makes its checks and its issue, `w` is its wait, `done` acts once it has
drained. -/
def drainThen (h : Here) (w : Wait) (start : State → Except Out State) (done : State → Out) (s : State) : Out :=
  if h.f.sWait = some w then (if drained s s.cur h.f then done s else .next s)
  else
    match start s with
    | .error o => o
    | .ok t => if drained t t.cur h.f then done t else .next (waitHere t true w)

/-- A mismatch with an earlier arrival traps where the fibre waited. -/
def mismatch (t : State) : Out :=
  .next (trapScalar (onCur t (fun f => { f with sWait := none, sStall := none })) .phaseMismatch 0#64)

/-- The operands of a PHASE or JOIN in progress: those captured at its issue, or the registers. -/
def waitArgs (h : Here) (x y : BitVec 6) : Word × Word :=
  match h.f.sWait with
  | some (.phase a b) => (a, b)
  | some (.join a) => (a, 0#64)
  | _ => (h.f.readS x, h.f.readS y)

/-- PHASE (R342). -/
def execPhase (sw : Bool) (x y : BitVec 6) (s : State) : Out :=
  schedOp sw [x, y] s (fun h _ =>
    if h.f.handler.isSome then .next (illegalRange s)
    else
      let a := waitArgs h x y
      drainThen h (.phase a.1 a.2) (fun t => .ok (issueScalar t h.f.spc 1 0))
        (fun t =>
          let earlier := (deckMembers t h.w).filterMap (fun k => (lookup t.crews k).bind (·.phaseArgs))
          if earlier.any (· != a) then mismatch t
          else .next (arriveEnd (onCrew t (bankOfFibre t.cur) (fun w => { w with phaseArgs := some a })) .phase id)) s)

/-- JOIN's checks at issue (R341): the alignment of its record, its translation for writing, and its kind. -/
def joinStart (h : Here) (v : Word) (s : State) : Except Out State :=
  let t := issueAccess s h.f 1
  if v.toNat % 32 ≠ 0 then .error (schedTrap t .recordInvalid)
  else
    match readBlock t h.env (bankOfFibre s.cur) v 32 .write with
    | (u, .error q) => .error (.next (rangeFail u h.f .write q))
    | (u, .ok l) => if (recordOf l).kind = 3 then .ok u else .error (schedTrap u .recordInvalid)

/-- JOIN (R341). -/
def execJoin (sw : Bool) (x : BitVec 6) (s : State) : Out :=
  schedOp sw [x] s (fun h _ =>
    if h.f.handler.isSome then .next (illegalRange s)
    else
      let v := (waitArgs h x x).1
      drainThen h (.join v) (joinStart h v)
        (fun t =>
          match (lookup t.crews (bankOfFibre t.cur)).bind (·.joinArg) with
          | some w => if w ≠ v then mismatch t else .next (arriveEnd t .join id)
          | none => .next (arriveEnd (onCrew t (bankOfFibre t.cur) (fun w => { w with joinArg := some v })) .join id)) s)

/-- A yield point once drained: the fibre arrives where grace still runs, else the instruction completes (R336). -/
def yieldPoint (h : Here) (start : State → State) (s : State) : Out :=
  let running (t : State) : Bool := match lookup t.crews (bankOfFibre t.cur) with | some w => w.g | none => false
  let done (t : State) : Out := .next (if running t then arriveEnd t .yieldPoint Fibre.next4 else onCur t Fibre.completeWait)
  if h.f.sWait = some .yieldPoint then (if drained s s.cur h.f || !running s then done s else .next s)
  else
    let t := start (issueScalar s h.f.spc 1 0)
    if h.f.handler.isSome || !running t then .next (onCur t Fibre.next4)
    else if drained t t.cur h.f then done t
    else .next (waitHere t true .yieldPoint)

/-- YIELDPT (R336, R345). -/
def execYieldpt (sw : Bool) (s : State) : Out := schedOp sw [] s (fun h _ => yieldPoint h id s)

/-- YIELD (R345): grace starts, if it is not running. -/
def execYield (sw : Bool) (s : State) : Out :=
  schedOp sw [] s (fun h _ =>
    yieldPoint h (fun t => match lookup t.crews (bankOfFibre t.cur) with
      | some w => if w.g then t else startGrace t (bankOfFibre t.cur) t.cur h.f.spc
      | none => t) s)

/-- EXIT (R343): earlier clauses issue in full first, and what they have issued drains with the crew; in handler mode the held clauses are discarded (R194). Fibres that wait at a berth
barrier for this one trap (R183). -/
def execExit (sw : Bool) (s : State) : Out :=
  schedOp sw [] s (fun h _ =>
    if !h.f.clausesIssued then .next (stallScalar s sw .clausesIssue)
    else
      let t := onCur (issueScalar s h.f.spc 1 0) (fun f => { f with
        ended := true, clauses := [], running := none, lReplay := none, sWait := none, sStall := none, lStall := none })
      .next (switch (settleCrew (leaveBerth t s.cur) (bankOfFibre s.cur)) s.cur))

/-! ### Budgets and priorities -/

/-- BGRANT (R346): the right is checked first. -/
def execBgrant (sw : Bool) (x y : BitVec 6) (s : State) : Out :=
  schedOp sw [x, y] s (fun h _ =>
    let t := issueScalar s h.f.spc 1 0
    let a := h.f.readS x
    let b := h.f.readS y
    if !h.w.own.topUp then schedTrap t .budgetRight
    else if wfld a 32 32 ≠ 0 ∨ wfld b 32 32 ≠ 0 then schedTrap t .recordInvalid
    else
      let add (left : BitVec 32) (v : Word) : BitVec 32 := BitVec.ofNat 32 (min (left.toNat + v.toNat) (2 ^ 32 - 1))
      .next (onCur (onCrew t (bankOfFibre s.cur) (fun w =>
        let w' := { w with bi := add w.bi a, bm := add w.bm b }
        if w.g && w'.bi != 0#32 && w'.bm != 0#32 then { w' with g := false, grace := 0#9 } else w')) Fibre.next4))

/-- QPRIO (R327). -/
def execQprio (sw : Bool) (x y : BitVec 6) (s : State) : Out :=
  schedOp sw [x, y] s (fun h _ =>
    let t := issueScalar s h.f.spc 1 0
    let a := (h.f.readS x).toNat
    let b := (h.f.readS y).toNat
    if !h.w.own.priv then schedTrap t .privileged
    else if 2 ^ 16 ≤ a ∨ a / 64 % 4 ≠ 0 ∨ 8 ≤ a / 256 ∨ 16 < b then schedTrap t .recordInvalid
    else
      match contextOf s (a / 256) (a % 64) with
      | none => schedTrap t .recordInvalid
      | some (n, _) =>
        .next (onCur { t with contexts := alter t.contexts n (fun c => { c with override := if b = 16 then none else some b }) } Fibre.next4))

/-! ### LAUNCHI (R344) -/

/-- The fields of a launch descriptor beside its template. -/
structure LaunchFields where
  extent : Word
  carve : Word
  join : Word
  most : Nat
  reserved : Nat

/-- The fields at offsets 0x20 to 0x3F of a launch descriptor. -/
def launchFields (l : List Byte) : LaunchFields :=
  let word (o n : Nat) : Nat := leNat ((l.drop o).take n)
  { extent := BitVec.ofNat 64 (word 0x20 8), carve := BitVec.ofNat 64 (word 0x28 8), join := BitVec.ofNat 64 (word 0x30 8),
    most := word 0x38 4, reserved := word 0x3C 4 }

/-- A launch whose operands have passed: the carve is taken, the join counter raised, and the launch handed to the scheduler. -/
def launchStart (h : Here) (f : BitVec 4) (r : Record) (d : LaunchFields) (p : Nat) (g : BitVec 16) (t : State) : Out :=
  match takeCarve t h.f (d.most * r.width) d.carve with
  | none => schedTrap t .budgetCarve
  | some u =>
    let link : Option Link := if d.join = 0#64 then none else some { addr := d.join, view := h.w.view }
    let v := match link with | some j => joinAdd u h.w.ctx j 1 | none => u
    let l : Launch := { ctx := h.w.ctx, template := r, view := h.w.view, extent := d.extent, carve := carveOf d.carve, joinLink := link, most := d.most, place := p, gen := g }
    .next (startEngine v h f (.launch l))

/-- LAUNCHI (R344). -/
def execLaunchi (sw : Bool) (x y : BitVec 6) (f : BitVec 4) (z : BitVec 6) (s : State) : Out :=
  longLatency sw f [x, y, z] (some .launches) s (fun h =>
    let bk := bankOfFibre s.cur
    let v := h.f.readS x
    let g := h.f.readS z
    let t := issueAccess s h.f 1
    if v.toNat % 64 ≠ 0 then schedTrap t .recordInvalid
    else
      match readBlock t h.env bk v 64 .read with
      | (u, .error q) => .next (rangeFail u h.f .read q)
      | (u, .ok l) =>
        let r := recordOf l
        let d := launchFields l
        if !childOk u r ∨ d.join.toNat % 32 ≠ 0 ∨ d.most = 0 ∨ 2 ^ 24 < d.most ∨ d.reserved ≠ 0 then schedTrap u .recordInvalid
        else
          match linkReach u h.env d.join with
          | (u0, .error q) => .next (rangeFail u0 h.f .write q)
          | (u0, .ok _) =>
            let u := if localForm (h.f.readS y) then u0 else walkedRange u0 h.env (h.f.readS y) 16
            match resolveLanding u h.env bk (h.f.readS y) .read with
            | .trap c a => .next (trapScalar u c a)
            | .fail a q => .next (rangeFail u h.f .read (a, q))
            | .word p key =>
              match meetRead u bk (wordSpots p key) with
              | (w, some (i, q)) => .next (rangeFail w h.f .read (h.f.readS y + BitVec.ofNat 64 i, q))
              | (w, none) =>
                if !(readWord w p key).ok ∨ wfld g 16 48 ≠ 0 then schedTrap w .lwOperand
                else launchStart h f r d p (bits g 0 16) (peerWord w (h.f.readS y) .load))

/-- A launch that the scheduler accepts: it is held on its word, and released at once where the generation is there already. -/
def acceptLaunch (s : State) (id : Nat) (e : Engine) (l : Launch) : State :=
  let t := finishEngine { s with launches := s.launches ++ [l] } id e 0#6
  let key := if inStore l.place then none else lookup s.ciphered (l.place / 64)
  releaseLaunches t l.place (readWord t l.place key).gen

end Sys2Proof.Machine
end

