-- ==== Sys2Proof/Machine/Admission.lean ====
section
/-! DEFINITION. Gang admission (R41, R42, R197, R200, R254, R262, R319, R321, R325 to R329, R338, R350, R352, R431). -/

namespace Sys2Proof.Machine

/-! ### Launch blocks (R328) -/

/-- The fields of a role entry. -/
def roleOfBytes (l : List Byte) : Role :=
  let n (o k : Nat) : Nat := leNat ((l.drop o).take k)
  { entry := BitVec.ofNat 64 (n 0 8), count := n 8 1, supervisor := n 9 1 % 2 == 1, window := BitVec.ofNat 64 (n 0x10 8)
    scalarCarry := BitVec.ofNat 64 (n 0x18 8), laneCarry := BitVec.ofNat 256 (n 0x20 32), laneBase := BitVec.ofNat 64 (n 0x40 8) }

/-- The fields of a launch block. -/
def blockOfBytes (l : List Byte) : LaunchBlock :=
  let n (o k : Nat) : Nat := leNat ((l.drop o).take k)
  { idempotent := n 2 1 % 2 == 1, berths := n 3 1, bi := BitVec.ofNat 32 (n 4 4), bm := BitVec.ofNat 32 (n 8 4), footprint := n 0xC 1
    accMask := BitVec.ofNat 8 (n 0xD 1), tileMask := BitVec.ofNat 16 (n 0xE 2)
    roles := (List.range 4).map (fun r => roleOfBytes (l.drop (0x40 + 0x80 * r))) }

/-- Whether the bytes of a block keep its fixed and reserved fields. -/
def blockBytesOk (l : List Byte) : Bool :=
  let zero (o k : Nat) : Bool := ((l.drop o).take k).all (· == 0#8)
  l.take 2 == [1#8, 0#8] && leNat ((l.drop 2).take 1) < 2 && zero 0x10 48 &&
    (List.range 4).all (fun r =>
      let o := 0x40 + 0x80 * r
      leNat ((l.drop (o + 9)).take 1) < 2 && zero (o + 0xA) 6 && zero (o + 0x48) 56)

/-- The fibres of a berth: role number, index and role, in role order (R75). -/
def berthFibres (b : LaunchBlock) : List (Nat × Nat × Role) :=
  ((List.range b.roles.length).zip b.roles).flatMap (fun x => (List.range x.2.count).map (fun k => (x.1, k, x.2)))

/-- The checks of R329 on a block. -/
def blockOk (l : List Byte) : Bool :=
  let b := blockOfBytes l
  let fibres := berthFibres b
  let windows := fibres.map (fun x => roleWindow x.2.2.window x.2.1)
  blockBytesOk l && decide (1 ≤ b.berths) && b.berths ≤ 16 && b.bi != 0#32 && b.bm != 0#32 && b.footprint ≤ 192 &&
    !fibres.isEmpty && fibres.length ≤ 4 && (b.roles.filter (fun r => r.supervisor && r.count != 0)).length ≤ 1 &&
    windows.all (·.isSome) && berthOk (windows.filterMap id) &&
    b.roles.all (fun r => r.count == 0 || (List.range 256).all (fun n => !r.laneCarry.getLsbD n || (mapName r.window n).isSome))

/-- The counts that a PHASE must keep (R329). -/
def blockShape (b : LaunchBlock) : Nat × List Nat := (b.berths, b.roles.map (·.count))

/-! ### The head of a cluster's queues (R325, R326) -/

/-- The effective priority of a record. -/
def effectivePriority (s : State) (q : Queued) : Nat :=
  let p := match (lookup s.contexts q.ctx).bind (·.override) with | some x => x | none => q.record.priority
  min 15 (p + (s.clock - q.time) / 2 ^ 20)

/-- The lowest run of `w` consecutive free save areas of a context that has `areas` of them (R321). -/
def freeRun (c : Context) (areas w : Nat) : Option Nat :=
  (List.range areas).find? (fun a => decide (a + w ≤ areas) && (List.range w).all (fun k => !decide (a + k ∈ c.inUse)))

/-- Whether a queued record may be popped on a cluster. -/
def eligible (s : State) (cluster : Nat) (q : Queued) : Bool :=
  !q.held && q.cluster == cluster && q.record.width ≤ (coresInService s cluster).length &&
    (match lookup s.contexts q.ctx with
      | some c =>
        (match lookup s.partitions c.partition with | some p => p.active | none => false) && !pausedContext s q.ctx &&
          (q.record.kind != 0 || (freeRun c c.areas q.record.width).isSome)
      | none => false)

/-- Whether record `a` goes before `b`: by effective priority, then age, then the lower record address (R326). -/
def goesBefore (s : State) (a b : Queued) : Bool :=
  let x := effectivePriority s a
  let y := effectivePriority s b
  decide (y < x) || (x == y && (decide (a.time < b.time) || (a.time == b.time && decide (a.addr < b.addr))))

/-- The head of a cluster's queues. -/
def headRecord (s : State) (cluster : Nat) : Option Queued :=
  (s.queue.filter (eligible s cluster)).foldl (fun best q =>
    match best with
    | none => some q
    | some b => if goesBefore s q b then some q else some b) none

/-- The idle cores of a cluster (R197). -/
def idleCores (s : State) (cluster : Nat) : List Nat :=
  (coresInService s cluster).filter (fun g => (bankOf s (activeBank s g)).state == .empty && !(coreOf s g).flipWanted)

/-! ### The descriptor and the save area -/

/-- A descriptor as one admission reads it (R319): the fields that its crews keep, the number of save areas, and the system registers (R329). -/
structure Fresh where
  own : Admitted
  areas : Nat
  heapBase : Word
  heapLimit : Word
  heapOffset : Word
  trapbase : Word
  deriving DecidableEq, Repr

/-- The descriptor of a context read at an admission: of each field that has changed since registration the old value or the new one (R319); the
reserved fields of the registers read zero (R11). -/
def readFresh (s : State) (n : Nat) (c : Context) : Fresh :=
  let d := (readDescriptor s c.descriptor).ctx
  let pick {α : Type} [DecidableEq α] (i : Nat) (old new : α) : α := if old ≠ new && Config.choice s.tick n i then new else old
  { own := {
      gen := pick 0 c.gen d.gen, tenant := pick 1 c.tenant d.tenant, priv := pick 2 c.priv d.priv, prot := pick 3 c.prot d.prot
      topUp := pick 4 c.topUp d.topUp, keySlot := pick 5 c.keySlot d.keySlot, root := pick 7 c.root d.root
      imageBase := pick 12 c.imageBase d.imageBase, sealedBase := pick 13 c.sealedBase d.sealedBase, stackTop := pick 14 c.stackTop d.stackTop
      stackBytes := pick 15 c.stackBytes d.stackBytes, statusArea := pick 16 c.statusArea d.statusArea }
    areas := pick 6 c.areas d.areas
    heapBase := heapBaseOf (pick 8 c.heapBase d.heapBase), heapLimit := heapLimitOf (pick 9 c.heapLimit d.heapLimit)
    heapOffset := heapOffsetOf (pick 10 c.heapOffset d.heapOffset), trapbase := trapbaseOf (pick 11 c.trapbase d.trapbase) }

/-- The environment of a context by a descriptor as an admission has read it. -/
def Fresh.env (x : Fresh) (s : State) (n : Nat) (c : Context) : Env :=
  let e := envWith s n c x.own x.heapBase x.heapLimit x.heapOffset false
  { e with heapOn := e.heapOn && !heapRejects e.dies x.heapBase x.heapLimit x.heapOffset }

/-- The four frames of a save area, translated as a store (R431); none where a page fails. -/
def areaFrames (s : State) (o : Admitted) (env : Env) (a : Nat) : Option (List Nat) :=
  (List.range 4).mapM (fun i =>
    match translate s env (o.imageBase + BitVec.ofNat 64 (a * 0x200000 + i * 0x80000)) .write false with
    | .error _ => none
    | .ok p => if inDevice p.frame && (!o.prot || p.key.isSome) then some p.frame else none)

/-! ### Fibres -/

/-- A fibre at its role's entry (R41, R98); of the entry and the lane-code base it holds what SPC and LCBASE can hold (log 116, log 117). -/
def startFibre (r : Role) (role index : Nat) (sregs : Vector Word 64) : Fibre :=
  { sregs := sregs, preds := Vector.replicate 8 0#32, em := 0xFFFF_FFFF#32, flags := Vector.replicate 12 0#4, aflags := 0#64
    gens := Vector.ofFn (fun l : Fin 32 => 0x6D2B_79F5#32 + BitVec.ofNat 32 l.val), spc := codeAddress r.entry, lcbase := laneBaseOf r.laneBase, window := (roleWindow r.window index).getD 0#64
    role := role, index := index, clauses := [], running := none, spend := [], lpend := [], nextId := 0, sStall := none, lStall := none
    sWait := none, waitWord := 0#32, handler := none, frozen := false, parked := none, sReplay := none, lReplay := none, lRaised := none
    replayOf := none, fetchOf := none, cbarDone := none, trapped := false, ended := false, arrived := none, fence := none, q0 := [], q1 := [], q2 := [], q3 := []
    q3lost := false, q4 := [], q5 := [], session := none, routeAsked := none }

/-- A number in a save area, as the crew's own access reads it. -/
def areaNumber (s : State) (w : Crew) (key : Option Nat) (o n : Nat) : Nat :=
  leNat ((List.range n).map (fun i => (viewByte s (areaPlace w (o + i)) key).getD 0#8))

/-- The scalar registers of a record at offset `o`. -/
def recordRegs (s : State) (w : Crew) (key : Option Nat) (o : Nat) : Vector Word 64 :=
  Vector.ofFn (fun i : Fin 64 => BitVec.ofNat 64 (areaNumber s w key (o + 8 * i.val) 8))

/-- The clause queue of a record at offset `o` (R29): the saved entries with the addresses that the record holds; one that the save did not know takes
the record's scalar registers for its snapshot (log 135). -/
def recordClauses (s : State) (w : Crew) (key : Option Nat) (o : Nat) (f : Fibre) : List Clause :=
  let heads := ((List.range 4).map (fun e => BitVec.ofNat 64 (areaNumber s w key (o + 0x240 + 8 * e) 8))).takeWhile (· != 0#64)
  (List.range heads.length).zipWith (fun e v => match f.clauses[e]? with
    | some c => { c with header := v }
    | none => { header := v, serial := f.nextId + e, snapshot := recordRegs s w key o, awaiting := [] }) heads

/-- The clause that the lane stream has taken, placed at the LPC of a record: none where LPC is at its header, and issued whole where LPC is 0 (R21). -/
def Running.placed (r : Running) (header lpc : Word) : Option Running :=
  if lpc = header then none
  else some { r with pos := if lpc = 0#64 then r.len + 1 else (lpc - header).toNat / 12 }

/-- A fibre with what its record holds in the published layout (R29). -/
def restoreFibre (s : State) (w : Crew) (key : Option Nat) (fk : Nat) (f : Fibre) : Fibre :=
  let o := recordOffset fk
  let n (x k : Nat) : Nat := areaNumber s w key (o + x) k
  let spc := codeAddress (BitVec.ofNat 64 (n 0x230 8))
  let clauses := recordClauses s w key o f
  { f with
    sregs := recordRegs s w key o
    preds := Vector.ofFn (fun j : Fin 8 => BitVec.ofNat 32 (n (0x200 + 4 * j.val) 4))
    em := BitVec.ofNat 32 (n 0x220 4)
    flags := Vector.ofFn (fun k : Fin 12 => BitVec.ofNat 4 (fld (n 0x224 6) (4 * k.val) 4))
    spc := if spc = recordSpc f then f.spc else spc
    clauses := clauses
    running := match clauses, f.running with | c :: _, some r => r.placed c.header (BitVec.ofNat 64 (n 0x238 8)) | _, _ => none
    nextId := f.nextId + 4
    window := BitVec.ofNat 64 (n 0x260 8), aflags := BitVec.ofNat 64 (n 0x268 8) &&& 63#64 }

/-- A saved fibre as it resumes: one that had arrived at a yield point goes on. -/
def resumeFibre (s : State) (w : Crew) (key : Option Nat) (fk : Nat) (f : Fibre) : Fibre :=
  let g := restoreFibre s w key fk f
  { g with arrived := if g.arrived = some .yieldPoint then none else g.arrived }

/-- The fibres of a saved crew restored: into the records of a sealed image go the flags that fell or rose after its save (R112, R180). -/
def restoreFibres (resume : State → Crew → Option Nat → Nat → Fibre → Fibre) (s : State) (bk : Nat) (w : Crew) (l : List (Nat × Fibre)) : State :=
  let key := areaKey s w
  let t := if w.own.prot then l.foldl (fun t y => write t key (flagCells w y.1 y.2)) s else s
  l.foldl (fun u y => setFibre u (fibreIn bk y.1) (resume u w key (fibreIn bk y.1) y.2)) t

/-- A crew's fibre count. -/
def fibreCount (b : LaunchBlock) : Nat := b.berths * (berthFibres b).length

/-- The barriers of a starting crew or deck. -/
def freshBarriers (n e : Nat) : List Barrier := List.replicate n { expected := e, arrived := 0, gen := 0#16 }

/-! ### Admission -/

/-- What admission knows of the record that it pops. -/
structure Admit where
  q : Queued
  n : Nat
  fresh : Fresh
  env : Env
  b : LaunchBlock
  a0 : Nat
  cores : List Nat

/-- A bank made ready for a crew: running, every unit fresh, no send armed (R200). -/
def openBank (s : State) (bk : Nat) : State :=
  onBank s bk (fun b => { b with state := .running, store := [], units := [], latent := [], poison := [], armed := [] })

/-- The core's serial rises by 1 (R198). -/
def newSerial (s : State) (g : Nat) : State := onCore s g (fun c => { c with serial := c.serial + 1#16 })

/-- A starting crew. -/
def newCrew (s : State) (x : Admit) (k bk deck : Nat) (frames : List Nat) : Crew :=
  let fresh (carved own : BitVec 32) : BitVec 32 := if x.q.record.kind = 0 ∧ carved ≠ 0#32 then carved else own
  { ctx := x.n, own := x.fresh.own, serial := s.nextSerial, gen := (coreOf s (bk % 1024)).serial, record := x.q.record, block := x.b, deck := deck, index := k
    area := x.a0 + k, frames := frames, state := .running, ending := none, saved := false
    bi := fresh x.q.carve.1 x.b.bi, bm := fresh x.q.carve.2 x.b.bm, grace := 0#9, g := false, graceClock := 0, yields := 0#32
    td := Vector.replicate 16 0#64, fb := Vector.replicate 4 0#64, heapBase := x.fresh.heapBase, heapLimit := x.fresh.heapLimit
    heapOffset := x.fresh.heapOffset, heapRejected := false, trapbase := x.fresh.trapbase
    barriers := Vector.replicate 8 { expected := fibreCount x.b, arrived := 0, gen := 0#16 }, notices := [], noticesLost := false
    phaseArgs := none, joinArg := none, joinLink := x.q.joinLink, relaunches := x.q.relaunches, carve := x.q.carve, code := []
    written := x.q.record.kind != 0 }

/-- Lines tagged in a save area that other slots hold are written back and removed before its berths run (R33); those of the slots that its berths
take are theirs again. -/
def reclaimLines (s : State) (w : Crew) (bk : Nat) : State :=
  s.slots.foldl (fun t e =>
    (slotLines e.2).foldl (fun u m =>
      match lookup (slotOf u e.1).lines m with
      | none => u
      | some ln =>
        match (List.range w.block.berths).find? (fun j => ln.tag == areaPlace w (berthOffset j + 0x2000 + 512 * m)) with
        | none => u
        | some j =>
          if e.1 == slotKey bk j then
            let sl := slotOf u e.1
            { u with slots := put u.slots e.1 { sl with lines := put sl.lines m { ln with state := if ln.unsaved then .dirty else .clean } } }
          else
            let v := if ln.unsaved then writeBack u e.1 m (areaKey u w) ln (lineDead (slotOf u e.1) m ln) else u
            { v with slots := put v.slots e.1 { slotOf v e.1 with lines := del (slotOf v e.1).lines m } }) t) s

/-- A berth's slot at admission: its dead mask, and its lowest fibre current (R41). -/
def openSlot (s : State) (bk j : Nat) (dead : BitVec 256) : State :=
  let k := slotKey bk j
  { s with slots := put s.slots k { slotOf s k with current := 0, dead := dead } }

/-- The key of fibre `f` of berth `j` of a bank. -/
def fibreKey (bk j f : Nat) : Nat := bk / 1024 * 65536 + bk % 1024 * 64 + 4 * j + f

/-- Whether the fibre of berth `j` in a role and index arrived, and so carries (R342). -/
def Saved.carries (v : Saved) (j role index : Nat) : Bool :=
  v.fibres.any (fun y => fibreNumber y.1 / 4 % 16 == j && y.2.role == role && y.2.index == index && !y.2.ended && !y.2.frozen)

/-- A started crew's fibres; for a PHASE with the carried registers of the records (R342). -/
def startFibres (s : State) (x : Admit) (w : Crew) (bk : Nat) (carried : Option Saved) : State :=
  let key := areaKey s w
  (List.range x.b.berths).foldl (fun t j =>
    ((List.range 4).zip (berthFibres x.b)).foldl (fun u y =>
      let fk := fibreKey bk j y.1
      let r := y.2.2.2
      let mask := match carried with
        | some old => (match old.crew.block.roles[y.2.1]? with | some o => if old.carries j y.2.1 y.2.2.1 then o.scalarCarry else 0#64 | none => 0#64)
        | none => 0#64
      let old := if mask = 0#64 then Vector.replicate 64 0#64 else recordRegs s w key (berthOffset j + 0x400 * y.1)
      setFibre u fk (startFibre r y.2.1 y.2.2.1 (carriedRegs mask old x.q.record.w1 (stackOf w fk) y.2.2.1))) t) s

/-- A register file's dead masks as a save area holds them. -/
def openSlots (s : State) (bk : Nat) (w : Crew) : State :=
  (List.range w.block.berths).foldl (fun t j =>
    openSlot t bk j (BitVec.ofNat 256 (areaNumber t w (areaKey t w) (berthOffset j + 0x1000) 32))) s

/-- The crew stores of the declaration read back from a save area; no unit of them is fresh any more (R201). -/
def restoreStores (s : State) (bk : Nat) (w : Crew) : State :=
  (saveBlocks w.block).foldl (fun t b => moveSpots t bk (areaSpots w (areaKey t w) b.2 0x1000) (bankSpots bk b.1 0x1000))
    (onBank s bk (fun b => { b with units := distinct ((saveBlocks w.block).map (fun y => unitOf y.1) ++ b.units) }))

/-- Member `k` of a START or PHASE: a START's save area is new, and no line of it stays (R30). -/
def startMember (x : Admit) (deck k g : Nat) (s : State) : State :=
  match areaFrames s x.fresh.own x.env (x.a0 + k) with
  | none => s
  | some frames =>
    let bk := activeBank s g
    let s1 := newSerial (openBank s bk) g
    let saved := lookup s1.saved (x.n * 4096 + x.a0 + k)
    let carried := if x.q.record.kind = 1 then saved else none
    let w0 := newCrew s1 x k bk deck frames
    let w := match carried with
      | some old => { w0 with serial := old.crew.serial, yields := old.crew.yields }
      | none => w0
    let s2 := { s1 with crews := put s1.crews bk w, nextSerial := s1.nextSerial + 1 }
    let s3 := if carried.isSome then openSlots (reclaimLines s2 w bk) bk w
      else (List.range x.b.berths).foldl (fun t j => openSlot t bk j (BitVec.allOnes 256)) (dropImages s2 [frames])
    checkHeap (startFibres s3 x w bk carried) bk

/-- Member `k` of a RESUME: everything that was saved comes back, `CTXID` and `TENANT` with it; the budgets are those of the launch block that the
record names (R329, R338, log 136). -/
def resumeMember (x : Admit) (deck k g : Nat) (s : State) : State :=
  match lookup s.saved (x.n * 4096 + x.a0 + k), areaFrames s x.fresh.own x.env (x.a0 + k) with
  | some v, some frames =>
    let bk := activeBank s g
    let s1 := newSerial (openBank s bk) g
    let w : Crew := { v.crew with
      own := { x.fresh.own with gen := v.crew.own.gen, tenant := v.crew.own.tenant }
      gen := (coreOf s1 g).serial, deck := deck, frames := frames, saved := false, code := [], bi := x.b.bi, bm := x.b.bm
      grace := 0#9, g := false
      state := if v.crew.ending = some .resume then .running else .draining, ending := if v.crew.ending = some .resume then none else v.crew.ending }
    let s2 := { s1 with crews := put s1.crews bk w, saved := del s1.saved (x.n * 4096 + x.a0 + k) }
    let s3 := openSlots (reclaimLines s2 w bk) bk w
    let s4 := if v.full then restoreStores s3 bk w else s3
    let s5 := onBank s4 bk (fun b => { b with armed := v.armed.map (fun a => { a with place := bankPlace bk (placeOffset a.place) }) })
    checkHeap (restoreFibres resumeFibre s5 bk w v.fibres) bk
  | _, _ => s

/-- The deck of an admission. -/
def openDeck (x : Admit) (s : State) : State × Nat :=
  let id := s.nextSerial
  let members := x.cores.map (activeBank s)
  let barriers := match lookup s.saved (x.n * 4096 + x.a0) with
    | some v => if x.q.record.kind = 2 then v.barriers else freshBarriers (2 * x.q.record.width) (x.q.record.width * fibreCount x.b)
    | none => freshBarriers (2 * x.q.record.width) (x.q.record.width * fibreCount x.b)
  ({ s with
      nextSerial := id + 1
      decks := put s.decks id { cluster := x.cores.headD 0 / 8, width := x.q.record.width, members := members, barriers := barriers, ctx := x.n } }, id)

/-- The checks of R352 on the sealed slot of area `a` of context `n`: the plaintext, or the status of the refusal. -/
def unsealSlot (s : State) (n : Nat) (o : Admitted) (env : Option Env) (a : Nat) (w : Crew) : Except Nat (List Byte) :=
  let len := (sealPlaces w).length
  match contextPlaces s env (sealSlot o a) (0x50 + len) .read with
  | none => .error 7
  | some l =>
    let bytes := l.map (fun y => (viewByte s y.1 y.2).getD 0#8)
    let head := bytes.take 0x40
    let at' (i m : Nat) : Nat := leNat ((head.drop i).take m)
    let counter := lookupD s.sealCounters (sealKey n a) 0
    if at' 0 8 ≠ counter then .error 6
    else if at' 8 4 ≠ n ∨ at' 0xC 2 ≠ o.gen.toNat ∨ at' 0xE 2 ≠ a ∨ at' 0x10 4 ≠ len then .error 7
    else
      match gcmOpen (contextKey s o) (sealIv n a counter) head ((bytes.drop 0x40).take len) (bytes.drop (0x40 + len)) with
      | some p => .ok p
      | none => .error 7

/-- A protected PHASE or RESUME: every member's slot is checked, and then unsealed into its save area (R350, R352). -/
def unsealAll (s : State) (x : Admit) : Except Nat State :=
  if !x.fresh.own.prot || x.q.record.kind == 0 then .ok s
  else
    let members := (List.range x.q.record.width).filterMap (fun k => (lookup s.saved (x.n * 4096 + x.a0 + k)).map (fun v => (k, v)))
    let images := (members.filter (fun y => y.2.full || y.2.crew.saved)).map (fun y =>
      (areaFrames s x.fresh.own x.env (x.a0 + y.1)).map
        (fun fr => ({ y.2.crew with own := x.fresh.own, frames := fr }, unsealSlot s x.n x.fresh.own (some x.env) (x.a0 + y.1) y.2.crew)))
    images.foldl (fun acc y =>
      match acc, y with
      | .error e, _ => .error e
      | .ok t, some (w, .ok plain) => .ok (write t (areaKey t w) ((sealPlaces w).zip plain))
      | .ok _, some (_, .error e) => .error e
      | .ok t, none => .ok t)
      (match images.findSome? (fun y => match y with | some (_, .error e) => some e | _ => none) with
        | some e => .error e
        | none => .ok s)

/-- A record leaves the queues without a crew (R330). -/
def refuseAdmission (s : State) (q : Queued) (o : Admitted) (status core : Nat) : State :=
  let t := if status = 6 ∨ status = 7 then countPackage s 0x07 1 else s
  settleSailing (endAbnormal t q.ctx o q.record q.joinLink status core) q.ctx

/-- The launch block of a record, as admission reads it (R329); for a PHASE it must keep the shape of the block before it. -/
def admissionBlock (s : State) (n a0 bk : Nat) (env : Env) (r : Record) : State × Option LaunchBlock :=
  match readBlock s env bk r.w0 576 .read with
  | (t, .error _) => (t, none)
  | (t, .ok l) =>
    let same : Bool := match (if r.kind = 1 then lookup s.saved (n * 4096 + a0) else none) with
      | some v => blockShape v.crew.block == blockShape (blockOfBytes l)
      | none => true
    (t, if r.w0.toNat % 64 = 0 && blockOk l && same then some (blockOfBytes l) else none)

/-- A member of a deck that an error has killed while the deck was admitted kills it whole (R255). -/
def killTogether (s : State) (deck : Nat) : State :=
  if s.crews.any (fun w => w.2.deck == deck && w.2.ending == some .killed) then killMembers s deck .killed else s

/-- The admission of a popped record on cores that are idle. -/
def admitDeck (s : State) (q : Queued) (n : Nat) (c : Context) (cores : List Nat) : State :=
  let g0 := cores.headD 0
  let fresh := readFresh s n c
  let s1 := { s with queue := s.queue.filter (fun x => x.addr != q.addr) }
  let env := fresh.env s1 n c
  let w := q.record.width
  let a0 := if q.record.kind = 0 then ((freeRun c fresh.areas w).getD ((freeRun c c.areas w).getD 0)) else wfld q.record.w2 0 32
  match admissionBlock s1 n a0 (activeBank s1 g0) env q.record with
  | (t, none) => refuseAdmission t q fresh.own 4 g0
  | (t, some b) =>
    let x : Admit := { q := q, n := n, fresh := fresh, env := env, b := b, a0 := a0, cores := cores }
    if (List.range w).any (fun k => (areaFrames t fresh.own env (a0 + k)).isNone) then refuseAdmission t q fresh.own 9 g0
    else
      match unsealAll t x with
      | .error status => refuseAdmission t q fresh.own status g0
      | .ok u =>
        let areas := (List.range w).map (a0 + ·)
        let v := { u with contexts := alter u.contexts n (fun c => { c with inUse := c.inUse.filter (fun k => !decide (k ∈ areas)) ++ areas }) }
        let d := openDeck x v
        let y := ((List.range w).zip cores).foldl
          (fun t m => if q.record.kind = 2 then resumeMember x d.2 m.1 m.2 t else startMember x d.2 m.1 m.2 t) d.1
        countCluster (killTogether y d.2) (g0 / 8) 0x0B 1

/-- DECK_ADMISSION (R326, R329): the head record of a cluster is popped where its W cores are idle; it is admitted or refused. -/
def execDeckAdmission (cluster : Nat) (s : State) : Out :=
  if !isReady s || s.health.stop then .next s
  else
    match headRecord s cluster with
    | none => .next s
    | some q =>
      let cores := (idleCores s cluster).take q.record.width
      match lookup s.contexts q.ctx with
      | none => .next s
      | some c => if cores.length < q.record.width then .next s else .next (admitDeck (countCluster s cluster 0x0A 1) q q.ctx c cores)

end Sys2Proof.Machine
end

