-- ==== Sys2Proof/Machine/Loading.lean ====
section
/-! DEFINITION. A program loaded from outside: one context, one crew of one fibre on core 0, and an instruction where that fibre fetches next. It
stands for boot, registration, submission and admission; State.reset holds none of it. -/

namespace Sys2Proof.Machine

/-- The address of the loaded instruction: virtual and physical alike. -/
def loadAddress : Nat := 0x10000

/-- The launch block of the loaded crew: one privileged fibre in one berth, all tiles and accumulators, a full scratchpad. -/
def loadBlock : LaunchBlock :=
  { idempotent := false, berths := 1, bi := 0x7FFF_FFFF#32, bm := 0x7FFF_FFFF#32, footprint := 192, accMask := 0xFF#8, tileMask := 0xFFFF#16
    roles := [{ entry := BitVec.ofNat 64 loadAddress, count := 1, supervisor := true, window := 64#64, scalarCarry := 0#64, laneCarry := 0#256, laneBase := 0#64 }] }

/-- The loaded context: privileged, not protected, its root table at 0x1000. -/
def loadContext : Context :=
  { gen := 0#16, tenant := 0#12, priv := true, prot := false, topUp := true, partition := 0, sailing := 0, keySlot := 0, areas := 1, root := 0x1000
    heapBase := 0#64, heapLimit := 0#64, heapOffset := 0#64, trapbase := 0#64, imageBase := 0#64, sealedBase := 0#64, stackTop := 0#64, stackBytes := 0#64
    statusArea := 0#64, descriptor := 0, started := true, inUse := [0], override := none
    patterns := Vector.replicate 64 { axis := [], control := 0#16 }, member := none, refused := false, joinLinks := [] }

/-- The record that began the loaded phase. -/
def loadRecord : Record := { w0 := 0#64, w1 := 0#64, w2 := 0#64, w3 := 0#64 }

/-- The loaded crew, alone in its deck. -/
def loadCrew : Crew :=
  { ctx := 1, own := loadContext.admitted, serial := 0, gen := 1#16, record := loadRecord, block := loadBlock, deck := 0, index := 0, area := 0, frames := [0x10_0000, 0x18_0000, 0x20_0000, 0x28_0000]
    state := .running, ending := none, saved := false, bi := 0x7FFF_FFFF#32, bm := 0x7FFF_FFFF#32, grace := 0#9, g := false, graceClock := 0, yields := 0#32
    td := Vector.replicate 16 0#64, fb := Vector.replicate 4 0#64, heapBase := 0#64, heapLimit := 0#64, heapOffset := 0#64, heapRejected := false
    trapbase := 0#64, barriers := Vector.replicate 8 { expected := 1, arrived := 0, gen := 0#16 }, notices := [], noticesLost := false, phaseArgs := none
    joinArg := none, joinLink := none, relaunches := 0, carve := (0#32, 0#32), code := [], written := true }

/-- The loaded fibre, at its entry. -/
def loadFibre : Fibre :=
  startFibre { entry := BitVec.ofNat 64 loadAddress, count := 1, supervisor := true, window := 64#64, scalarCarry := 0#64, laneCarry := 0#256, laneBase := 0#64 } 0 0
    (Vector.replicate 64 0#64)

/-- The fibre with a clause of one instruction taken, its header at the load address less 12. -/
def loadLaneFibre : Fibre :=
  { loadFibre with
    clauses := [{ header := BitVec.ofNat 64 (loadAddress - 12), serial := 0, snapshot := Vector.replicate 64 0#64, awaiting := [] }]
    running := some { len := 1, fa := 15#4, fb := 15#4, wait := 0#12, started := true, pos := 1 }
    nextId := 1 }

/-- Its slot: every line of the berth held, every register zero. -/
def loadSlot : Slot :=
  { current := 0, dead := 0#256, latent := [], poison := [], wrote := { clock := 0, made := [] }
    lines := (List.range 64).map (fun m => (m, { tag := lineTag loadCrew 0 m, state := .clean, dead := 0#4, data := Vector.replicate 4 (Vector.replicate 32 0#32) })) }

/-- The page tables: a leaf of 128 GiB at level 2 maps the first addresses onto themselves, to be read, written and fetched. -/
def loadTables : List (Nat × Byte) :=
  (leBytes 8 (0x2000 + 1)).zipWith (fun b k => (0x1000 + k, b)) (List.range 8) ++
    (leBytes 8 (2 * 2 ^ 17 + 0x1F)).zipWith (fun b k => (0x2000 + k, b)) (List.range 8)

/-- The memory of a loaded program: the tables, and the instruction's bytes where the fibre fetches. -/
def loadMemory (t : Tab Byte) (n w : Nat) : Tab Byte :=
  (loadTables ++ (leBytes n w).zipWith (fun b k => (loadAddress + k, b)) (List.range n)).foldl (fun u c => putByte u c.1 c.2) t

/-- The package with a loaded program of one instruction of `n` bytes, whose stream acts next. -/
def loadProgram (s : State) (lane : Bool) (n w : Nat) : State :=
  { s with
    agenda := [if lane then .lane 0 else .scalar 0]
    mem := loadMemory s.mem n w
    memLatent := s.memLatent.filter (fun x => x.1 != 0x40 && x.1 != 0x80 && x.1 != loadAddress / 64)
    poison := s.poison.filter (fun q => q != 0x40 && q != 0x80 && q != loadAddress / 64)
    ciphered := s.ciphered.filter (fun x => x.1 != 0x40 && x.1 != 0x80 && x.1 != loadAddress / 64)
    tlb := s.tlb.filter (fun t => t.ctx != 1)
    fibres := put (s.fibres.filter (fun e => bankOfFibre e.1 != 0)) 0 (if lane then loadLaneFibre else loadFibre)
    slots := put s.slots 0 loadSlot
    banks := put s.banks 0 { state := .running, store := [], units := [], latent := [], poison := [], armed := [] }
    crews := put s.crews 0 loadCrew
    cores := put s.cores 0 { side := 0, serial := 1#16, retired := false, keptOut := false, flipWanted := false, staging := false, errors := [] }
    decks := put s.decks 0 { cluster := 0, width := 1, members := [0], barriers := List.replicate 2 { expected := 1, arrived := 0, gen := 0#16 }, ctx := 1 }
    nextSerial := max s.nextSerial 1
    contexts := put s.contexts 1 loadContext
    partitions := put s.partitions 0 { dies := [0], tenant := 0#12, active := true, key := 0 }
    pauses := del s.pauses (2 ^ 24 + 1)
    health := { s.health with stop := false } }

end Sys2Proof.Machine
end

