-- ==== Sys2Proof/Machine/Barriers.lean ====
section
/-! DEFINITION. Crew barriers (R210 to R212, R253) and deck barriers (R262 to R266). -/

namespace Sys2Proof.Machine

/-- An arrival at a barrier with an expected count, or with the one it has (R211, R253, R264): the barrier afterwards, the generation that this
arrival's completion produces, and whether it completed it; none where the count is refused. -/
def Barrier.arrive (b : Barrier) (e : Option Word) (most : Nat) : Option (Barrier × BitVec 16 × Bool) :=
  let n := match e with | some v => v.toNat | none => b.expected
  if (match e with | some v => v.toNat == 0 || decide (most < v.toNat) || (b.arrived != 0 && v.toNat != b.expected) | none => false) then none
  else if n ≤ b.arrived + 1 then some ({ expected := n, arrived := 0, gen := b.gen + 1#16 }, b.gen + 1#16, true)
  else some ({ b with expected := n, arrived := b.arrived + 1 }, b.gen + 1#16, false)

/-- The expected count that an instruction gives: none for Y = 0. -/
def expectedOf (f : Fibre) (y : BitVec 6) : Option Word := if y = 0#6 then none else some (f.readS y)

/-! ### Crew barriers -/

/-- The fibres of a crew that wait at a barrier for a generation that it has reached are released (R211). -/
def releaseCrew (s : State) (bk b : Nat) (gen : BitVec 16) : State :=
  { s with fibres := s.fibres.map (fun x =>
      if bankOfFibre x.1 = bk then
        match x.2.sWait with
        | some (.cbar c g) => if c = b && satisfies gen g then (x.1, { x.2.completeWait with cbarDone := none }) else x
        | _ => x
      else x) }

/-- A barrier of a crew. -/
def crewBarrier (w : Crew) (b : BitVec 3) : Barrier := w.barriers[b.toNat]'b.isLt

/-- The current fibre arrives at a crew barrier: `k` gets the generation it produces, or the instruction traps (R253). -/
def arriveCrew (t : State) (h : Here) (b : BitVec 3) (y : BitVec 6) (k : State → BitVec 16 → State) : State :=
  let bk := bankOfFibre t.cur
  match (crewBarrier h.w b).arrive (expectedOf h.f y) 64 with
  | none => trapScalar (onCur t (fun f => { f with sWait := none, sStall := none })) .cbarCount 0#64
  | some (x, g, done) =>
    let u := k (onCrew t bk (fun w => { w with barriers := w.barriers.set b.toNat x b.isLt })) g
    if done then releaseCrew u bk b.toNat x.gen else u

/-- CBAR (R253): an arrival already made for it stands and is not repeated (R212). -/
def execCbar (sw : Bool) (b : BitVec 3) (y : BitVec 6) (s : State) : Out :=
  unfenced sw [y] s (fun h =>
    match h.f.sWait with
    | some (.cbar _ _) => .next s
    | _ =>
      let t := issueOnce s h.f (h.f.sWait == some (.cbarClauses b.toNat))
      match h.f.cbarDone.filter (fun x => x.1 == h.f.spc && x.2.1 == b.toNat) with
      | some (_, _, g) =>
        if satisfies (crewBarrier h.w b).gen g then .next (onCur t (fun f => { f.completeWait with cbarDone := none }))
        else .next (waitHere t true (.cbar b.toNat g))
      | none =>
        if !h.f.laneOpsDone then .next (waitHere t true (.cbarClauses b.toNat))
        else .next (arriveCrew t h b y (fun u g =>
          waitHere (onCur u (fun f => { f with cbarDone := some (f.spc, b.toNat, g) })) true (.cbar b.toNat g))))

/-- CBARA (R253): the generation is written to D. -/
def execCbara (sw : Bool) (b : BitVec 3) (y z : BitVec 6) (s : State) : Out :=
  unfenced sw [y] s (fun h =>
    let t := issueOnce s h.f (h.f.sWait == some (.cbaraClauses b.toNat))
    if !h.f.laneOpsDone then .next (waitHere t true (.cbaraClauses b.toNat))
    else .next (arriveCrew t h b y (fun u g => onCur u (fun f => (f.writeS z (g.setWidth 64)).completeWait))))

/-- CBARW (R253). -/
def execCbarw (sw : Bool) (b : BitVec 3) (y : BitVec 6) (s : State) : Out :=
  unfenced sw [y] s (fun h =>
    match h.f.sWait with
    | some (.cbar _ _) => .next s
    | _ =>
      let g := h.f.readS y
      if wfld g 16 48 ≠ 0 then trapIssued s h.f .cbarCount
      else
        let t := issueScalar s h.f.spc 1 0
        if satisfies (crewBarrier h.w b).gen (bits g 0 16) then .next (onCur t Fibre.next4)
        else .next (waitHere t true (.cbar b.toNat (bits g 0 16))))

/-! ### Deck barriers -/

/-- The fibres of a deck that wait at a barrier for a generation that it has reached are released (R264, R265). -/
def releaseDeck (s : State) (members : List Nat) (b : Nat) (gen : BitVec 16) : State :=
  { s with fibres := s.fibres.map (fun x =>
      if bankOfFibre x.1 ∈ members then
        match x.2.sWait with
        | some (.dbar c g) => if c = b && satisfies gen g then (x.1, x.2.completeWait) else x
        | _ => x
      else x) }

/-- A deck barrier of a crew's deck; none for a number of 2W or more (R262). -/
def deckBarrier (s : State) (w : Crew) (b : BitVec 4) : Option (Deck × Barrier) :=
  match lookup s.decks w.deck with
  | none => none
  | some d => if b.toNat < 2 * d.width then (d.barriers[b.toNat]?).map (fun x => (d, x)) else none

/-- DBARA (R264). -/
def execDbara (sw : Bool) (b : BitVec 4) (y z : BitVec 6) (s : State) : Out :=
  unfenced sw [y] s (fun h =>
    match deckBarrier s h.w b with
    | none => trapIssued s h.f .deckBarrier
    | some (d, x) =>
      let t := issueOnce s h.f (h.f.sWait == some (.dbaraClauses b.toNat))
      if !h.f.laneOpsDone then .next (waitHere t true (.dbaraClauses b.toNat))
      else
        match x.arrive (expectedOf h.f y) 512 with
        | none => .next (trapScalar (onCur t (fun f => { f with sWait := none, sStall := none })) .deckBarrier 0#64)
        | some (x', g, done) =>
          let u := countCluster { t with decks := put t.decks h.w.deck { d with barriers := d.barriers.set b.toNat x' } } d.cluster 0x07 1
          let v := onCur u (fun f => (f.writeS z (g.setWidth 64)).completeWait)
          .next (if done then releaseDeck (countCluster v d.cluster 0x08 1) d.members b.toNat x'.gen else v))

/-- DBARW (R265). -/
def execDbarw (sw : Bool) (b : BitVec 4) (y : BitVec 6) (s : State) : Out :=
  unfenced sw [y] s (fun h =>
    match h.f.sWait with
    | some (.dbar _ _) => .next s
    | _ =>
      let g := h.f.readS y
      match deckBarrier s h.w b with
      | none => trapIssued s h.f .deckBarrier
      | some (_, x) =>
        if wfld g 16 48 ≠ 0 then trapIssued s h.f .deckBarrier
        else
          let t := issueScalar s h.f.spc 1 0
          if satisfies x.gen (bits g 0 16) then .next (onCur t Fibre.next4)
          else .next (waitHere t true (.dbar b.toNat (bits g 0 16))))

end Sys2Proof.Machine
end

