-- ==== Sys2Proof/Machine/Boot.lean ====
section
/-! DEFINITION. Boot and harbour mode (R369 to R373), and the limits that the hardware enforces (R366 to R368). -/

namespace Sys2Proof.Machine

/-! ### Images (R372) -/

/-- A field of an image. -/
def imageField (l : List Byte) (o n : Nat) : Nat := leNat ((l.drop o).take n)

/-- The version of an image. -/
def imageVersion (l : List Byte) : Nat := imageField l 6 2

/-- The format check of R372. -/
def imageFormatOk (l : List Byte) : Bool :=
  let body := imageField l 8 4
  decide (1024 ≤ l.length) && l.take 4 == [0x53#8, 0x4B#8, 0x50#8, 0x4E#8] && imageField l 4 2 == 1 && body % 16 == 0 && body ≤ 2 ^ 24 &&
    l.length == 1024 + body && decide (imageField l 0xC 4 < body) && ((l.drop 0x310).take 240).all (· == 0#8)

/-- The REASON with which an image is refused, in the order of R372; 0 where it passes. -/
def imageReason (l : List Byte) : Nat :=
  let modulus := (l.drop 0x10).take 384
  if !imageFormatOk l then 1
  else if sha256 modulus ≠ Config.fusedKeyDigest then 2
  else if !pssVerify modulus ((l.drop 0x190).take 384) (sha256 (l.take 0x190 ++ l.drop 1024)) then 2
  else if imageVersion l < Config.fusedMinVersion then 3
  else 0

/-! ### Starts (R369, R370) -/

/-- Memory after a reset: what a byte of device memory holds is not stated; host memory is outside the part. -/
def resetMemory (s : State) : Tab Byte :=
  s.mem.foldl (fun m c => if inDevice c.1 then putByte m c.1 (Config.freeByte s.tick c.1) else m) s.mem

/-- The part after a reset, before the boot ROM has looked at the image: the fuses, the failure count, the image slot and host memory are kept. -/
def clearPart (s : State) : State :=
  let r := State.reset
  { r with
    tick := s.tick, clock := s.clock, time := s.time, reports := s.reports, rangeBase := s.rangeBase, agenda := s.agenda, mem := resetMemory s, keySerial := s.keySerial, nextSerial := s.nextSerial, wire := s.wire, msix := s.msix
    cores := (s.cores.filter (fun c => c.2.keptOut)).map (fun c =>
      (c.1, { side := 0, serial := 0, retired := true, keptOut := true, flipWanted := false, staging := false, errors := [] }))
    keptOutClusters := s.keptOutClusters
    health := { r.health with junction := s.health.junction, stack := s.health.stack, power := s.health.power }
    boot := { s.boot with stage := 1, harbour := false, version := 0#16, start := s.boot.start + 1, running := [] } }

/-- The boot ROM (R369, R370): in the third failed start's harbour mode it starts nothing; else it verifies the image, and Skapin runs, or the start
fails and the part starts again. -/
def bootRom (fuel : Nat) (s : State) : State :=
  match fuel with
  | 0 => s
  | fuel + 1 =>
    let t := clearPart s
    if 3 ≤ s.boot.fails then { t with boot := { t.boot with harbour := true } }
    else
      let reason := imageReason s.boot.image
      if reason = 0 then
        { t with boot := { t.boot with stage := 3, since := s.time, version := BitVec.ofNat 16 (imageVersion s.boot.image), running := s.boot.image } }
      else bootRom fuel { t with boot := { t.boot with fails := s.boot.fails + 1, reason := reason } }

/-- A reset (R369). Four starts at most lie before harbour mode or stage 3. -/
def resetPart (s : State) : State := bootRom 4 s

/-- DEVICE_RESET (R369). -/
def execDeviceReset (s : State) : Out := .next (resetPart s)

/-- POWER_LOSS (R370, R373): the failure count is cleared; a slot that was being written holds an image that fails. The part is off until a
reset. -/
def execPowerLoss (s : State) : Out :=
  let writing := s.mailbox.busy && s.mailbox.running == 2#8 && s.mailbox.finished == some 0#8
  let t := clearPart s
  .next { t with
    boot := { t.boot with fails := 0, reason := 0, image := if writing then [] else s.boot.image } }

/-- A start fails (R369, R370): the part resets itself. -/
def failStart (s : State) (reason : Nat) : State :=
  resetPart { s with boot := { s.boot with fails := min 3 (s.boot.fails + 1), reason := reason } }

/-- MEMORY_TRAINING_DONE (R369, R371). -/
def execMemoryTrainingDone (result : TrainResult) (s : State) : Out :=
  if s.boot.stage ≠ 3 then .next s
  else
    match result with
    | .passed => .next { s with boot := { s.boot with stage := 4 } }
    | .trainingFailed => .next (failStart s 4)
    | .selfTestFailed => .next (failStart s 5)

/-- CXL_LINK_ENABLED (R369, R371). -/
def execCxlLinkEnabled (ok : Bool) (s : State) : Out :=
  if s.boot.stage ≠ 4 then .next s else .next (if ok then { s with boot := { s.boot with stage := 5 } } else failStart s 6)

/-- Whether more than 10 s have passed since stage 3 (R369). -/
def bootLate (s : State) : Bool := 10 ^ 10 < s.time - s.boot.since

/-- BOOT_READY (R369, R370): the start succeeds where the 10 s have not passed. -/
def execBootReady (s : State) : Out :=
  if s.boot.stage ≠ 5 ∨ bootLate s then .next s else .next { s with boot := { s.boot with stage := 6, fails := 0, reason := 0 } }

/-- BOOT_WATCHDOG_EXPIRY (R369, R371): stage 6 has not been reached within 10 s of stage 3. -/
def execBootWatchdogExpiry (s : State) : Out :=
  if 3 ≤ s.boot.stage ∧ s.boot.stage < 6 ∧ !s.boot.harbour ∧ bootLate s then .next (failStart s 7) else .next s

/-! ### Limits (R366 to R368) -/

/-- A temperature in 1/16 °C (R364). -/
def celsius (n : Int) : Int := 16 * n

/-- Whether a limit of R366 asks for a lower clock of a die. Power is in mW. -/
def overLimit (h : Health) (d : Nat) : Bool :=
  decide (h.powerLimit * 1000 ≤ h.power) || decide (celsius h.throttle ≤ h.junction[d]?.getD 0)

/-- A die's clock after one step of throttling: lower by 25 MHz over a limit, else back at the set limit. -/
def throttled (h : Health) (d : Nat) : Nat := if overLimit h d then (h.dieClock[d]?.getD 0) - 25 else h.clockLimit

/-- THROTTLE_STEP (R366, R361): once 10 µs have passed since the last. -/
def execThrottleStep (s : State) : Out :=
  let hot := (List.range 8).any (overLimit s.health)
  if s.time < s.health.stepped + 10000 then .next s
  else .next { s with
    health := { s.health with dieClock := Vector.ofFn (fun d : Fin 8 => throttled s.health d.val), stepped := s.time }
    msix := if hot then 17 :: s.msix else s.msix }

/-- EMERGENCY_STOP (R368): a junction at 115 °C or a stack at 105 °C. -/
def execEmergencyStop (s : State) : Out :=
  if !s.health.stop && (s.health.junction.toList.any (fun t => celsius 115 ≤ t) || s.health.stack.toList.any (fun t => celsius 105 ≤ t)) then
    let t := haltCrews s (fun _ => true)
    .next { t with health := { t.health with stop := true }, msix := 17 :: t.msix }
  else .next s

/-- STACK_OVERHEAT (R366): the refresh of a stack at 95 °C is doubled. -/
def execStackOverheat (stack : Nat) (s : State) : Out :=
  if celsius 95 ≤ s.health.stack[stack]?.getD 0 then
    .next { s with health := { s.health with doubled := if stack ∈ s.health.doubled then s.health.doubled else stack :: s.health.doubled } }
  else .next { s with health := { s.health with doubled := s.health.doubled.filter (· != stack) } }

end Sys2Proof.Machine
end

