-- ==== Sys2Proof/Machine/Code.lean ====
section
/-! DEFINITION. The fetch of code words (R63, R118), and the taking of a clause (R21, R51). -/

namespace Sys2Proof.Machine

/-- The word that a crew first fetched from an address, at the place that it has now. -/
def Crew.fetched (w : Crew) (v : Word) (p : Nat) : Option (List Byte) :=
  (w.code.find? (fun x => x.1 == v.toNat && x.2.1 == p)).map (·.2.2)

/-- The word fetched from an address by a crew: where a store has changed a word fetched since the phase began, the old word or the new one, whole
(R63). -/
def codeWord (s : State) (w : Crew) (fk : Nat) (v : Word) (p : Nat) (now : List Byte) : List Byte :=
  match w.fetched v p with
  | some old => if old ≠ now && old.length == now.length && Config.choice s.tick fk p then old else now
  | none => now

/-- The `n` bytes at `v` fetched by fibre `fk`: the number they hold, or why the fetch fails. -/
def fetch (s0 : State) (fk : Nat) (w : Crew) (env : Env) (v : Word) (n : Nat) : State × Except (Word × Fail) Nat :=
  let s := walkedRange s0 env v n
  match spots s env v n .fetch false with
  | .error x => (s, .error x)
  | .ok l =>
    let r := meetRead (countReserved s l) (bankOfFibre fk) l
    match r.2 with
    | some (i, x) => (r.1, .error (v + BitVec.ofNat 64 i, x))
    | none =>
      let bytes := l.map (fun x => match x.place with | none => some 0#8 | some p => seenByte r.1 p x.page.key)
      match (List.range n).find? (fun i => (bytes.getD i none).isNone) with
      | some i =>
        let x := l.getD i { phys := 0, place := none, page := localPage }
        (tagFailures r.1 x.place.toList x.page.key, .error (v + BitVec.ofNat 64 i, .poison))
      | none =>
        let p := (l.head?.bind (·.place)).getD 0
        let now := bytes.map (fun b => b.getD 0#8)
        let word := codeWord r.1 w fk v p now
        let t := holdSpots (remember r.1 env v) (clusterOfFibre fk) l false
        (if (w.fetched v p).isSome then t else onCrew t (bankOfFibre fk) (fun w => { w with code := (v.toNat, p, now) :: w.code }), .ok (leNat word))

/-- The current fibre's next word cannot be fetched: it is parked, or it traps, or a fault waits for a pending FENCE (R118, R186, R311). -/
def fetchFail (s : State) (f : Fibre) (lane : Bool) (addr : Word) (x : Fail) : State :=
  let after := match f.fetchOf with
    | some (l, level, v) => if l = lane then some (level, v) else none
    | none => none
  let t := onCur s (fun f => { f with fetchOf := none })
  let mask := if lane then f.em else 0#32
  match x with
  | .killed => t
  | .resolvable level kind =>
    if x.waits addr after then
      if f.speculates lane then
        onCur s (fun f => if lane then { f with lStall := some (.fencePending, false) } else { f with sStall := some (.fencePending, false) })
      else park t lane mask addr addr level kind .fetch
    else takeTrap t lane { cause := .memTranslate, addr := addr, mask := mask }
  | _ => takeTrap t lane { cause := x.cause, addr := addr, mask := mask }

/-- A fetch of a stream has succeeded: what a request of it left is forgotten. -/
def fetched (s : State) (lane : Bool) : State :=
  onCur s (fun f => match f.fetchOf with
    | some (l, _, _) => if l = lane then { f with fetchOf := none } else f
    | none => f)

/-- CLAUSE_TAKE (R21, R51): the lane stream of fibre `g` takes the oldest entry and checks its header; then it waits on WAIT, a flag wait that hands the
slot on (R40). A header that breaks R51 traps with `em` as its mask (log 130). -/
def execClauseTake (g : Nat) (s : State) : Out :=
  let t := { s with cur := g, latch := 0#96 }
  match here t with
  | none => .next s
  | some h =>
    match h.f.clauses, h.f.running with
    | c :: _, none =>
      if !laneReady s g h.f then .next s
      else
        match fetch t g h.w h.env c.header 12 with
        | (u, .error (a, x)) => .next (fetchFail u h.f true a x)
        | (u, .ok n) =>
          let word := BitVec.ofNat 96 n
          let v := { fetched u true with latch := word }
          match decodeHeader word with
          | none => .next (takeTrap v true { cause := .illegalInstr, sub := Subcause.header.code, mask := h.f.em })
          | some d =>
            let x := onCur v (fun f => { f with
              running := some { len := d.len, fa := d.fa, fb := d.fb, wait := d.wait, started := false, pos := 1 } })
            .next (if waitDone x g h.f (.flags d.wait) then x else switch x g)
    | _, _ => .next s

end Sys2Proof.Machine
end

