-- ==== Sys2Proof/Machine/Fabric.lean ====
section
/-! DEFINITION. The fabric instructions (R390 to R394, R404, R405, R413 to R415): remote stores, copies, reducing stores and atomics, RFLUSH,
triggered sends, the pattern table and GPAUSE. -/

namespace Sys2Proof.Machine

/-! ### Operations from a group (R390, R391) -/

/-- The registers of a group. -/
def groupRegs (x : BitVec 6) : List (BitVec 6) := [x, x + 1#6, x + 2#6, x + 3#6]

/-- The four words of a group. -/
def groupWords (f : Fibre) (x : BitVec 6) : FabricWords :=
  { w0 := f.readS x, w1 := f.readS (x + 1#6), w2 := f.readS (x + 2#6), w3 := f.readS (x + 3#6) }

/-- The local source of a copy or reduction that leaves a region of R138. -/
def badSource (s : State) (bk kind : Nat) (w : FabricWords) : Bool :=
  (kind == 2 || kind == 3) && localForm w.w2 && (localPlaces s bk (wfld w.w2 0 24) w.count).isNone

/-- The checks of R391 up to the source: the aim of an operation, or the cause. -/
def fabricCheck (s : State) (c : Context) (bk kind red : Nat) (ok : Bool) (w : FabricWords) : Except Cause (List (BitVec 16) × Nat × Nat) :=
  if !ok || !operationOk kind red w then .error .fabricOperand
  else
    match aim c kind w.pat with
    | none => .error .fabricPattern
    | some a => if badSource s bk kind w then .error .scratchRange else .ok a

/-- A fabric instruction that traps at issue, its tolls charged (R116). -/
def trapFabric (s : State) (f : Fibre) (bm : Nat) (c : Cause) : Out := .next (trapScalar (issueScalar s f.spc 1 bm) c 0#64)

/-- An operation of a fibre has been accepted in the instruction form. -/
def sendOp (s : State) (h : Here) (kind red : Nat) (w : FabricWords) (flag dest : Option Nat) (a : List (BitVec 16) × Nat × Nat) : State :=
  addFabricOp s (makeOp { fibre := s.cur, serial := h.w.serial, ctx := h.w.ctx } kind red w false flag dest a)

/-- A store, copy, reduction or atomic in the instruction form (R394): `d` is the destination of an atomic. -/
def fabricOp (kind red : Nat) (sw : Bool) (x : BitVec 6) (fl : BitVec 4) (d : Option (BitVec 6)) (s : State) : Out :=
  longLatency sw fl (groupRegs x) (some .fabric) s (fun h =>
    match lookup s.contexts h.w.ctx with
    | none => .next s
    | some c =>
      let w := groupWords h.f x
      let bm := fabricCharge kind w
      match fabricCheck s c (bankOfFibre s.cur) kind red (wfld w.w0 52 12 == 0) w with
      | .error cause => trapFabric s h.f bm cause
      | .ok a =>
        let t := issueScalar s h.f.spc 1 bm
        match d with
        | none => .next (onCur (sendOp t h kind red w (flagOf fl) none a) (fun f => (f.raise (flagOf fl)).next4))
        | some r =>
          let dest := if r = 0#6 then none else some h.f.nextId
          .next (onCur (sendOp t h kind red w (flagOf fl) dest a) (fun f =>
            ((if r = 0#6 then f else f.pend r none).raise (flagOf fl)).next4)))

/-- RST (R390, R393). -/
def execRst (sw : Bool) (x : BitVec 6) (f : BitVec 4) (s : State) : Out := fabricOp 1 0 sw x f none s
/-- RCPY (R390, R393). -/
def execRcpy (sw : Bool) (x : BitVec 6) (f : BitVec 4) (s : State) : Out := fabricOp 2 0 sw x f none s
/-- RREDF (R400). -/
def execRredf (sw : Bool) (x : BitVec 6) (f : BitVec 4) (s : State) : Out := fabricOp 3 0 sw x f none s
/-- RREDB (R400). -/
def execRredb (sw : Bool) (x : BitVec 6) (f : BitVec 4) (s : State) : Out := fabricOp 3 1 sw x f none s
/-- RREDI (R400). -/
def execRredi (sw : Bool) (x : BitVec 6) (f : BitVec 4) (s : State) : Out := fabricOp 3 2 sw x f none s
/-- RREDX (R400). -/
def execRredx (sw : Bool) (x : BitVec 6) (f : BitVec 4) (s : State) : Out := fabricOp 3 3 sw x f none s
/-- RREDN (R400). -/
def execRredn (sw : Bool) (x : BitVec 6) (f : BitVec 4) (s : State) : Out := fabricOp 3 4 sw x f none s
/-- RAADD (R404). -/
def execRaadd (sw : Bool) (x : BitVec 6) (f : BitVec 4) (z : BitVec 6) (s : State) : Out := fabricOp 4 0 sw x f (some z) s
/-- RASWAP (R404). -/
def execRaswap (sw : Bool) (x : BitVec 6) (f : BitVec 4) (z : BitVec 6) (s : State) : Out := fabricOp 4 1 sw x f (some z) s
/-- RACAS (R404). -/
def execRacas (sw : Bool) (x : BitVec 6) (f : BitVec 4) (z : BitVec 6) (s : State) : Out := fabricOp 4 2 sw x f (some z) s
/-- RAMIN (R404). -/
def execRamin (sw : Bool) (x : BitVec 6) (f : BitVec 4) (z : BitVec 6) (s : State) : Out := fabricOp 4 3 sw x f (some z) s
/-- RAMAX (R404). -/
def execRamax (sw : Bool) (x : BitVec 6) (f : BitVec 4) (z : BitVec 6) (s : State) : Out := fabricOp 4 4 sw x f (some z) s
/-- RAAND (R404). -/
def execRaand (sw : Bool) (x : BitVec 6) (f : BitVec 4) (z : BitVec 6) (s : State) : Out := fabricOp 4 5 sw x f (some z) s
/-- RAOR (R404). -/
def execRaor (sw : Bool) (x : BitVec 6) (f : BitVec 4) (z : BitVec 6) (s : State) : Out := fabricOp 4 6 sw x f (some z) s
/-- RAXOR (R404). -/
def execRaxor (sw : Bool) (x : BitVec 6) (f : BitVec 4) (z : BitVec 6) (s : State) : Out := fabricOp 4 7 sw x f (some z) s

/-! ### RFLUSH (R405) -/

/-- The member values of axis fields as a packet carries them. -/
def wireValues (g : Grid) (l : List (BitVec 16)) : List (List Nat) := (patternValues g { axis := l, control := 0#16 }).getD []

/-- Two member sets that share a member. -/
def meetSets (v w : List (List Nat)) : Bool := (v.zip w).all (fun x => x.1.any (fun a => decide (a ∈ x.2)))

/-- The operations that a RFLUSH of a fibre waits for, on whichever core its crew issued them. -/
def flushWaits (s : State) (g : Grid) (fk : Nat) (v : List (List Nat)) : List Nat :=
  (s.fabricOps.filter (fun o => ownedBy s fk o.2.serial o.2.fibre && meetSets (wireValues g o.2.pattern) v)).map (·.1)

/-- RFLUSHes whose operations have all been placed complete. -/
def settleFlushes (s : State) : State :=
  let live (x : Flush) : Bool := x.waits.any (fun i => (lookup s.fabricOps i).isSome)
  (s.flushes.filter (fun x => !live x)).foldl
    (fun t x => onOwner t x.serial x.fibre (fun f => f.complete x.flag 0#6)) { s with flushes := s.flushes.filter live }

/-- RFLUSH (R405): asynchronous with a flag; without one the fibre waits. -/
def execRflush (sw : Bool) (x : BitVec 6) (fl : BitVec 4) (s : State) : Out :=
  longLatency sw fl [] none s (fun h =>
    match h.f.sWait with
    | some (.rflush n) => .next (if waitDone s s.cur h.f (.rflush n) then onCur s Fibre.completeWait else s)
    | _ =>
      match lookup s.contexts h.w.ctx with
      | none => .next s
      | some c =>
        match patternValues (gridOf c) (patternOf c x.toNat) with
        | none => trapFabric s h.f 0 .fabricPattern
        | some v =>
          let t := issueScalar s h.f.spc 1 0
          let n := t.nextSerial
          let waits := flushWaits s (gridOf c) s.cur v
          let y : Flush := { id := n, fibre := s.cur, serial := h.w.serial, flag := flagOf fl, waits := waits }
          let u := { t with nextSerial := n + 1, flushes := t.flushes ++ [y] }
          match flagOf fl with
          | some _ => .next (settleFlushes (onCur u (fun f => (f.raise (flagOf fl)).next4)))
          | none => if waits.isEmpty then .next (onCur t Fibre.next4) else .next (waitHere u true (.rflush n)))

/-! ### Triggered sends (R413, R414, R423) -/

/-- The queue fields that TSARM allows: QK 1 to 3, QOP for a reduction, no CW and no QFLAG (R423). -/
def armFieldsOk (w : FabricWords) : Bool :=
  let k := armedKind w
  decide (1 ≤ k) && decide (k ≤ 3) && wfld w.w0 52 5 == 0 && (if k = 3 then decide (armedRed w < 5) else armedRed w == 0)

/-- A local landing reference outside every region: R391 refuses it before the checks of R248. -/
def badLanding (s : State) (bk : Nat) (v : Word) : Bool := localForm v && (localPlace s bk (wfld v 0 24)).isNone

/-- TSARM or TSCAN traps at issue, its charge to `bm` made unless it is replayed; no address is in the frame (R391). -/
def trapSend (s : State) (f : Fibre) (bm : Nat) (c : Cause) : Out := .next (trapScalar (issueAccess s f bm) c 0#64)

/-- A landing reference checked as LWAIT checks it (R248), after the check of R391, for an instruction that charges `bm`. -/
def withLanding (h : Here) (v : Word) (bm : Nat) (body : State → Nat → Option Nat → Out) (s0 : State) : Out :=
  let s := if localForm v then s0 else walkedRange s0 h.env v 16
  if badLanding s (bankOfFibre s.cur) v then trapSend s h.f bm .scratchRange
  else
    match resolveLanding s h.env (bankOfFibre s.cur) v .read with
    | .trap c a => .next (trapScalar (issueAccess s h.f bm) c a)
    | .fail a y => .next (rangeFail (issueAccess s h.f bm) h.f .read (a, y))
    | .word p key =>
      match meetRead s (bankOfFibre s.cur) (wordSpots p key) with
      | (t, some (i, y)) => .next (scalarFail (issueAccess t h.f bm) (replayAfter h.f) (v + BitVec.ofNat 64 i) y .read)
      | (t, none) => if (readWord t p key).ok then body t p key else trapSend t h.f bm .lwOperand

/-- TSARM (R413): the send is held by the unit of its landing word, or released at once where GEN already satisfies it. -/
def execTsarm (sw : Bool) (x y : BitVec 6) (fl : BitVec 4) (z : BitVec 6) (s : State) : Out :=
  longLatency sw fl (groupRegs x ++ [y, z]) none s (fun h =>
    match lookup s.contexts h.w.ctx with
    | none => .next s
    | some c =>
      let w := groupWords h.f x
      let kind := armedKind w
      let ok := armFieldsOk w && wfld (h.f.readS z) 16 48 == 0
      let bm := if 1 ≤ kind ∧ kind ≤ 3 then fabricCharge kind w else 0
      match fabricCheck s c (bankOfFibre s.cur) kind (armedRed w) ok w with
      | .error cause => trapSend s h.f bm cause
      | .ok _ =>
        withLanding h (h.f.readS y) bm (fun s p key =>
          let g := bits (h.f.readS z) 0 16
          let a : Armed := { id := s.nextSerial, place := p, gen := g, op := w, ctx := h.w.ctx, fibre := s.cur, serial := h.w.serial, flag := flagOf fl }
          let t := peerWord (issueAccess s h.f bm) (h.f.readS y) .load
          let u := onCur { t with nextSerial := t.nextSerial + 1 } (fun f => (f.raise (flagOf fl)).next4)
          let full : FullUnit := if satisfies (readWord s p key).gen g then .fabric else .landing p
          if full.full s s.cur h.f then .next (stallScalar s sw (.full full))
          else if satisfies (readWord s p key).gen g then .next (actSend u a)
          else .next (setArmed u p (armedAt u p ++ [a]))) s)

/-- TSCAN (R414): every unreleased send of the context on the word is cancelled and counted. -/
def execTscan (sw : Bool) (y d : BitVec 6) (s : State) : Out :=
  unfenced sw [y] s (fun h =>
    withLanding h (h.f.readS y) 0 (fun s p _ =>
      let t := peerWord (issueAccess s h.f 0) (h.f.readS y) .load
      let hit (a : Armed) : Bool := a.place == p && a.ctx == h.w.ctx
      let l := armedAt t p
      let u := (l.filter hit).foldl cancelSend (setArmed t p (l.filter (fun a => !hit a)))
      .next (onCur u (fun f => (f.writeS d (BitVec.ofNat 64 (l.filter hit).length)).next4))) s)

/-! ### The pattern table and GPAUSE (R387, R415) -/

/-- GPSET (R387, R412). -/
def execGpset (sw : Bool) (i y z : BitVec 6) (s : State) : Out :=
  unfenced sw [y, z] s (fun h =>
    let v := h.f.readS z
    if wfld v 32 32 ≠ 0 then trapFabric s h.f 0 .fabricOperand
    else if (controlFields (bits v 16 16)).isNone then trapFabric s h.f 0 .fabricPattern
    else
      let t := issueScalar s h.f.spc 1 0
      let p : Pattern := { axis := (List.range 4).map (fun a => bits (h.f.readS y) (16 * a) 16) ++ [bits v 0 16], control := bits v 16 16 }
      .next (onCur (setPattern t h.w.ctx i.toNat p) Fibre.next4))

/-- GPGET (R387, R390). -/
def execGpget (sw : Bool) (i y z : BitVec 6) (s : State) : Out :=
  unfenced sw [] s (fun h =>
    match lookup s.contexts h.w.ctx with
    | none => .next s
    | some c =>
      let p := patternOf c i.toNat
      let low := (p.axis.getD 4 0#16).toNat + p.control.toNat * 2 ^ 16
      .next (onCur (issueScalar s h.f.spc 1 0) (fun f => ((f.writeS y (patternWord p)).writeS z (BitVec.ofNat 64 low)).next4)))

/-- The pause coordinate of a context's crossing (R381); the only one where the crossing is of one package. -/
def pausePlace (c : Context) : List Nat := match c.member with | some m => five (m.pauseCoord.take m.axes) 0 | none => five [] 0

/-- A gang pause starts here (step 1 of R415); a pause in progress stays as it is. -/
def startPause (s : State) (key stop : Nat) : State :=
  if (lookup s.pauses key).isSome then s
  else
    { transmitReply s (.pause key stop) with
      pauses := put s.pauses key { stop := stop, begun := false, initiator := true, pausedFrom := [], drained := false, switched := false, resuming := false } }

/-- GPAUSE (R415). -/
def execGpause (sw : Bool) (y : BitVec 6) (s : State) : Out :=
  unfenced sw [y] s (fun h =>
    match lookup s.contexts h.w.ctx with
    | none => .next s
    | some c =>
      let v := h.f.readS y
      if wfld v 32 32 ≠ 0 then trapFabric s h.f 0 .fabricOperand
      else if (gridOf c).coord ≠ pausePlace c then trapFabric s h.f 0 .fabricPause
      else .next (onCur (startPause (issueScalar s h.f.spc 1 0) (crossingKey h.w.ctx c) (wfld v 0 32)) Fibre.next4))

end Sys2Proof.Machine
end

