-- ==== Sys2Proof/Machine/Queues.lean ====
section
/-! DEFINITION. QPUSH and QPOP (R26, R141, R142): the copy, fabric and routing command queues, and the result and event queues. -/

namespace Sys2Proof.Machine

/-! ### Fabric commands (R393, R395) -/

/-- The words of a queue after its first whole fabric command: a bad header is one alone, else four words are. -/
def afterCommand (q : List Word) : List Word :=
  match q with
  | [] => []
  | h :: r => if wfld h 60 4 == 0 || decide (3 < wfld h 60 4) then r else r.drop 3

/-- The words of the last command of a queue, which may not be whole; `fuel` bounds the commands. -/
def lastCommand (fuel : Nat) (q : List Word) : List Word :=
  match fuel with
  | 0 => q
  | n + 1 => if fabricWaits q && !(afterCommand q).isEmpty then lastCommand n (afterCommand q) else q

/-- Four words as an operation. -/
def wordsOf (q : List Word) : FabricWords := { w0 := q.getD 0 0#64, w1 := q.getD 1 0#64, w2 := q.getD 2 0#64, w3 := q.getD 3 0#64 }

/-- The kind of a queue-form operation: QK 1 to 3. -/
def queueKind (w : FabricWords) : Nat := wfld w.w0 60 4

/-- What acceptance of a queue-form operation gives: its aim; none where it is malformed or its pattern is refused. -/
def queueAim (c : Context) (w : FabricWords) : Option (List (BitVec 16) × Nat × Nat) :=
  let kind := queueKind w
  if operationOk kind (wfld w.w0 57 3) w && queueFieldsOk w then aim c kind w.pat else none

/-- A word pushed to `q2`: at most 32 of a fibre's words wait; the last word of an operation accepts it (R394, R395). -/
def pushFabric (sw : Bool) (h : Here) (c : Context) (x : Word) (s : State) : State :=
  let q := h.f.q2 ++ [x]
  let cmd := lastCommand 33 q
  let put (f : Fibre) : Fibre := ({ f with q2 := q } : Fibre)
  if 32 ≤ h.f.q2.length then stallScalar s sw (.full .fabricWords)
  else if cmd.length < 4 then onCur (issueScalar s h.f.spc 1 0) (fun f => (put f).next4)
  else
    let w := wordsOf cmd
    match queueAim c w with
    | none => onCur (issueScalar s h.f.spc 1 0) (fun f => (put f).next4)
    | some a =>
      if 16 ≤ fabricOutstanding s s.cur then stallScalar s sw (.full .fabric)
      else if (match queueFlag w with | some k => decide (15 ≤ h.f.flag k) | none => false) then
        stallScalar s sw (.flagFull ((queueFlag w).getD 0))
      else
        let kind := queueKind w
        let t := issueScalar s h.f.spc 1 (fabricCharge kind w)
        let o := makeOp { fibre := s.cur, serial := h.w.serial, ctx := h.w.ctx } kind (wfld w.w0 57 3) w true (queueFlag w) none a
        onCur (addFabricOp t o) (fun f => ((put f).raise (queueFlag w)).next4)

/-! ### The instructions -/

/-- QPUSH (R141). -/
def execQpush (sw : Bool) (q a : BitVec 6) (s : State) : Out :=
  unfenced sw [a] s (fun h =>
    let x := h.f.readS a
    match q.toNat with
    | 0 => .next (pushCopy sw h x s)
    | 2 =>
      match lookup s.contexts h.w.ctx with
      | none => .next s
      | some c => .next (pushFabric sw h c x s)
    | 4 => .next (onCur (issueScalar s h.f.spc 1 0) (fun f => ({ f with q4 := f.q4 ++ [x] } : Fibre).next4))
    | _ => trapIssued s h.f .queueAccess)

/-- A word taken from the head of a queue, or a stall while it is empty. -/
def popWord (sw : Bool) (d : BitVec 6) (n : Nat) (h : Here) (q : List Word) (take : State → State) (s : State) : Out :=
  match q with
  | [] => .next (stallScalar s sw (.queueEmpty n))
  | x :: _ => .next (onCur (take (issueScalar s h.f.spc 1 0)) (fun f => (loadResult d x f).next4))

/-- QPOP (R141); `q6` is the supervisor fibre's (R26). -/
def execQpop (sw : Bool) (d q : BitVec 6) (s : State) : Out :=
  unfenced sw [] s (fun h =>
    match q.toNat with
    | 1 => popWord sw d 1 h h.f.q1 (fun t => onCur t (fun f => { f with q1 := f.q1.drop 1 })) s
    | 3 => popWord sw d 3 h h.f.q3 (fun t => onCur t (fun f => { f with q3 := f.q3.drop 1 })) s
    | 5 => popWord sw d 5 h h.f.q5 (fun t => onCur t (fun f => { f with q5 := f.q5.drop 1 })) s
    | 6 =>
      if isSupervisor h.w s.cur h.f then
        popWord sw d 6 h h.w.notices (fun t => onCrew t (bankOfFibre s.cur) (fun w => { w with notices := w.notices.drop 1 })) s
      else trapIssued s h.f .queueAccess
    | _ => trapIssued s h.f .queueAccess)

end Sys2Proof.Machine
end

