-- ==== Sys2Proof/Machine/FabricEvents.lean ====
section
/-! DEFINITION. Fabric operations on their way (R394 to R410, R432): the taking of queue commands, departure chunk by chunk, replies, and what
arrives at a target. -/

namespace Sys2Proof.Machine

/-! ### Packets (R407, R432) -/

/-- The bytes of a packet: a void chunk carries no payload (R410, R432). -/
def packetSize (p : Packet) : Nat := 48 + (if p.void then 0 else (p.data.length + 15) / 16 * 16)

/-- Whether a port lists a tenant (R408). -/
def portLists (s : State) (i : Nat) (t : BitVec 12) : Bool := match s.ports[i]? with | some p => decide (t ∈ p.window) | none => false

/-- The package is within its time bound (R385). Before the first synchronisation one that has joined no crossing has no error (log 63). -/
def inBounds (s : State) : Bool := s.ptpInBounds || (s.ptp == 0#64 && !s.contexts.any (fun c => c.2.member.isSome))

/-- Whether requests may leave: no emergency stop, the package is within its time bound, and the port is up (R368, R369, R385). -/
def maySend (s : State) : Bool := !s.health.stop && inBounds s && (match s.ports[exitOf s]? with | some p => p.up | none => false)

/-! ### Commands of `q2` (R395) -/

/-- The sender that a fibre is. -/
def senderOf (s : State) (g : Nat) : Option Sender :=
  (lookup s.crews (bankOfFibre g)).map (fun w => { fibre := g, serial := w.serial, ctx := w.ctx })

/-- The operation accepted for the command at the head of `q2`. -/
def acceptedOp (s : State) (o : Sender) (w : FabricWords) : Option Nat :=
  (s.fabricOps.find? (fun x => ownedBy s o.fibre x.2.serial x.2.fibre && x.2.queued && !x.2.taken && x.2.words == w)).map (·.1)

/-- A whole command of kind `qk` at the head of fibre `g`'s `q2` is taken: it goes out, or posts MALFORMED or PATTERN. -/
def takeFabric (qk g : Nat) (s : State) : Out :=
  match lookup s.fibres g, senderOf s g with
  | some f, some o =>
    let w := wordsOf f.q2
    if !fabricWaits f.q2 || queueKind w != qk then .next s
    else
      let t := onFibre s g (fun f => { f with q2 := afterCommand f.q2 })
      if !(operationOk qk (wfld w.w0 57 3) w && queueFieldsOk w) then .next (postSender t o true qk 1 w.gtag 0)
      else
        match acceptedOp s o w with
        | some id => .next { t with fabricOps := alter t.fabricOps id (fun x => { x with taken := true }) }
        | none => .next (postSender t o true qk 13 w.gtag 0)
  | _, _ => .next s

/-- FABRIC_QUEUE_STORE (R395). -/
def execFabricQueueStore (g : Nat) (s : State) : Out := takeFabric 1 g s
/-- FABRIC_QUEUE_COPY (R395). -/
def execFabricQueueCopy (g : Nat) (s : State) : Out := takeFabric 2 g s
/-- FABRIC_QUEUE_REDUCE (R395). -/
def execFabricQueueReduce (g : Nat) (s : State) : Out := takeFabric 3 g s

/-- FABRIC_QUEUE_BAD_KIND (R395): a header with a QK that is not valid is taken alone. -/
def execFabricQueueBadKind (g : Nat) (s : State) : Out :=
  match lookup s.fibres g, senderOf s g with
  | some f, some o =>
    match f.q2 with
    | [] => .next s
    | h :: r =>
      let k := wfld h 60 4
      if k = 0 ∨ 3 < k then .next (postSender (onFibre s g (fun f => { f with q2 := r })) o true k 1 (wfld h 16 16) 0) else .next s
  | _, _ => .next s

/-! ### The end of an operation (R394, R395, R404) -/

/-- A remote value recorded for a result that waits for it. -/
def giveValue (id : Nat) (v : Word) (l : List ScalarPending) : List ScalarPending :=
  l.map (fun p => if p.id = id then { p with value := some v } else p)

/-- A remote value reaches a fibre, and what a pending FENCE would restore, and is written. -/
def Fibre.giveResult (f : Fibre) (id : Nat) (v : Word) : Fibre :=
  let g : Fibre := { f with
    spend := giveValue id v f.spend
    fence := f.fence.map (fun x => { x with checkpoint := { x.checkpoint with spend := giveValue id v x.checkpoint.spend } }) }
  g.arrive id

/-- The sender of an operation. -/
def FabricOp.sender (o : FabricOp) : Sender := { fibre := o.fibre, serial := o.serial, ctx := o.ctx }

/-- An operation is forgotten: every RFLUSH that waited for it alone completes. -/
def dropOp (s : State) (id : Nat) : State := settleFlushes { s with fabricOps := del s.fabricOps id }

/-- An operation whose packets have all left is forgotten once every member has answered for every chunk. -/
def settleOp (s : State) (id : Nat) : State :=
  match lookup s.fabricOps id with
  | some o => if o.left && decide (o.members * o.sent ≤ o.acks.length) then dropOp s id else s
  | none => s

/-- The chunk `k` of an operation has been answered for by `who`. -/
def ackOp (s : State) (id who k : Nat) : State :=
  settleOp { s with fabricOps := alter s.fabricOps id (fun o => if (who, k) ∈ o.acks then o else { o with acks := (who, k) :: o.acks }) } id

/-- A chunk that goes to no target is answered for in place of every member. -/
def ackNone (s : State) (id k members : Nat) : State := (List.range members).foldl (fun t j => ackOp t id (65536 + j) k) s

/-- A remote atomic ends with a value: the register, then the flag (R394, R404). -/
def finishAtomic (s : State) (id : Nat) (o : FabricOp) (v : Word) : State :=
  let t := match o.dest with
    | some d => onOwner s o.serial o.fibre (fun f => f.giveResult d v)
    | none => s
  dropOp (lowerSender t o.sender o.flag) id

/-- Every packet of an operation has left: the flag falls, and the sender's word is posted (R395, R396, R424). DONE tells of a success: every chunk
has left. -/
def leaveOp (s : State) (id : Nat) (o : FabricOp) (stop : Option Nat) : State :=
  let t := lowerSender s o.sender o.flag
  let u := match stop, o.void with
    | some st, _ => postSender t o.sender o.queued o.kind st o.words.gtag o.sent
    | none, some k => postSender t o.sender o.queued o.kind 6 o.words.gtag k
    | none, none => if o.queued && !o.refused && wfld o.words.w0 56 1 == 1 then postSender t o.sender o.queued o.kind 0 o.words.gtag 0 else t
  settleOp { u with fabricOps := put u.fabricOps id { o with left := true, stopped := stop.isSome } } id

/-! ### Departure (R394, R396, R397, R408, R409) -/

/-- What the source of a chunk gives. -/
inductive ChunkSource where
  | bytes (l : List Byte)
  | wait (a : Asked)
  | fail (status : Nat)

/-- The environment in which a sender's source is read: the crew's while it lives, else the context's. -/
def FabricOp.env (o : FabricOp) (s : State) : Option Env :=
  match crewOf s o.serial with
  | some w => envOf s w
  | none => envOfContext s o.ctx

/-- The bytes of an operation in all. -/
def FabricOp.total (o : FabricOp) : Nat := if o.kind = 4 then 0 else o.words.count

/-- The length of the next chunk. -/
def FabricOp.chunkLen (o : FabricOp) : Nat := min 512 (o.total - 512 * o.sent)

/-- A source range read as an asynchronous engine reads it (R231). -/
def readSource (s : State) (bk : Nat) (l : List Spot) : State × ChunkSource :=
  let r := engineRead s bk l
  if allRead r.2 then (r.1, .bytes (r.2.map (fun b => b.getD 0#8))) else (r.1, .fail 5)

/-- The source of the next chunk of a copy or reduction (R396, R427): a local one must lie in the region where the operation's source begins, and of
one in memory a resolvable fault waits for its page. -/
def chunkSource (s : State) (o : FabricOp) : State × ChunkSource :=
  let v := o.words.w2
  let n := o.chunkLen
  if o.kind = 1 ∨ o.kind = 4 then (s, .bytes (leBytes n v.toNat))
  else if !o.data.isEmpty then (s, .bytes o.data)
  else if localForm v then
    match bankOfSerial s o.serial with
    | none => (s, .fail 4)
    | some bk =>
      let a := wfld v 0 24
      let at' := a + 512 * o.sent
      match localSpots s bk at' n with
      | some l => if localRegion at' = localRegion a then readSource (countPeerRange s bk at' .load) bk l else (s, .fail 4)
      | none => (s, .fail 4)
  else
    match o.env s with
    | none => (s, .fail 2)
    | some env =>
      let at' := v + BitVec.ofNat 64 (512 * o.sent)
      let u := walkedRange s env at' n
      match engineSpots u env at' n .read with
      | .error (a, x) =>
        match askPage u (o.core / 128) o.ctx o.asked a x .read with
        | (t, .ok q) => (t, .wait q)
        | (t, .error y) => (t, .fail (copyStatus y))
      | .ok l => readSource (remember u env at') o.bank l

/-- The kind of an operation on the wire. -/
def FabricOp.packetKind (o : FabricOp) : PacketKind :=
  match o.kind with
  | 1 => .store
  | 2 => .copy
  | 3 => .reduce (BitVec.ofNat 3 o.red) (BitVec.ofNat 4 o.words.fmt) (BitVec.ofNat 2 o.words.bop)
  | _ => .atomic (BitVec.ofNat 3 o.red) o.words.w64

/-- The packet of the next chunk (R407), stamped as it leaves. The bytes of a void chunk stand for their count alone. -/
def FabricOp.packet (o : FabricOp) (s : State) (id : Nat) (c : Context) (data : List Byte) (void : Bool) : Packet :=
  { kind := o.packetKind, serial := id, tenant := c.tenant, crossing := BitVec.ofNat 24 (gridOf c).crossing, pattern := o.pattern,
    source := BitVec.ofNat 16 (ownIndex c), contributor := BitVec.ofNat 12 o.contributor, chunk := BitVec.ofNat 24 o.sent,
    gtag := BitVec.ofNat 16 o.words.gtag, stamp := bits s.ptp 0 32, addr := o.remoteAddr + BitVec.ofNat 64 (512 * o.sent),
    lw := o.words.lw, loff := o.words.loff, void := void, data := data, operand := o.words.w2, expected := o.words.w3 }

/-- A chunk leaves, or posts TENANT at once where the port does not list its tenant (R408); after the last the operation has left. -/
def sendChunk (s : State) (id : Nat) (o : FabricOp) (c : Context) (data : List Byte) (void : Bool) : State :=
  let k := o.sent
  let o' : FabricOp := { o with
    sent := k + 1, asked := none, void := if void && o.void.isNone then some k else o.void, left := false }
  let t := { s with fabricOps := put s.fabricOps id o' }
  let refused : FabricOp := { o' with refused := true }
  let go (u : State) : State := if o.kind ≠ 4 ∧ o.chunks ≤ k + 1 then leaveOp u id (lookupD u.fabricOps id o') none else u
  if portLists s (exitOf s) c.tenant then
    let p := o.packet s id c data void
    go (transmit t (exitOf s) (packetSize p) (.packet p))
  else
    let u := postSender { t with fabricOps := put t.fabricOps id refused } o.sender o.queued o.kind 9 o.words.gtag k
    if o.kind = 4 then finishAtomic u id o' 0#64 else go (ackNone u id k o.members)

/-- A gang pause holds the next chunk of an operation (step 2 of R415). -/
def chunkHeld (s : State) (o : FabricOp) (c : Context) : Bool :=
  match lookup s.pauses (crossingKey o.ctx c) with
  | some p => p.begun && decide (p.stop ≤ o.sent)
  | none => false

/-- FABRIC_OPERATION_LEFT (R394): the next chunk of operation `id` leaves; once every packet has left, the flag falls and the sender's word
posts. -/
def execFabricOperationLeft (id : Nat) (s : State) : Out :=
  match lookup s.fabricOps id with
  | none => .next s
  | some o =>
    match lookup s.contexts o.ctx with
    | none => .next s
    | some c =>
      if o.left || !o.taken || decide (o.chunks ≤ o.sent) || !maySend s || chunkHeld s o c || Asked.waiting o.asked then .next s
      else
        match chunkSource s o with
        | (t, .wait a) => .next { t with fabricOps := put t.fabricOps id { o with asked := some a } }
        | (t, .fail st) =>
          if o.kind = 2 then .next (leaveOp t id o (some st))
          else .next (sendChunk t id o c (List.replicate o.chunkLen 0#8) true)
        | (t, .bytes l) => .next (sendChunk t id o c l false)

/-! ### Replies (R399, R404, R406) -/

/-- A routing packet is no longer in flight (R415, log 71). -/
def landFlight (s : State) (id k : Nat) : State := { s with flights := s.flights.filter (fun x => x.2 != (id, k)) }

/-- PLACEMENT_ACKNOWLEDGEMENT (R406): chunk `k` of operation `id` has been placed at package `who`, or a packet of a token has arrived there. -/
def execPlacementAcknowledgement (port id k who : Nat) (s : State) : Out := .next (ackOp (landFlight (receive s port 32) id k) id who k)

/-- FABRIC_REPLY_ARRIVAL (R399): a target's failure posts a word; of an atomic it ends the wait with 0 (R404). A drop by a switch is counted at
this port (R398). -/
def execFabricReplyArrival (port : Nat) (r : Reply) (s : State) : Out :=
  let t0 := landFlight (receive s port 32) r.serial r.chunk.toNat
  let t := if r.bySwitch && r.status == 11#8 then portStat t0 port 6 else t0
  match lookup t.fabricOps r.serial with
  | none => .next t
  | some o =>
    let chunk := if o.kind = 4 then 0 else r.chunk.toNat
    let u := onOwner t o.serial o.fibre (fun f =>
      f.pushQ3 (fabricWord o.queued o.kind false r.status.toNat o.words.gtag r.target.toNat chunk))
    if o.kind = 4 then .next (finishAtomic u r.serial o 0#64) else .next (ackOp u r.serial r.target.toNat r.chunk.toNat)

/-- ATOMIC_VALUE_REPLY (R404): the old value, zero-extended, is written, and the flag falls. -/
def execAtomicValueReply (port id : Nat) (v : Word) (s : State) : Out :=
  let t := receive s port 32
  match lookup t.fabricOps id with
  | none => .next t
  | some o =>
    if o.kind = 4 ∧ 0 < o.sent then .next (finishAtomic t id o (if o.words.w64 then v else (bits v 0 32).setWidth 64)) else .next t

/-- FLIT_RETRY (R406): a flit is retransmitted. -/
def execFlitRetry (port : Nat) (s : State) : Out := .next (portStat s port 2)

/-! ### Arrival at a target (R398 to R402, R407 to R410) -/

/-- The member of a crossing on this package; by its key (R380, R398). -/
def memberOf (s : State) (key : Nat) : Option (Nat × Context) :=
  s.contexts.find? (fun x => crossingKey x.1 x.2 == key)

/-- The member that a packet's crossing names: a crossing of one package is the sender's own. -/
def packetMember (s : State) (crossing : BitVec 24) (serial : Nat) : Option (Nat × Context) :=
  if crossing = 0#24 then (lookup s.fabricOps serial).bind (fun o => memberOf s (2 ^ 24 + o.ctx)) else memberOf s crossing.toNat

/-- The member that a packet reaches: its coordinate lies in the packet's set. -/
def packetTarget (s : State) (p : Packet) : Option (Nat × Context) :=
  match packetMember s p.crossing p.serial with
  | some (n, c) => if isMember (wireValues (gridOf c) p.pattern) (gridOf c).coord then some (n, c) else none
  | none => none

/-- The status, and the counter of STATS, of a request that is dropped as it arrives (R398, R408, R409). -/
def dropped (s : State) (port : Nat) (tenant : BitVec 12) (stamp : BitVec 32) (member : Bool) : Option (Nat × Nat) :=
  if !portLists s port tenant then some (9, 4)
  else if 250000 < (bits s.ptp 0 32 - stamp).toNat then some (10, 5)
  else if !member then some (11, 6)
  else none

/-- The linear index that a reply names: this member's, or a free one where the package holds no member to name. -/
def replyIndex (s : State) (c : Option Context) : BitVec 16 :=
  match c with
  | some c => BitVec.ofNat 16 (ownIndex c)
  | none => BitVec.ofNat 16 (Config.order s.tick)

/-- A failure reply for a packet. -/
def replyFailure (s : State) (p : Packet) (c : Option Context) (status : Nat) : State :=
  transmitReply s (.reply p.source.toNat { serial := p.serial, status := BitVec.ofNat 8 status, target := replyIndex s c, chunk := p.chunk, bySwitch := false })

/-- The status of a failure at a target (R398, R426): a resolvable fault is not resolvable for remote traffic. -/
def remoteStatus (x : Fail) : Nat :=
  match x with
  | .translate | .resolvable _ _ => 7
  | .permit => 8
  | .poison | .ecc | .killed => 5

/-- The bytes that a packet's operation covers at its target. -/
def packetLen (p : Packet) : Nat :=
  match p.kind with
  | .atomic _ w64 => if w64 then 8 else 4
  | _ => p.data.length

/-- Whether a packet updates what it finds: a reduction or an atomic. -/
def packetUpdates (p : Packet) : Bool :=
  match p.kind with
  | .reduce .. | .atomic .. => true
  | _ => false

/-- A bank that no crew holds, as the reader's for accesses from outside. -/
def outside : Nat := 2048

/-- The destination of a packet checked (R398): its spots, or the status. -/
def remoteSpots (s0 : State) (env : Env) (p : Packet) : State × Except Nat (List Spot) :=
  let s := walkedRange s0 env p.addr (packetLen p)
  match engineSpots s env p.addr (packetLen p) .write with
  | .error (_, x) => (s, .error (remoteStatus x))
  | .ok l =>
    if !(packetUpdates p) then (s, .ok l)
    else if l.any (fun x => !inDevice x.phys) then (s, .error 8)
    else
      let r := engineRead s outside l
      if p.void || allRead r.2 then (r.1, .ok l) else (r.1, .error 5)

/-- The landing word of a packet (R393, R398): its place and key, or the status. -/
def remoteWord (s0 : State) (env : Env) (p : Packet) : State × Except Nat (Nat × Option Nat) :=
  let at' := p.addr - BitVec.ofNat 64 (512 * p.chunk.toNat) + sext64 p.loff * 16#64
  let s := walkedRange s0 env at' 16
  match spots s env at' 16 .write false with
  | .error (_, x) => (s, .error (remoteStatus x))
  | .ok l =>
    match l.head? with
    | none => (s, .error 12)
    | some x =>
      if at'.toNat % 16 ≠ 0 ∨ !inDevice x.phys then (s, .error 12)
      else if x.page.collective.isSome then (s, .error 8)
      else
        match meetRead s outside (wordSpots x.phys x.page.key) with
        | (t, some _) => (t, .error 5)
        | (t, none) => (t, if (viewByte t x.phys x.page.key).isNone then .error 5 else .ok (x.phys, x.page.key))

/-- The operation of R293 that a reduction performs. -/
def reduceOp (red bop : Nat) : Nat :=
  match red with
  | 1 => 3 + bop
  | 3 => 2
  | 4 => 1
  | _ => 0

/-- The elements of a reduction applied one at a time, each indivisibly (R294, R401). -/
def reduceInto (s : State) (red fmt bop : Nat) (l : List Spot) (data : List Byte) : State :=
  let w := reduceWidth fmt
  let t := (List.range (data.length / w)).foldl
    (fun t i =>
      let dst := (l.drop (i * w)).take w
      let r := engineRead t outside dst
      let v := nearOp (reduceOp red bop) fmt (readNumber r.2) (leNat ((data.drop (i * w)).take w))
      engineWrite r.1 outside (dst.zip ((leBytes w v).map some))) s
  match l.head? with
  | some x => countController t x.phys 0x87 1
  | none => t

/-- What a STORE, COPY or REDUCE chunk places. -/
def placeChunk (p : Packet) (l : List Spot) (s : State) : State :=
  if p.void then s
  else
    match p.kind with
    | .reduce red fmt bop => reduceInto s red.toNat fmt.toNat bop.toNat l p.data
    | _ => engineWrite s outside (l.zip (p.data.map some))

/-- The contributor that a chunk carries (R402). -/
def packetWho (p : Packet) : Nat := match p.kind with | .reduce .. => p.contributor.toNat | _ => 0

/-- A chunk reaches its member: it is placed and credited, or fails and is credited as void (R398, R399, R402); where its landing word does not resolve
either, nothing is credited (R426). Only what its landing word drops as stale or duplicate is answered by no failure. -/
def landChunk (s : State) (p : Packet) (n : Nat) (c : Context) : State :=
  let ack (t : State) : State := transmitReply t (.ack p.source.toNat p.serial p.chunk.toNat)
  match envOfContext s n with
  | none => replyFailure s p (some c) 11
  | some e =>
    let env : Env := { e with tenant := p.tenant }
    let r := remoteSpots s env p
    if !p.lw then
      match r.2 with
      | .error st => replyFailure r.1 p (some c) st
      | .ok l => ack (placeChunk p l r.1)
    else
      let credit (void : Bool) : Credit := { tag := p.gtag, n := p.data.length, who := some ((packetWho p), p.chunk.toNat), void := void }
      let x := remoteWord r.1 env p
      match r.2, x.2 with
      | .error st, .error _ => replyFailure x.1 p (some c) st
      | .ok _, .error st => replyFailure x.1 p (some c) st
      | .error st, .ok (w, key) =>
        match arrive x.1 w key (credit true) id with
        | (u, .stale) | (u, .duplicate) => ack u
        | (u, _) => replyFailure u p (some c) st
      | .ok l, .ok (w, key) => ack (arrive x.1 w key (credit p.void) (placeChunk p l)).1

/-- A request is dropped at a port, or goes on to its member. -/
def atTarget (port : Nat) (p : Packet) (s : State) (go : State → Nat → Context → State) : Out :=
  let t := receive s port (packetSize p)
  match dropped t port p.tenant p.stamp (packetTarget t p).isSome with
  | some (status, stat) => .next (replyFailure (portStat t port stat) p ((packetMember t p.crossing p.serial).map (·.2)) status)
  | none =>
    match packetTarget t p with
    | some (n, c) => .next (go t n c)
    | none => .next t

/-- FABRIC_CHUNK_ARRIVAL (R398): a STORE or COPY chunk. -/
def execFabricChunkArrival (port : Nat) (p : Packet) (s : State) : Out :=
  match p.kind with
  | .store | .copy => atTarget port p s (fun t n c => landChunk t p n c)
  | _ => .next s

/-- REDUCE_CHUNK_ARRIVAL (R401). -/
def execReduceChunkArrival (port : Nat) (p : Packet) (s : State) : Out :=
  match p.kind with
  | .reduce .. => atTarget port p s (fun t n c => landChunk t p n c)
  | _ => .next s

/-- The operation of a remote atomic (R404). -/
def remoteAtomicOp (op : Nat) : AtomicOp :=
  match op with
  | 0 => .add
  | 1 => .swap
  | 2 => .cas
  | 3 => .min
  | 4 => .max
  | 5 => .and
  | 6 => .or
  | _ => .xor

/-- A remote atomic at its target: one indivisible update whose old value is sent back (R404). -/
def landAtomic (s : State) (p : Packet) (op : Nat) (n : Nat) (c : Context) : State :=
  match envOfContext s n with
  | none => replyFailure s p (some c) 11
  | some e =>
    let r := remoteSpots s { e with tenant := p.tenant } p
    match r.2 with
    | .error st => replyFailure r.1 p (some c) st
    | .ok l =>
      let m := engineRead r.1 outside l
      let old := readNumber m.2
      let t := match (remoteAtomicOp op).apply (8 * (packetLen p)) old p.operand.toNat p.expected.toNat with
        | some v => engineWrite m.1 outside (l.zip ((leBytes (packetLen p) v).map some))
        | none => m.1
      transmitReply t (.value p.source.toNat p.serial (BitVec.ofNat 64 old))

/-- REMOTE_ATOMIC_ARRIVAL (R404). -/
def execRemoteAtomicArrival (port : Nat) (p : Packet) (s : State) : Out :=
  match p.kind with
  | .atomic op _ => atTarget port p s (fun t n c => landAtomic t p op.toNat n c)
  | _ => .next s

end Sys2Proof.Machine
end

