-- ==== Sys2Proof/Machine/Crossing.lean ====
section
/-! DEFINITION. Crossings (R380 to R382, R385, R415, R416): FABRIC_CONFIG, the control messages, gang pauses and time; and the form of a
mailbox command (R362 to R364). -/

namespace Sys2Proof.Machine

/-! ### Mailbox requests (R364) -/

/-- The bytes of a request field. -/
def reqBytes (s : State) (o n : Nat) : List Byte := bytesOf s.mailbox.request o n

/-- A request field as a number. -/
def req (s : State) (o n : Nat) : Nat := numberOf s.mailbox.request o n

/-- Every non-zero byte of the request lies in a field, given as offset and size. -/
def reqOnly (s : State) (l : List (Nat × Nat)) : Bool :=
  s.mailbox.request.all (fun c => l.any (fun r => decide (r.1 ≤ c.1) && decide (c.1 < r.1 + r.2)))

/-- A command that is running: HARBOUR where it is not available, INVALID where a byte outside its fields is not zero (R363, R364). -/
def command (s : State) (code : Nat) (harbour : Bool) (fields : List (Nat × Nat)) (go : State → State) : Out :=
  if !s.mailbox.busy || s.mailbox.finished.isSome || s.mailbox.running.toNat != code then .next s
  else if s.boot.harbour && !harbour then .next (respond s 3 [])
  else if !reqOnly s fields then .next (respond s 1 [])
  else .next (go s)

/-- A cause in byte 0: STATUS 0 where it is 0, else STATUS 2 (R364). -/
def respondCause (s : State) (cause : Nat) : State := respond s (if cause = 0 then 0 else 2) [BitVec.ofNat 8 cause]

/-- A FABRIC_CONFIG command (R381): a subcommand that the table does not list gives INVALID. -/
def fabricConfig (sub : Nat) (fields : List (Nat × Nat)) (go : State → State) (s : State) : Out :=
  let n := req s 0 1
  if n = sub then command s 9 false ((0, 1) :: fields) go
  else if n = 0 ∨ 5 < n then command s 9 false [(0, 0x1000)] (fun t => respondCause t 6)
  else .next s

/-! ### Joining (R381, R382) -/

/-- A JOINED at the coordinator (step 2 of R382), from port `port`: recorded, or discarded and refused; READY goes out once the grid is full. -/
def recordJoined (s : State) (port : Option Nat) (own : Membership) (m : Joined) : State :=
  let d := lookupD s.coordinators m.crossing { recorded := [] }
  let clash := d.recorded.any (fun x => x.1 == m.coord && x.2 != m.identity)
  if m.axes ≠ own.axes ∨ m.extents ≠ own.extents ∨ clash then
    transmitReply (match port with | some i => portStat s i 7 | none => s) (.refused m.crossing m.identity)
  else
    let l := if (m.coord, m.identity) ∈ d.recorded then d.recorded else d.recorded ++ [(m.coord, m.identity)]
    let t := { s with coordinators := put s.coordinators m.crossing { recorded := l } }
    if l.length = own.extents.foldl (· * ·) 1 then transmitReply t (.ready m.crossing) else t

/-- The JOINED of a member. -/
def Membership.joined (m : Membership) : Joined :=
  { crossing := m.crossing, axes := m.axes, extents := m.extents, coord := m.coord, identity := Config.identity }

/-- The cause that refuses a JOIN (R381); 0 where it is accepted. -/
def joinCause (s : State) (id n axes : Nat) (extents coord pause : List Nat) : Nat :=
  let declared := (List.range 5).map (fun a => decide (a < axes))
  let outside (l : List Nat) : Bool := ((l.zip extents).zip declared).any (fun x => if x.2 then decide (x.1.2 ≤ x.1.1) else x.1.1 != 0)
  if axes = 0 ∨ 5 < axes then 1
  else if 65536 < (extents.take axes).foldl (· * ·) 1 then 2
  else if outside coord || outside pause || (extents.drop axes).any (· != 1) then 3
  else
    match lookup s.contexts n with
    | none => 4
    | some c =>
      if busyContext s n then 4
      else if c.member.isSome || (memberOf s id).isSome || id == 0 || decide (0xFF_FFFF < id) then 5
      else 0

/-- FABRIC_CONFIG_JOIN (R381): the context becomes a member, and its package tells the coordinator. -/
def execFabricConfigJoin (s : State) : Out :=
  fabricConfig 1 [(4, 4), (8, 4), (0x0C, 1), (0x10, 5), (0x18, 5), (0x20, 5)] (fun s =>
    let id := req s 4 4
    let n := req s 8 4
    let axes := req s 0x0C 1
    let extents := (reqBytes s 0x10 5).map (fun b => b.toNat + 1)
    let coord := (reqBytes s 0x18 5).map (·.toNat)
    let pause := (reqBytes s 0x20 5).map (·.toNat)
    let cause := joinCause s id n axes extents coord pause
    if cause ≠ 0 then respondCause s cause
    else
      let m : Membership := { crossing := id, axes := axes, extents := extents, coord := coord, pauseCoord := pause, ready := false }
      let t := respondCause { s with contexts := alter s.contexts n (fun c => { c with member := some m }) } 0
      if coord = pause then
        let u := { t with heldJoined := t.heldJoined.filter (fun x => x.2.crossing != id) }
        (s.heldJoined.filter (fun x => x.2.crossing == id)).foldl (fun u x => recordJoined u (some x.1) m x.2) (recordJoined u none m m.joined)
      else transmitReply t (.joined m.joined)) s

/-- JOINED_MESSAGE (R382): held while this package has not joined the crossing. -/
def execJoinedMessage (port : Nat) (m : Joined) (s : State) : Out :=
  let t := receive s port 32
  match (memberOf t m.crossing).bind (fun x => x.2.member) with
  | some own => .next (recordJoined t (some port) own m)
  | none => .next { t with heldJoined := t.heldJoined ++ [(port, m)] }

/-- The held records of a context enter their queues in order (step 4 of R382). -/
def releaseHeld (s : State) (n : Nat) : State :=
  let mine (q : Queued) : Bool := q.held && q.ctx == n
  (s.queue.filter mine).foldl (fun t q => enqueue t n q.record q.joinLink q.carve q.relaunches) { s with queue := s.queue.filter (fun q => !mine q) }

/-- READY_MESSAGE (R382). -/
def execReadyMessage (port crossing : Nat) (s0 : State) : Out :=
  let s := receive s0 port 32
  match memberOf s crossing with
  | some (n, c) =>
    if c.member.isNone then .next s
    else
      let t := { s with contexts := alter s.contexts n (fun c => { c with member := c.member.map (fun m => { m with ready := true }) }) }
      .next (settleSailing (releaseHeld t n) n)
  | none => .next s

/-- REFUSED_MESSAGE (R382): the membership ends, and the sailing never becomes ready. -/
def execRefusedMessage (port crossing : Nat) (s0 : State) : Out :=
  let s := receive s0 port 32
  match memberOf s crossing with
  | some (n, c) =>
    if c.member.isNone then .next s
    else .next { s with contexts := alter s.contexts n (fun c => { c with member := none, refused := true }) }
  | none => .next s

/-! ### Windows and counters (R381, R408) -/

/-- FABRIC_CONFIG_WINDOW (R408). -/
def execFabricConfigWindow (s : State) : Out :=
  fabricConfig 2 [(1, 1), (2, 1), (4, 32)] (fun s =>
    let port := req s 1 1
    let count := req s 2 1
    let tenants := (List.range 16).map (fun i => req s (4 + 2 * i) 2)
    if 15 < port ∨ 16 < count ∨ tenants.any (fun t => decide (4096 ≤ t)) then respondCause s 6
    else respondCause (onPort s port (fun p => { p with window := (tenants.take count).map (BitVec.ofNat 12) })) 0) s

/-- FABRIC_CONFIG_STATS (R381). -/
def execFabricConfigStats (s : State) : Out :=
  fabricConfig 5 [(1, 1)] (fun s =>
    match s.ports[req s 1 1]? with
    | none => respondCause s 6
    | some p => respond s 0 (List.replicate 8 0#8 ++ p.stats.toList.flatMap (fun v => leBytes 8 v.toNat))) s

/-! ### Gang pause (R415, R416) -/

/-- The member of a crossing that a JOIN has declared: its id lies from 1 to 0xFF_FFFF (R381). -/
def joinedMember (s : State) (id : Nat) : Option (Nat × Context) := if id = 0 ∨ 0xFF_FFFF < id then none else memberOf s id

/-- FABRIC_CONFIG_PAUSE (R381): as GPAUSE at the pause coordinate. -/
def execFabricConfigPause (s : State) : Out :=
  fabricConfig 3 [(4, 4), (8, 4)] (fun s =>
    match joinedMember s (req s 4 4) with
    | some _ => respondCause (startPause s (req s 4 4) (req s 8 4)) 0
    | none => respondCause s 6) s

/-- FABRIC_CONFIG_RESUME (R416): RESUME goes to every member. -/
def execFabricConfigResume (s : State) : Out :=
  fabricConfig 4 [(4, 4)] (fun s =>
    match joinedMember s (req s 4 4) with
    | some _ => respondCause (transmitReply s (.resume (req s 4 4))) 0
    | none => respondCause s 6) s

/-- PAUSE_MESSAGE (step 2 of R415): the member's crews are halted, and its chunks held from `stop` on. -/
def execPauseMessage (port crossing stop : Nat) (s0 : State) : Out :=
  let s := receive s0 port 32
  match memberOf s crossing with
  | none => .next s
  | some (n, _) =>
    let p := lookupD s.pauses crossing { stop := stop, begun := false, initiator := false, pausedFrom := [], drained := false, switched := false, resuming := false }
    if p.begun then .next s
    else
      let t := haltCrews s (fun w => w.ctx == n)
      .next { t with pauses := put t.pauses crossing { p with begun := true, stop := stop } }

/-- Whether an operation has sent all that a pause lets it send, and all of it has been answered for. -/
def quiet (o : FabricOp) (stop : Nat) : Bool :=
  decide (min o.chunks stop ≤ o.sent || o.stopped) && decide (o.members * o.sent ≤ o.acks.length)

/-- PAUSE_DRAINED (step 3 of R415): no packet of the crossing is in flight, a routing engine's among them (log 71). -/
def execPauseDrained (crossing : Nat) (s : State) : Out :=
  match memberOf s crossing, lookup s.pauses crossing with
  | some (n, _), some p =>
    let mine := s.fabricOps.filter (fun o => o.2.ctx == n)
    if !p.begun || p.drained || !mine.all (fun o => quiet o.2 p.stop) || s.flights.any (fun x => x.1 == n) then .next s
    else
      let highest := mine.foldl (fun m o => max m (o.2.sent - 1)) 0
      .next (transmitReply { s with pauses := put s.pauses crossing { p with drained := true } } (.paused crossing highest))
  | _, _ => .next s

/-- PAUSED_MESSAGE (step 4 of R415): the initiator sends SWITCH after every member. -/
def execPausedMessage (port crossing source _highest : Nat) (s0 : State) : Out :=
  let s := receive s0 port 32
  match memberOf s crossing, lookup s.pauses crossing with
  | some (_, c), some p =>
    if !p.initiator || decide (source ∈ p.pausedFrom) then .next s
    else
      let l := source :: p.pausedFrom
      let t := { s with pauses := put s.pauses crossing { p with pausedFrom := l } }
      .next (if l.length = (gridOf c).extents.foldl (· * ·) 1 then transmitReply t (.switch crossing) else t)
  | _, _ => .next s

/-- SWITCH_MESSAGE (step 5 of R415): to the standby partition of the member's dies, where one is configured. -/
def execSwitchMessage (port crossing : Nat) (s0 : State) : Out :=
  let s := receive s0 port 32
  match memberOf s crossing, lookup s.pauses crossing with
  | some (_, c), some p =>
    if !p.begun || p.switched then .next s
    else
      match partnerOf s c.partition with
      | some q => .next { beginSwitch s q with pauses := put s.pauses crossing { p with switched := true } }
      | none => .next s
  | _, _ => .next s

/-- RESUME_MESSAGE (R416): a member that switched switches back; then its crews, chunks and closes go on. -/
def execResumeMessage (port crossing : Nat) (s0 : State) : Out :=
  let s := receive s0 port 32
  match memberOf s crossing, lookup s.pauses crossing with
  | some (n, c), some p =>
    if p.resuming then .next s
    else
      let t := { s with pauses := put s.pauses crossing { p with resuming := true } }
      .next (settleResume (if p.switched then beginSwitch t c.partition else t) crossing n)
  | _, _ => .next s

/-! ### Time and ports (R369, R385) -/

/-- PTP_MESSAGE (R385). -/
def execPtpMessage (port : Nat) (time : Word) (ok : Bool) (s : State) : Out := .next { receive s port 32 with ptp := time, ptpInBounds := ok }

/-- FABRIC_PORT_TRAINING (R369): a port comes up, or stays down and is reported. -/
def execFabricPortTraining (port : Nat) (ok : Bool) (s : State) : Out :=
  let t := onPort s port (fun p => { p with up := ok })
  .next (if ok then t else { t with reports := .port port :: t.reports })

end Sys2Proof.Machine
end

