-- ==== Sys2Proof/Machine/Draining.lean ====
section
/-! DEFINITION. The end of draining and of a deck (R219, R255, R330 to R332, R341 to R343), and the bank transfer engine (R348). -/

namespace Sys2Proof.Machine

/-! ### Draining -/

/-- Whether a crew has drained (R332): commands complete, remote operations gone, results written; a crew that has not been stopped short also has
no whole command left in its queues. -/
def drainDone (s : State) (bk : Nat) (w : Crew) : Bool :=
  (fibresOf s bk).all (fun e => e.2.spend.isEmpty && e.2.lpend.isEmpty &&
    (w.saved || w.ending == some .killed || w.ending == some .lost || (!fabricWaits e.2.q2 && !routingWaits e.2.q4))) &&
  !s.engines.any (fun e => e.2.serial == w.serial) && !s.fabricOps.any (fun o => o.2.serial == w.serial && !o.2.left) &&
  !s.tokens.any (fun t => t.2.serial == w.serial)

/-- The image to which the bank transfer engine has moved the crew of a bank (R348). -/
def imageOf (s : State) (bk : Nat) : Option Saved := (s.saved.find? (fun x => x.2.home == some bk)).map (·.2)

/-- The members of a deck with their crews, on a core or in an image. -/
def memberCrews (s : State) (d : Deck) : List (Nat × Crew) :=
  d.members.filterMap (fun k => match lookup s.crews k with
    | some w => some (k, w)
    | none => (imageOf s k).map (fun v => (k, v.crew)))

/-- The fibres of a member. -/
def memberFibres (s : State) (bk : Nat) : List (Nat × Fibre) := match imageOf s bk with | some v => v.fibres | none => fibresOf s bk

/-- A slot's poisoned and failing units go with the crew that a member was: the core scrubs them (R219). -/
def scrubSlots (s : State) (bk : Nat) : State :=
  { s with slots := s.slots.map (fun e => if bankOfSlot e.1 = bk then (e.1, { e.2 with latent := [], poison := [] }) else e) }

/-- A member leaves its bank: the bank is Empty and its units are scrubbed, its crew and fibres are gone, and the image that held it; its lines stay
only with a save. -/
def releaseMember (keepLines : Bool) (s : State) (m : Nat × Crew) : State :=
  let t := dropSends s m.1 0
  let x := if keepLines then t else scrubSlots (dropLines t m.1 m.2) m.1
  let u := if (imageOf x m.1).isSome then
      onCore { x with saved := x.saved.filter (fun y => y.2.home != some m.1) } (m.1 % 1024) (fun c => { c with staging := false })
    else x
  { onBank u m.1 (fun b => { b with state := .empty, store := [], units := [], latent := [], poison := [], armed := [] }) with
    crews := del u.crews m.1
    fibres := u.fibres.filter (fun e => bankOfFibre e.1 != m.1)
    flushes := u.flushes.filter (fun x => x.serial != m.2.serial) }

/-- A deck is gone. -/
def closeDeck (keepLines : Bool) (s : State) (id : Nat) (l : List (Nat × Crew)) : State :=
  l.foldl (releaseMember keepLines) { s with decks := del s.decks id }

/-! ### Yields and phase ends -/

/-- The image of a member of a saved deck is final; a member that had ended or arrived elsewhere is saved with it (R255). -/
def finishSaved (s : State) (m : Nat × Crew) : State :=
  if m.2.saved then
    let full := match lookup s.saved (areaId m.2) with | some v => v.full | none => true
    { s with saved := put s.saved (areaId m.2) (savedEntry s m.1 m.2 full none) }
  else
    let t := saveImage s m.1 m.2 true
    { t with saved := put t.saved (areaId m.2) (savedEntry t m.1 { m.2 with saved := true } true none) }

/-- The record of a deck's next admission: kind 1 PHASE or 2 RESUME, naming the first save area (R322). -/
def nextRecord (w : Crew) (kind : Nat) (w0 w1 : Word) : Record :=
  { w.record with w0 := w0, w1 := w1, w2 := recordWord2 w.record.w2 kind (w.area - w.index) }

/-- The number in its berth that a role and index has in the next phase. -/
def canonicalNumber (b : LaunchBlock) (role index : Nat) : Nat :=
  ((berthFibres b).findIdx? (fun x => x.1 == role && x.2.1 == index)).getD 0

/-- Whether a block carries anything through a phase end. -/
def carriesAny (b : LaunchBlock) : Bool := b.roles.any (fun r => r.scalarCarry >>> 1 != 0#64 || r.laneCarry != 0#256)

/-- A member's carry set is kept for the next phase (R342, R349). -/
def carryMember (frame : Word) (s : State) (m : Nat × Crew) : State :=
  let w := m.2
  let t := carryCrew s m.1 w frame
  let u := evictLines (writeRecords t m.1 w (fun _ f => if f.ended || f.frozen then none else some (canonicalNumber w.block f.role f.index))) m.1 w
  let sealed := w.own.prot && carriesAny w.block
  let v := if sealed then sealArea u m.1 w else if w.own.prot then dropLines u m.1 w else u
  { v with saved := put v.saved (areaId w) { savedEntry v m.1 { w with saved := sealed } false none with armed := [], barriers := [] } }

/-! ### The end of a deck -/

/-- The frames of the members' save areas. -/
def memberFrames (l : List (Nat × Crew)) : List (List Nat) := l.map (·.2.frames)

/-- An abnormal end. -/
def endDeck (s : State) (id : Nat) (l : List (Nat × Crew)) (m : Nat × Crew) (status : Nat) : State :=
  let a0 := m.2.area - m.2.index
  let t := freeAreas (closeDeck false s id l) m.2.ctx a0 l.length (memberFrames l)
  endAbnormal t m.2.ctx m.2.own m.2.record m.2.joinLink status (m.1 % 1024)

/-- A relaunch (R219): the record that began the phase is queued again. A PHASE keeps its areas. -/
def relaunchDeck (s : State) (id : Nat) (l : List (Nat × Crew)) (m : Nat × Crew) : State :=
  let a0 := m.2.area - m.2.index
  let keep (t : State) (x : Nat × Crew) : State :=
    if (match lookup t.saved (areaId x.2) with | some v => v.home.isNone | none => false) && !x.2.saved then t
    else { t with saved := put t.saved (areaId x.2) { savedEntry t x.1 { x.2 with saved := false } false none with
      fibres := (memberFibres t x.1).map (fun e => (e.1, { e.2 with ended := false, frozen := false })), armed := [], barriers := [] } }
  let t := if m.2.record.kind = 1 then closeDeck false (l.foldl keep s) id l else freeAreas (closeDeck false s id l) m.2.ctx a0 l.length (memberFrames l)
  enqueue t m.2.ctx m.2.record m.2.joinLink m.2.carve (m.2.relaunches + 1)

/-- A deck whose members have all drained ends (R255, R331). -/
def finishDeck (s : State) (id : Nat) (l : List (Nat × Crew)) (m : Nat × Crew) : State :=
  let w := m.2
  let n := w.ctx
  let a0 := w.area - w.index
  let has (e : CrewEnd) : Bool := l.any (fun x => x.2.ending == some e)
  let phase := l.findSome? (fun x => match x.2.ending with | some (.phase a b) => some (a, b) | _ => none)
  let join := l.findSome? (fun x => match x.2.ending with | some (.join a) => some ({ addr := a, view := x.2.view } : Link) | _ => none)
  if has .lost then endDeck s id l m 5
  else if has .killed then (if w.block.idempotent && w.relaunches < 3 then relaunchDeck s id l m else endDeck s id l m 2)
  else if has .faulted then endDeck s id l m 1
  else if has .resume then
    let t := l.foldl finishSaved s
    enqueue (closeDeck true (l.foldl (fun u x => onBank u x.1 (fun b => { b with armed := [] })) t) id l) n
      (nextRecord w 2 w.record.w0 w.record.w1) w.joinLink (0#32, 0#32) w.relaunches
  else
    match phase, join with
    | some (x, y), _ =>
      enqueue (closeDeck true (l.foldl (carryMember y) s) id l) n (nextRecord w 1 x y) w.joinLink (0#32, 0#32) 0
    | none, some x => joinAfter (freeAreas (closeDeck false s id l) n a0 l.length (memberFrames l)) n x w.joinLink
    | none, none => childEnd 64 (freeAreas (closeDeck false s id l) n a0 l.length (memberFrames l)) n w.joinLink false

/-- DRAIN_COMPLETE (R255, R331, R332): every member of a deck has ended, yielded or been killed, and has drained. -/
def execDrainComplete (deck : Nat) (s : State) : Out :=
  match lookup s.decks deck with
  | none => .next s
  | some d =>
    let l := memberCrews s d
    match l with
    | [] => .next s
    | m :: _ =>
      if l.length == d.members.length && l.all (fun x => x.2.ending.isSome && x.2.state == .draining && drainDone s x.1 x.2) then
        .next (settleSailing (finishDeck s deck l m) m.2.ctx)
      else .next s

/-! ### The bank transfer engine (R348) -/

/-- A halted crew of a standby bank goes to its context image, its dirty lines with it (R31, R348). -/
def storeBank (s : State) (bk : Nat) (w : Crew) : State :=
  let t0 := saveImage s bk w true
  let t := if w.own.prot then t0 else cleanLines t0 bk w
  let u := { t with saved := put t.saved (areaId w) (savedEntry t bk ((lookup t.crews bk).getD w) true (some bk)) }
  let v := onBank u bk (fun b => { b with state := .empty, store := [], units := [], latent := [], poison := [], armed := [] })
  onCore { v with crews := del v.crews bk, fibres := v.fibres.filter (fun e => bankOfFibre e.1 != bk) } (bk % 1024) (fun c => { c with staging := true })

/-- The sealed image of a crew that comes back, opened into its save area; the status of its refusal where it is refused (R350). -/
def openImage (s : State) (v : Saved) : Except Nat State :=
  if !v.crew.own.prot then .ok s
  else
    match unsealSlot s v.crew.ctx v.crew.own (envOf s v.crew) v.crew.area v.crew with
    | .error e => .error e
    | .ok plain => .ok (write s (areaKey s v.crew) ((sealPlaces v.crew).zip plain))

/-- A crew comes back to its bank as Halted, with all its state (R348). -/
def loadBank (s : State) (bk : Nat) (v : Saved) : State :=
  let w := v.crew
  let t := { openBank s bk with crews := put (openBank s bk).crews bk w, saved := del s.saved (areaId w) }
  let t1 := openSlots (reclaimLines t w bk) bk w
  let t4 := restoreFibres restoreFibre (restoreStores t1 bk w) bk w v.fibres
  onCore (onBank t4 bk (fun b => { b with state := .halted, armed := v.armed })) (bk % 1024) (fun c => { c with staging := false })

/-- The deck of a crew whose image is refused ends (R350). -/
def refuseImage (s : State) (bk : Nat) (v : Saved) (status : Nat) : State :=
  let t := countPackage { s with saved := del s.saved (areaId v.crew) } 0x07 1
  let l := match lookup t.decks v.crew.deck with | some d => memberCrews t d | none => []
  let u := freeAreas (closeDeck false t v.crew.deck l) v.crew.ctx (v.crew.area - v.crew.index) v.crew.record.width (v.crew.frames :: memberFrames l)
  onCore (settleSailing (endAbnormal u v.crew.ctx v.crew.own v.crew.record v.crew.joinLink status (bk % 1024)) v.crew.ctx) (bk % 1024) (fun c => { c with staging := false })

/-- BANK_TRANSFER (R348): the standby bank of core `g` has been written to a context image, or refilled from it. -/
def execBankTransfer (g : Nat) (s : State) : Out :=
  let bk := (1 - (coreOf s g).side) * 1024 + g
  match lookup s.crews bk with
  | some w =>
    if (bankOf s bk).state == .halted && saveReady s bk w && !s.engines.any (fun e => e.2.bank == bk) then .next (storeBank s bk w) else .next s
  | none =>
    match s.saved.find? (fun x => x.2.home == some bk) with
    | none => .next s
    | some (_, v) =>
      match openImage s v with
      | .ok t => .next (loadBank t bk v)
      | .error e => .next (refuseImage s bk v e)

/-! ### Scrubbers (R217, R295) -/

/-- The blocks of 4 KiB of a bank in which a unit is newly poisoned are noted as errors of its core (R220). -/
def noteBlocks (s : State) (g : Nat) (blocks : List Nat) : State := (distinct blocks).foldl (fun t b => noteError t g b) s

/-- One bank of a core scrubbed. -/
def scrubBank (s : State) (bk : Nat) : State :=
  let b := bankOf s bk
  let t := b.latent.foldl (fun u x => meetOne u (bankPlace bk (8 * x.1))) s
  noteBlocks t (bk % 1024) (((bankOf t bk).poison.filter (fun u => !decide (u ∈ b.poison))).map (fun u => bk / 1024 * 1024 + u / 512))

/-- The register lines of a slot scrubbed. -/
def scrubSlot (s : State) (sk : Nat) : State :=
  let sl := slotOf s sk
  let t := sl.latent.foldl (fun u x => meetUnit sk u x.1) s
  noteBlocks t (coreOfSlot sk) (((slotOf t sk).poison.filter (fun u => !decide (u ∈ sl.poison))).map (regBlock sk))

/-- CORE_SCRUB (R217): every unit of both banks of core `g` is read: single errors are corrected, others poisoned. -/
def execCoreScrub (g : Nat) (s : State) : Out :=
  let slots := [0, 1].flatMap (fun side => (List.range 16).map (fun j => side * 16384 + g % 1024 * 16 + j))
  .next (slots.foldl scrubSlot (scrubBank (scrubBank s (g % 1024)) (1024 + g % 1024)))

/-- MEMORY_PATROL_SCRUB (R295): the patrol scrubber reads a sector of device memory. -/
def execMemoryPatrolScrub (sector : Nat) (s : State) : Out := .next (if inDevice (sector * 64) then meetOne s (sector * 64) else s)

end Sys2Proof.Machine
end

