-- ==== Sys2Proof/Machine/EngineEvents.lean ====
section
/-! DEFINITION. The completion of tile, matrix and accumulator instructions, PUBLISH and LAUNCHI. -/

namespace Sys2Proof.Machine

/-- ENGINE_INSTRUCTION_COMPLETE (R225): an outstanding tile, matrix or accumulator instruction does its work, and the flag falls; a
PUBLISH completes once its pages are exchanged, a LAUNCHI once the scheduler has accepted it (R344). -/
def execEngineInstructionComplete (id : Nat) (s : State) : Out :=
  match lookup s.engines id with
  | none => .next s
  | some e =>
    if mustWait s id e then .next s
    else
      .next (match e.op with
        | .publish _ _ exchanged => if exchanged then finishEngine s id e 0#6 else s
        | .launch l => acceptLaunch s id e l
        | .cache .. | .tlbInvalidate .. | .swap .. | .nred .. | .copy .. => s
        | _ =>
          let r := e.effect s id
          finishEngine r.1 id e r.2)

end Sys2Proof.Machine
end

