-- ==== Sys2Proof/Machine/LaneCross.lean ====
section
/-! DEFINITION. Compares, predicates and the execution mask (R159 to R163), and the cross-lane instructions (R173 to R176). -/

namespace Sys2Proof.Machine

/-! ### Predicates -/

/-- The lanes of a mask for which a condition holds. -/
def maskOf (m : Mask) (g : Nat → Bool) : Mask := (lanesOf m).foldl (fun x l => if g l then x ||| BitVec.twoPow 32 l else x) 0#32

/-- A predicate operand's index. -/
def predOf (o : Operand) : BitVec 3 :=
  match o with
  | .pred p => p
  | _ => 0#3

/-- The active bits of a predicate replaced (R18, R159). -/
def Fibre.setPred (f : Fibre) (p : BitVec 3) (m v : Mask) : Fibre := f.writeP p ((f.readP p &&& ~~~m) ||| (v &&& m))

/-- A compare: `g` gives a lane's relation and flags (R159, R160). -/
def compareOp (w : LaneWord) (imm : BitVec 13 → Lane) (g : Lane → Lane → Bool × Fl) (s : State) : Out :=
  crossLane w false false imm
    (fun _ m a b =>
      ([], (lanesOf m).foldl (fun x l => x ||| (g (laneAt a l) (laneAt b l)).2) 0#6,
       fun f => f.setPred (predOf w.d) m (maskOf m (fun l => (g (laneAt a l) (laneAt b l)).1)))) s

/-- An integer compare (R159). -/
def integerCompare (w : LaneWord) (g : Int → Int → Bool) (s : State) : Out :=
  let v (x : Lane) : Int := intValue 32 (w.ty == 0#3) x.toNat
  compareOp w wordImm (fun a b => (g (v a) (v b), 0#6)) s

/-- A floating-point compare (R160). -/
def floatCompare (rel : FRel) (w : LaneWord) (s : State) : Out :=
  compareOp w (floatImm .fp32) (fun a b => Fmt.fp32.compare rel a.toNat b.toNat) s

/-- ICMPEQ (R159). -/
def execIcmpeq (w : LaneWord) (s : State) : Out := integerCompare w (fun a b => a == b) s
/-- ICMPNE (R159). -/
def execIcmpne (w : LaneWord) (s : State) : Out := integerCompare w (fun a b => a != b) s
/-- ICMPLT (R159). -/
def execIcmplt (w : LaneWord) (s : State) : Out := integerCompare w (fun a b => decide (a < b)) s
/-- ICMPLE (R159). -/
def execIcmple (w : LaneWord) (s : State) : Out := integerCompare w (fun a b => decide (a ≤ b)) s
/-- ICMPGT (R159). -/
def execIcmpgt (w : LaneWord) (s : State) : Out := integerCompare w (fun a b => decide (b < a)) s
/-- ICMPGE (R159). -/
def execIcmpge (w : LaneWord) (s : State) : Out := integerCompare w (fun a b => decide (b ≤ a)) s
/-- FCMPEQ (R160). -/
def execFcmpeq (w : LaneWord) (s : State) : Out := floatCompare .eq w s
/-- FCMPNE (R160). -/
def execFcmpne (w : LaneWord) (s : State) : Out := floatCompare .ne w s
/-- FCMPLT (R160). -/
def execFcmplt (w : LaneWord) (s : State) : Out := floatCompare .lt w s
/-- FCMPLE (R160). -/
def execFcmple (w : LaneWord) (s : State) : Out := floatCompare .le w s
/-- FCMPGT (R160). -/
def execFcmpgt (w : LaneWord) (s : State) : Out := floatCompare .gt w s
/-- FCMPGE (R160). -/
def execFcmpge (w : LaneWord) (s : State) : Out := floatCompare .ge w s
/-- FCMPUN (R160). -/
def execFcmpun (w : LaneWord) (s : State) : Out := floatCompare .un w s
/-- FCMPOR (R160). -/
def execFcmpor (w : LaneWord) (s : State) : Out := floatCompare .or w s

/-- A predicate operation on whole masks (R161). -/
def predicateOp (w : LaneWord) (g : Mask → Mask → Mask) (s : State) : Out :=
  crossLane w false false wordImm
    (fun _ m _ _ => ([], 0#6, fun f => f.setPred (predOf w.d) m (g (f.readP (predOf w.a)) (f.readP (predOf w.b))))) s

/-- PAND (R161). -/
def execPand (w : LaneWord) (s : State) : Out := predicateOp w (fun a b => a &&& b) s
/-- POR (R161). -/
def execPor (w : LaneWord) (s : State) : Out := predicateOp w (fun a b => a ||| b) s
/-- PXOR (R161). -/
def execPxor (w : LaneWord) (s : State) : Out := predicateOp w (fun a b => a ^^^ b) s
/-- PANDN (R161): *a* and not *b*. -/
def execPandn (w : LaneWord) (s : State) : Out := predicateOp w (fun a b => a &&& ~~~b) s
/-- PNOT (R161). -/
def execPnot (w : LaneWord) (s : State) : Out := predicateOp w (fun a _ => ~~~a) s

/-- The mask that EMAND and EMSET read: a predicate, `s`[31:0], or the sign-extended immediate (R162). -/
def maskOperand (x : LaneHere) : Mask :=
  match x.w.a with
  | .pred p => x.h.f.readP p
  | .scalar r => (x.c.scalar r).setWidth 32
  | .imm v => wordImm v
  | _ => 0#32

/-- EMAND (R162). -/
def execEmand (w : LaneWord) (s : State) : Out :=
  crossLane w false false wordImm (fun x m _ _ => ([], 0#6, fun f => { f with em := f.em &&& (maskOperand x ||| ~~~m) })) s

/-- EMSET (R162): its lanes are selected by `pred` alone. -/
def execEmset (w : LaneWord) (s : State) : Out :=
  crossLane w false true wordImm
    (fun x m _ _ => ([], 0#6, fun f => { f with em := (f.em &&& ~~~m) ||| (maskOperand x &&& m) })) s

/-- EMGET (R162): its lanes are selected by `pred` alone. -/
def execEmget (w : LaneWord) (s : State) : Out :=
  crossLane w false true wordImm (fun _ m _ _ => ([], 0#6, fun f => f.setPred (predOf w.d) m f.em)) s

/-- The single register that a word writes, in its active lanes. -/
def oneReg (x : LaneHere) (m : Mask) (v : LaneVec) : List (Nat × Mask × LaneVec) :=
  match berthOf x.h.f x.w.d with
  | some r => [(r, m, v)]
  | none => []

/-- SEL (R163). -/
def execLaneSel (w : LaneWord) (s : State) : Out :=
  crossLane w false false wordImm
    (fun x m a b =>
      let p := x.h.f.readP (predOf w.c)
      (oneReg x m (vecOf (fun l => if p.getLsbD l then laneAt a l else laneAt b l)), 0#6, fun f => f)) s

/-! ### Shuffles and votes (R173, R174) -/

/-- A shuffle: `g` gives the lane read from the lane and its value *n* (R173). -/
def shuffle (w : LaneWord) (g : Nat → Nat → Nat) (s : State) : Out :=
  crossLane w false false wordImm
    (fun x m a b => (oneReg x m (vecOf (fun l => laneAt a (g l ((laneAt b l).toNat % 32)))), 0#6, fun f => f)) s

/-- SHFL (R173). -/
def execShfl (w : LaneWord) (s : State) : Out := shuffle w (fun _ n => n) s
/-- SHFLU (R173). -/
def execShflu (w : LaneWord) (s : State) : Out := shuffle w (fun l n => if n ≤ l then l - n else l) s
/-- SHFLD (R173). -/
def execShfld (w : LaneWord) (s : State) : Out := shuffle w (fun l n => if l + n ≤ 31 then l + n else l) s
/-- SHFLX (R173). -/
def execShflx (w : LaneWord) (s : State) : Out := shuffle w (fun l n => l ^^^ n) s

/-- The vote mask: `p`*a* and active (R174). -/
def voteMask (x : LaneHere) (m : Mask) : Mask := x.h.f.readP (predOf x.w.a) &&& m

/-- BALLOT (R174). -/
def execBallot (w : LaneWord) (s : State) : Out :=
  crossLane w false false wordImm (fun x m _ _ => (oneReg x m (Vector.replicate 32 (voteMask x m)), 0#6, fun f => f)) s

/-- A vote into a predicate. -/
def vote (w : LaneWord) (g : (v active : Mask) → Bool) (s : State) : Out :=
  crossLane w false false wordImm
    (fun x m _ _ => ([], 0#6, fun f => f.setPred (predOf w.d) m (if g (voteMask x m) m then 0xFFFF_FFFF#32 else 0#32))) s

/-- VANY (R174). -/
def execVany (w : LaneWord) (s : State) : Out := vote w (fun v _ => v != 0#32) s
/-- VALL (R174). -/
def execVall (w : LaneWord) (s : State) : Out := vote w (fun v m => v == m) s

/-! ### Scans and reductions (R175) -/

/-- What a scan has formed: the accumulated value, each lane's running value, the generators and the flags. -/
structure Scan where
  acc : Option Lane
  lanes : LaneVec
  gens : Vector Lane 32
  fl : Fl

/-- The active lanes combined in ascending order; `g` combines with a generator value (R175). -/
def scanLanes (m : Mask) (a : LaneVec) (gens : Vector Lane 32) (rm : Mode) (steps : Bool) (g : Lane → Lane → Nat → Nat × Fl) : Scan :=
  (lanesOf m).foldl
    (fun t l =>
      let x := laneAt a l
      match t.acc with
      | none => { t with acc := some x, lanes := t.lanes.set! l x }
      | some y =>
        let gen := if steps then stepGen rm (laneAt t.gens l) else laneAt t.gens l
        let r := g y x gen.toNat
        let v : Lane := BitVec.ofNat 32 r.1
        { acc := some v, lanes := t.lanes.set! l v, gens := t.gens.set! l gen, fl := t.fl ||| r.2 })
    { acc := none, lanes := zeroVec, gens := gens, fl := 0#6 }

/-- The combining rule of a scan: 0 ADD, 1 MIN, 2 MAX, by type (R175). -/
def combine (k : Nat) (ty : BitVec 3) (rm : Mode) (sat : Bool) (x y : Lane) (r : Nat) : Nat × Fl :=
  if ty = 2#3 then
    match k with
    | 0 => Fmt.fp32.add x.toNat y.toNat rm sat r
    | 1 => Fmt.fp32.select false x.toNat y.toNat
    | _ => Fmt.fp32.select true x.toNat y.toNat
  else
    let sg := ty == 0#3
    let a := intValue 32 sg x.toNat
    let b := intValue 32 sg y.toNat
    match k with
    | 0 => intResult 32 sg sat (a + b)
    | 1 => (intCode 32 (min a b), 0#6)
    | _ => (intCode 32 (max a b), 0#6)

/-- A scan, or a reduction (R175). -/
def scanOp (k : Nat) (reduces : Bool) (w : LaneWord) (s : State) : Out :=
  crossLane w false false (if w.ty = 2#3 then floatImm .fp32 else wordImm)
    (fun x m a _ =>
      let rm := modeOf w.rm
      let t := scanLanes m a x.h.f.gens rm (w.ty == 2#3 && k == 0) (combine k w.ty rm w.sat)
      (oneReg x m (if reduces then Vector.replicate 32 (t.acc.getD 0#32) else t.lanes), t.fl, fun f => { f with gens := t.gens })) s

/-- SCANADD (R175). -/
def execScanadd (w : LaneWord) (s : State) : Out := scanOp 0 false w s
/-- SCANMIN (R175). -/
def execScanmin (w : LaneWord) (s : State) : Out := scanOp 1 false w s
/-- SCANMAX (R175). -/
def execScanmax (w : LaneWord) (s : State) : Out := scanOp 2 false w s
/-- REDADD (R175). -/
def execRedadd (w : LaneWord) (s : State) : Out := scanOp 0 true w s
/-- REDMIN (R175). -/
def execRedmin (w : LaneWord) (s : State) : Out := scanOp 1 true w s
/-- REDMAX (R175). -/
def execRedmax (w : LaneWord) (s : State) : Out := scanOp 2 true w s

/-! ### TOPK (R176) -/

/-- The rank key of a value: larger is first; −0 below +0, every NaN below −∞. -/
def topKey (ty : BitVec 3) (v : Lane) : Int :=
  match ty.toNat with
  | 0 => v.toInt
  | 1 => (v.toNat : Int)
  | _ => if (Fmt.fp32.decode v.toNat).isNaN then -(2 ^ 32) else if v.getLsbD 31 then -((v.toNat % 2 ^ 31 : Nat) : Int) - 1 else (v.toNat : Int)

/-- How many active lanes come before lane `l` in the order. -/
def topRank (ty : BitVec 3) (m : Mask) (a : LaneVec) (l : Nat) : Nat :=
  ((lanesOf m).filter (fun j =>
    decide (topKey ty (laneAt a l) < topKey ty (laneAt a j)) || (topKey ty (laneAt a j) == topKey ty (laneAt a l) && decide (j < l)))).length

/-- The lane of a rank. -/
def laneOfRank (ty : BitVec 3) (m : Mask) (a : LaneVec) (r : Nat) : Option Nat := (lanesOf m).find? (fun l => topRank ty m a l == r)

/-- The filler of R176. -/
def topFiller (ty : BitVec 3) : Lane :=
  match ty.toNat with
  | 0 => 0x8000_0000#32
  | 1 => 0#32
  | _ => 0xFF80_0000#32

/-- The count *k*: an immediate, or bits [31:0] of a scalar, 16 at most. -/
def topCount (x : LaneHere) : Nat :=
  match x.w.b with
  | .imm v => v.toNat
  | .scalar r => min ((x.c.scalar r).toNat % 2 ^ 32) 16
  | _ => 0

/-- TOPK (R176): the pair `v`*d* and `v`*d*+1. -/
def execTopk (w : LaneWord) (s : State) : Out :=
  crossLane w true false (if w.ty = 2#3 then floatImm .fp32 else wordImm)
    (fun x m a _ =>
      let m' := m &&& BitVec.ofNat 32 (2 ^ topCount x - 1)
      let value := vecOf (fun r => ((laneOfRank w.ty m a r).map (laneAt a)).getD (topFiller w.ty))
      let index := vecOf (fun r => ((laneOfRank w.ty m a r).map (BitVec.ofNat 32)).getD 0xFFFF_FFFF#32)
      match nameOf w.d with
      | some n => ([(berthReg x.h.f n, m', value), (berthReg x.h.f (n + 1), m', index)], 0#6, fun f => f)
      | none => ([], 0#6, fun f => f)) s

end Sys2Proof.Machine
end

