-- ==== Sys2Proof/Machine/LaneMem.lean ====
section
/-! DEFINITION. The lane loads, stores and atomics (R169 to R172), with partial performance, parking and replay (R186, R187). -/

namespace Sys2Proof.Machine

/-- An access of one lane: its address, its reach, and what it does. -/
structure LaneAccess where
  lane : Nat
  addr : Word
  reach : Except (Word × Fail) (List Spot)
  deed : Deed

/-- A lane whose access failed: the lane, its address, the failing address and why. -/
structure LaneFail where
  lane : Nat
  addr : Word
  at' : Word
  why : Fail

/-- What the lanes of one instruction have done. -/
structure LaneRun where
  s : State
  value : LaneVec
  done : Mask
  fails : List LaneFail
  killed : Bool

/-- The size and widening of a memory access by TY (R170). -/
def accessType (ty : BitVec 3) : Nat × Bool :=
  match ty.toNat with
  | 2 => (2, true)
  | 3 => (2, false)
  | 4 => (1, true)
  | 5 => (1, false)
  | _ => (4, false)

/-- The lanes that a word works on: those active, cut to the mask of a replay (R187, R193). -/
def LaneHere.working (x : LaneHere) : Mask :=
  match x.h.f.lReplay with
  | some r => x.active false &&& r
  | none => x.active false

/-- The address of a lane (R169). -/
def laneAddress (x : LaneHere) (isLocal : Bool) (off : Lane) : Word :=
  let base := match x.w.a with | .scalar r => x.c.scalar r | _ => 0#64
  if isLocal then BitVec.ofInt 64 (((wfld base 0 24 : Int) + off.toInt) % 2 ^ 24) else base + off.signExtend 64

/-- The lines whose toll the accesses of an instruction charge (R150); a lane whose address does not translate is charged with the rest (log 119). -/
def laneLines (isLocal : Bool) (n : Nat) (l : List LaneAccess) : Nat :=
  if isLocal then
    linesTouched ((l.flatMap (fun a => (List.range n).map (fun i => a.addr.toNat + i))).filter
      (fun b => match localRegion b with | some (some _) => true | _ => false))
  else linesTouched (l.flatMap (fun a => memoryBytes a.addr n a.reach))

/-- One lane's access performed (R169, R172, R412). -/
def performLane (isLocal : Bool) (n : Nat) (signed : Bool) (x : LaneHere) (t : LaneRun) (a : LaneAccess) : LaneRun :=
  if t.killed then t
  else
    match a.reach with
    | .error (at', why) =>
      { t with fails := t.fails ++ [{ lane := a.lane, addr := a.addr, at' := if why = .poison then a.addr else at', why := why }] }
    | .ok sp =>
      let finished (u : State) (v : Nat) : LaneRun :=
        { t with s := u, value := t.value.set! a.lane ((widen n signed v).setWidth 32), done := t.done ||| BitVec.twoPow 32 a.lane }
      match collectiveOf a.deed sp, lookup t.s.contexts x.h.w.ctx with
      | some i, some c =>
        (match collectiveStore t.s.cur x.h.w c a.addr n a.deed i with
        | .ok o => finished (addFabricOp t.s o) 0
        | .error _ => t)
      | _, _ =>
        let s0 := if isLocal then (if isPeer a.addr.toNat then countPeer t.s a.deed else t.s) else remember t.s x.h.env a.addr
        match performOne s0 s0.cur true a.deed a.addr sp with
        | (u, .ok v) => finished u v
        | (u, .error (at', why)) =>
          if why = .killed then { t with s := u, killed := true }
          else { t with s := u, fails := t.fails ++ [{ lane := a.lane, addr := a.addr, at' := at', why := why }] }

/-- The address that a trap records for a lane that failed: the lane's, or of poisoned data its lowest poisoned byte (R191, R297). -/
def LaneFail.frameAddr (y : LaneFail) : Word := if y.why = .poison then y.at' else y.addr

/-- The mask of the failed lanes. -/
def failMask (l : List LaneFail) : Mask := l.foldl (fun m f => m ||| BitVec.twoPow 32 f.lane) 0#32

/-- Loaded lanes written at once, while others are still unfinished (R172). -/
def writeDone (x : LaneHere) (t : LaneRun) : State :=
  match berthOf x.h.f x.w.d with
  | some r =>
    onFibre (writeBerth t.s t.s.cur (x.h.f.speculates true) r t.done t.value) t.s.cur (fun f => f.voidLanes r t.done)
  | none => t.s

/-- The end of a lane memory instruction: it completes later, or it parks, or it traps (R147, R172, R186, R187). -/
def finishMemory (x : LaneHere) (flag : Option Nat) (d : Deed) (t : LaneRun) : State :=
  let fk := t.s.cur
  let first := x.h.f.lReplay.isNone
  let after := if first then none else x.h.f.replayOf
  if t.killed then t.s
  else
    match t.fails with
    | [] =>
      let marks := marksOf x.h.f x.w
      let reg := berthOf x.h.f x.w.d
      let own := match reg with | some r => decide (r ∈ marks) | none => false
      let mask := if own then x.active false else t.done
      let value := if own then blend t.done t.value (match reg with | some r => x.h.sl.value r | none => zeroVec) else t.value
      finishLane t.s (fun f => (if first then f.raise flag else f).pendLane reg mask value [] marks 0#6 flag x.c.serial)
    | y :: ys =>
      let mask := failMask (y :: ys)
      let u := onFibre (writeDone x t) fk (fun f =>
        { (if first then f.raise flag else f) with
            lRaised := if first then flag else f.lRaised, lReplay := some mask, replayOf := if first then f.replayOf else none }.syncFence f.prefence)
      match (y :: ys).find? (fun z => !z.why.waits z.at' after) with
      | some z => takeTrap u true { cause := z.why.cause, addr := z.frameAddr, mask := mask }
      | none =>
        match y.why with
        | .resolvable level kind => park u true mask y.addr y.at' level kind d.want
        | _ => u

/-- A lane memory or scratchpad instruction of `n`-byte accesses (R169 to R172); `deed` gives what a lane does from its value of C
and of D. -/
def laneMemory (w : LaneWord) (isLocal aligned : Bool) (deed : (c d : Lane) → Deed) (s0 : State) : Out :=
  laneOp w false false (some true) s0 (fun x =>
    let n := (accessType w.ty).1
    let m := x.working
    let t0 : Progress := { s := s0, dval := zeroVec, wrote := false, gens := x.h.f.gens, fl := 0#6, cells := [], killed := false }
    let b := (readOperand x m t0 wordImm 0 1 w.b).2
    let c := (readOperand x m t0 wordImm 0 2 w.c).2
    let d := (readOperand x m t0 wordImm 0 3 w.d).2
    let s := if isLocal then s0 else walkedRanges s0 x.h.env ((lanesOf m).map (fun l => laneAddress x isLocal (laneAt b l))) n
    let bk := bankOfFibre s.cur
    let dd := deed 0#32 0#32
    let accesses : List LaneAccess := (lanesOf m).map (fun l =>
      let addr := laneAddress x isLocal (laneAt b l)
      { lane := l, addr := addr, deed := deed (laneAt c l) (laneAt d l),
        reach := if isLocal then .ok ((localSpots s bk addr.toNat n).getD []) else spots s x.h.env addr n dd.want false })
    let n1 := x.h.f.spc
    match (if isLocal then accesses.find? (fun a => (localSpots s bk a.addr.toNat n).isNone) else none) with
    | some a => .next (takeTrap (issueLane s n1 1 0) true { cause := .scratchRange, addr := a.addr, mask := x.active false })
    | none =>
      match (if aligned then accesses.find? (fun a => a.addr.toNat % n != 0) else none) with
      | some a => .next (takeTrap (issueLane s n1 1 0) true { cause := .memAlign, addr := a.addr, mask := m })
      | none =>
        match accessDelay s s.cur x.h.f true dd accesses.length (accesses.map (·.reach)) with
        | some st => .next (stallLane s w.sw st)
        | none =>
          let contributions := accesses.filterMap (fun a => match a.reach with
            | .ok sp => (collectiveOf a.deed sp).map (fun i => (a, i))
            | .error _ => none)
          let refused := contributions.findSome? (fun y => match lookup s.contexts x.h.w.ctx with
            | some ctx => (match collectiveStore s.cur x.h.w ctx y.1.addr n y.1.deed y.2 with | .error cause => some cause | .ok _ => none)
            | none => none)
          let free := x.h.f.lReplay.isSome && x.h.f.replayOf.isSome
          let issued (bm : Nat) : State := if free then onCur s (fun f => { f with lStall := none }) else issueLane s n1 1 bm
          match refused with
          | some cause => .next (takeTrap (issued 0) true { cause := cause, mask := m })
          | none =>
            if !contributions.isEmpty && 16 ≤ fabricOutstanding s s.cur then .next (stallLane s w.sw (.full .fabric))
            else
              .next (finishMemory x (x.run.flagFor true) dd
                (accesses.foldl (performLane isLocal n (accessType w.ty).2 x)
                  { s := issued (laneLines isLocal n accesses), value := zeroVec, done := 0#32, fails := [], killed := false })))

/-- The update of a lane atomic (R171). -/
def laneUpdate (op : AtomicOp) (c e : Lane) : Deed := .update (fun m => op.apply 32 m c.toNat e.toNat)

/-- A lane atomic (R171). -/
def laneAtomic (op : AtomicOp) (isLocal : Bool) (w : LaneWord) (s : State) : Out := laneMemory w isLocal true (laneUpdate op) s

/-- The floating-point addition at a location, rounded to nearest even; it sets no flag (R113, R171). -/
def laneFadd (c _e : Lane) : Deed := .update (fun m => some (Fmt.fp32.add m c.toNat .rne false 0).1)

/-- LDG (R170). -/
def execLdg (w : LaneWord) (s : State) : Out := laneMemory w false false (fun _ _ => .load) s
/-- STG (R170). -/
def execStg (w : LaneWord) (s : State) : Out := laneMemory w false false (fun c _ => .store c.toNat) s
/-- LDS (R170). -/
def execLds (w : LaneWord) (s : State) : Out := laneMemory w true false (fun _ _ => .load) s
/-- STS (R170). -/
def execSts (w : LaneWord) (s : State) : Out := laneMemory w true false (fun c _ => .store c.toNat) s
/-- GAADD (R171). -/
def execGaadd (w : LaneWord) (s : State) : Out := laneAtomic .add false w s
/-- GAMIN (R171). -/
def execGamin (w : LaneWord) (s : State) : Out := laneAtomic .min false w s
/-- GAMAX (R171). -/
def execGamax (w : LaneWord) (s : State) : Out := laneAtomic .max false w s
/-- GAAND (R171). -/
def execGaand (w : LaneWord) (s : State) : Out := laneAtomic .and false w s
/-- GAOR (R171). -/
def execGaor (w : LaneWord) (s : State) : Out := laneAtomic .or false w s
/-- GAXOR (R171). -/
def execGaxor (w : LaneWord) (s : State) : Out := laneAtomic .xor false w s
/-- GASWAP (R171). -/
def execGaswap (w : LaneWord) (s : State) : Out := laneAtomic .swap false w s
/-- GACAS (R171). -/
def execGacas (w : LaneWord) (s : State) : Out := laneAtomic .cas false w s
/-- GAFADD (R171). -/
def execGafadd (w : LaneWord) (s : State) : Out := laneMemory w false true laneFadd s
/-- LAADD (R171). -/
def execLaadd (w : LaneWord) (s : State) : Out := laneAtomic .add true w s
/-- LAMIN (R171). -/
def execLamin (w : LaneWord) (s : State) : Out := laneAtomic .min true w s
/-- LAMAX (R171). -/
def execLamax (w : LaneWord) (s : State) : Out := laneAtomic .max true w s
/-- LAAND (R171). -/
def execLaand (w : LaneWord) (s : State) : Out := laneAtomic .and true w s
/-- LAOR (R171). -/
def execLaor (w : LaneWord) (s : State) : Out := laneAtomic .or true w s
/-- LAXOR (R171). -/
def execLaxor (w : LaneWord) (s : State) : Out := laneAtomic .xor true w s
/-- LASWAP (R171). -/
def execLaswap (w : LaneWord) (s : State) : Out := laneAtomic .swap true w s
/-- LACAS (R171). -/
def execLacas (w : LaneWord) (s : State) : Out := laneAtomic .cas true w s
/-- LAFADD (R171). -/
def execLafadd (w : LaneWord) (s : State) : Out := laneMemory w true true laneFadd s

end Sys2Proof.Machine
end

