-- ==== Sys2Proof/Machine/Mailbox.lean ====
section
/-! DEFINITION. The mailbox commands (R362 to R368, R373 to R375, R379). -/

namespace Sys2Proof.Machine

/-! ### Status and images -/

/-- A number as `n` little-endian bytes in two's complement. -/
def signedBytes (n : Nat) (v : Int) : List Byte := leBytes n (v % (2 ^ (8 * n) : Nat)).toNat

/-- A set of units as a bit mask of `n` bytes. -/
def unitMask (n : Nat) (p : Nat → Bool) : List Byte := leBytes n ((List.range (8 * n)).foldl (fun m i => if p i then m + 2 ^ i else m) 0)

/-- GET_STATUS (R364). -/
def execGetStatus (s : State) : Out :=
  command s 1 true [] (fun s =>
    let h := s.health
    respond s 0 (leBytes 8 (bootStat s.boot).toNat ++ h.junction.toList.flatMap (signedBytes 2) ++ h.stack.toList.flatMap (signedBytes 2) ++
      leBytes 4 h.power ++ leBytes 4 h.clockLimit ++ h.dieClock.toList.flatMap (leBytes 2) ++
      unitMask 128 (fun g => (coreOf s g).retired) ++ unitMask 16 (fun c => decide (c ∈ s.lost) || decide (c ∈ s.keptOutClusters)) ++
      leBytes 1 (h.stop.toNat + 2 * s.boot.harbour.toNat)))

/-- LOAD_IMAGE (R372, R373): the image is read from host memory, checked, and only then written to the slot; in harbour mode the failure count
becomes 0. -/
def execLoadImage (s : State) : Out :=
  command s 2 true [(0, 8), (8, 4)] (fun s =>
    let image := (List.range (req s 8 4)).map (fun i => hostMemoryByte s (req s 0 8 + i))
    let reason := if req s 0 8 % 16 = 0 then imageReason image else 1
    let t := respond s (if reason = 0 then 0 else 2) ([BitVec.ofNat 8 reason, 0#8] ++ leBytes 2 (imageVersion image))
    if reason ≠ 0 then t
    else { t with boot := { t.boot with image := image, fails := if t.boot.harbour then 0 else t.boot.fails } })

/-- A partition as SET_PARTITIONS and the attestation report lay it out. -/
def partitionWord (s : State) (p : Nat) : Nat :=
  match lookup s.partitions p with
  | none => 0
  | some x => x.dies.foldl (fun m d => m + 2 ^ d) 0 + x.tenant.toNat * 2 ^ 16 + x.active.toNat * 2 ^ 31

/-- The report of R375 but for its signature. -/
def attestBody (s : State) : List Byte :=
  leBytes 8 1 ++ reqBytes s 0 32 ++ sha256 s.boot.running ++
    sha256 (Config.fuseState ++ unitMask 128 (fun g => (coreOf s g).keptOut) ++ unitMask 16 (fun c => decide (c ∈ s.keptOutClusters))) ++
    leBytes 8 (bootStat s.boot).toNat ++ (List.range 8).flatMap (fun p => leBytes 8 (partitionWord s p))

/-- The RSASSA-PSS signature of a message by the identity key (R364, R375): 384 bytes. -/
def identitySign (message : List Byte) (tick : Nat) : List Byte :=
  pssSign (2 ^ 3071 + Config.identityModulus.toNat) Config.identityExponent.toNat (sha256 message) (leBytes 32 (Config.signatureSalt tick).toNat)

/-- ATTEST (R375). -/
def execAttest (s : State) : Out :=
  command s 3 false [(0, 32)] (fun s => respond s 0 (attestBody s ++ identitySign (attestBody s) s.tick))

/-! ### Partitions (R348, R364, R365, R374) -/

/-- The entries of a SET_PARTITIONS request: die mask, tenant, active. -/
def partitionEntries (s : State) : List (Nat × Nat × Bool) :=
  (List.range (req s 0 1)).map (fun p => (req s (8 + 8 * p) 1, fld (req s (8 + 8 * p) 8) 16 12, fld (req s (8 + 8 * p) 8) 31 1 == 1))

/-- The dies of a mask. -/
def maskDies (m : Nat) : List Nat := (List.range 8).filter (fun d => Nat.testBit m d)

/-- An entry of a SET_PARTITIONS request is well-formed: no other bit is set and the mask names 1, 2, 4 or 8 dies. -/
def entryOk (s : State) (p : Nat) : Bool :=
  let v := req s (8 + 8 * p) 8
  fld v 8 8 == 0 && fld v 28 3 == 0 && fld v 32 32 == 0 && decide ((maskDies (v % 256)).length ∈ [1, 2, 4, 8])

/-- What a partition is defined as, for the comparison of R365. -/
def partitionShape (s : State) (p : Nat) : Option (List Nat × Nat × Bool) :=
  (lookup s.partitions p).map (fun x => (x.dies, x.tenant.toNat, x.active))

/-- The cause of SET_PARTITIONS (R364, R365); 0 where it is accepted. -/
def partitionsCause (s : State) : Nat :=
  let n := req s 0 1
  let l := partitionEntries s
  let sharers (m : Nat) : List (Nat × Nat × Bool) := l.filter (fun e => e.1 == m)
  let changed (p : Nat) : Bool := partitionShape s p != (l[p]?).map (fun e => (maskDies e.1, e.2.1, e.2.2))
  if 8 < n ∨ (List.range n).any (fun p => !entryOk s p) then 4
  else if l.any (fun a => l.any (fun b => a.1 != b.1 && a.1 &&& b.1 != 0)) then 1
  else if l.any (fun a => match sharers a.1 with
      | [_] => false
      | [x, y] => x.2.2 == y.2.2
      | _ => true) then 2
  else if s.contexts.any (fun c => changed c.2.partition) then 3
  else 0

/-- Partition `p` set to its entry: one that keeps its dies and tenant keeps its memory key, another gets a new key (R374). -/
def setPartition (s : State) (p : Nat) : State :=
  match (partitionEntries s)[p]? with
  | none => { s with partitions := del s.partitions p }
  | some (m, t, a) =>
    match lookup s.partitions p with
    | some x =>
      if x.dies = maskDies m ∧ x.tenant.toNat = t then { s with partitions := put s.partitions p { x with active := a } }
      else { s with partitions := put s.partitions p { dies := maskDies m, tenant := BitVec.ofNat 12 t, active := a, key := s.keySerial + 1 }, keySerial := s.keySerial + 1 }
    | none =>
      { s with partitions := put s.partitions p { dies := maskDies m, tenant := BitVec.ofNat 12 t, active := a, key := s.keySerial + 1 }, keySerial := s.keySerial + 1 }

/-- SET_PARTITIONS (R364, R365, R374). -/
def execSetPartitions (s : State) : Out :=
  command s 4 false ((0, 1) :: (List.range (min 8 (req s 0 1))).map (fun p => (8 + 8 * p, 8))) (fun s =>
    let cause := partitionsCause s
    respondCause (if cause = 0 then (List.range 8).foldl setPartition s else s) cause)

/-- SWITCH_PARTITION (R348, R364): it completes when every core of the partition's dies has flipped. -/
def execSwitchPartition (s : State) : Out :=
  if flipsWanted s && s.mailbox.running == 5#8 then .next s
  else
    command s 5 false [(0, 1)] (fun s =>
      let p := req s 0 1
      match lookup s.partitions p with
      | none => respondCause s 1
      | some x =>
        if x.active then respondCause s 2
        else if (partnerOf s p).isNone then respondCause s 3
        else
          let t := beginSwitch s p
          if flipsWanted t then { t with mailbox := { t.mailbox with switching := true } } else respond t 0 [])

/-! ### Limits and the emergency stop -/

/-- A limit set within its range: its new value, and whether it was clamped (R366). -/
def setLimit (old lo hi v : Nat) : Nat × Bool := if v = 0 then (old, false) else (max lo (min hi v), v < lo || hi < v)

/-- SET_LIMITS (R364, R366). -/
def execSetLimits (s : State) : Out :=
  command s 6 false [(0, 4), (4, 4), (8, 2)] (fun s =>
    let h := s.health
    let a := setLimit h.powerLimit 1600 3200 (req s 0 4)
    let b := setLimit h.clockLimit 500 1050 (req s 4 4)
    let c := setLimit h.throttle 85 105 (req s 8 2)
    let t := { s with health := { h with powerLimit := a.1, clockLimit := b.1, throttle := c.1, dieClock := h.dieClock.map (min b.1) } }
    respond t (if a.2 || b.2 || c.2 then 2 else 0) (leBytes 4 a.1 ++ leBytes 4 b.1 ++ leBytes 2 c.1))

/-- The highest of some temperatures. -/
def hottest (l : List Int) : Int := l.foldl max (l.headD 0)

/-- RELEASE_STOP (R364, R368): the crews resume as they were. -/
def execReleaseStop (s : State) : Out :=
  command s 0x0A false [] (fun s =>
    let j := hottest s.health.junction.toList
    let k := hottest s.health.stack.toList
    let ok := decide (j < celsius 95) && decide (k < celsius 85)
    respond (if ok then unhaltBanks { s with health := { s.health with stop := false } } else s) (if ok then 0 else 2) (signedBytes 2 j ++ signedBytes 2 k))

/-! ### Keys (R364, R374) -/

/-- A LOAD_KEY command (R364): an operation that the table does not list gives FIELD. -/
def loadKey (op : Nat) (fields : List (Nat × Nat)) (go : State → State) (s : State) : Out :=
  let n := req s 0 1
  if n = op then command s 7 false ([(0, 1), (1, 1), (2, 2)] ++ fields) go
  else if 2 < n then command s 7 false [(0, 1), (1, 1), (2, 2)] (fun t => respondCause t 3)
  else .next s

/-- The modulus of the key-transport key of a start. -/
def transportModulus (start : Nat) : Nat := 2 ^ 3071 + (Config.transportModulus start).toNat

/-- A ciphertext opened with the key-transport key of a start. -/
def transportOpen (start : Nat) (cipher : List Byte) : Option (List Byte) :=
  oaepOpen (transportModulus start) (Config.transportExponent start).toNat cipher

/-- The key in a ciphertext at the present start: one that was wrapped for an earlier start fails (R364). -/
def unwrapKey (start : Nat) (cipher : List Byte) : Option (List Byte) :=
  if (List.range start).any (fun k => (transportOpen k cipher).isSome) then none
  else (transportOpen start cipher).bind (fun key => if key.length = 32 then some key else none)

/-- KEY_TRANSPORT (R364): the modulus of this start's key, certified by the identity key. -/
def execKeyTransport (s : State) : Out :=
  loadKey 0 [] (fun s =>
    let m := beBytes 384 (transportModulus s.boot.start)
    respond s 0 (m ++ identitySign m s.tick)) s

/-- A slot that a registered protected context names (R374). -/
def slotInUse (s : State) (k : Nat) : Bool := s.contexts.any (fun c => c.2.prot && c.2.keySlot == k)

/-- KEY_LOAD (R364, R374). -/
def execKeyLoad (s : State) : Out :=
  loadKey 1 [(0x10, 384)] (fun s =>
    let k := req s 1 1
    if 2 ^ 12 ≤ req s 2 2 then respondCause s 3
    else if slotInUse s k then respondCause s 1
    else
      match unwrapKey s.boot.start (reqBytes s 0x10 384) with
      | none => respondCause s 2
      | some key => respondCause { s with keySlots := put s.keySlots k { tenant := BitVec.ofNat 12 (req s 2 2), key := key } } 0) s

/-- KEY_CLEAR (R364). -/
def execKeyClear (s : State) : Out :=
  loadKey 2 [] (fun s =>
    let k := req s 1 1
    if 2 ^ 12 ≤ req s 2 2 then respondCause s 3
    else if slotInUse s k then respondCause s 1
    else respondCause { s with keySlots := del s.keySlots k } 0) s

/-! ### UNIT_SERVICE (R379) -/

/-- The unit of a request: whether it exists, is in service, and is kept out for good. -/
def unitState (s : State) (kind u : Nat) : Bool × Bool × Bool :=
  if kind = 1 then (decide (u < 1024), !(coreOf s u).retired, (coreOf s u).keptOut)
  else (kind == 2 && decide (u < 128), !decide (u ∈ s.lost) && !decide (u ∈ s.keptOutClusters), decide (u ∈ s.keptOutClusters))

/-- A UNIT_SERVICE command (R364): a field out of range gives FIELD. -/
def unitService (action : Nat) (go : Nat → Nat → State → State) (s : State) : Out :=
  let kind := req s 0 1
  let u := req s 2 2
  let st := unitState s kind u
  if req s 1 1 = action ∨ req s 1 1 = 0 ∨ 2 < req s 1 1 then
    command s 8 false [(0, 1), (1, 1), (2, 2)] (fun s =>
      if req s 1 1 ≠ action ∨ !st.1 then respondCause s 3
      else if st.2.2 then respondCause s 4
      else if st.2.1 then respondCause s 2
      else go kind u s)
  else .next s

/-- UNIT_RETURN (R379): every store of the unit is tested first. -/
def execUnitReturn (s : State) : Out :=
  unitService 1 (fun kind u s =>
    if !Config.unitTest s.tick (kind * 65536 + u) then respondCause s 1
    else if kind = 1 then respondCause (onCore s u (fun c => { c with retired := false, errors := [] })) 0
    else respondCause { s with lost := s.lost.filter (· != u) } 0) s

/-- UNIT_KEEP_OUT (R379). -/
def execUnitKeepOut (s : State) : Out :=
  unitService 2 (fun kind u s =>
    if kind = 1 then respondCause (onCore s u (fun c => { c with keptOut := true })) 0
    else respondCause { s with lost := s.lost.filter (· != u), keptOutClusters := u :: s.keptOutClusters } 0) s

/-! ### The end of a command -/

/-- MAILBOX_UNKNOWN_COMMAND (R363). -/
def execMailboxUnknownCommand (s : State) : Out :=
  if s.mailbox.busy && s.mailbox.finished.isNone && (s.mailbox.running == 0#8 || decide (0x0A < s.mailbox.running.toNat)) then .next (respond s 1 []) else .next s

/-- MAILBOX_COMPLETE (R361, R362): BUSY is cleared and vector 0 raised; an image loaded in harbour mode then resets the part (R373). -/
def execMailboxComplete (s : State) : Out :=
  match s.mailbox.finished with
  | none => .next s
  | some st =>
    if !s.mailbox.busy then .next s
    else
      let t := { s with mailbox := { s.mailbox with busy := false, finished := none, status := st }, msix := 0 :: s.msix }
      .next (if s.boot.harbour && s.mailbox.running == 2#8 && st == 0#8 then resetPart t else t)

end Sys2Proof.Machine
end

