-- ==== Sys2Proof/Machine/Routing.lean ====
section
/-! DEFINITION. Expert routing (R417 to R422): the records of `q4`, session blocks, headers and the two rounds of a batch, the tape, decisions
and payloads. -/

namespace Sys2Proof.Machine

/-! ### Ranges checked by page -/

/-- An engine's translation of one address: a collective page refuses its write (R412). -/
def engineTranslate (s : State) (env : Env) (v : Word) (w : Want) : Except Fail Page :=
  match translate s env v w true with
  | .error x => .error x
  | .ok p => if w == .write && p.collective.isSome then .error .permit else .ok p

/-- Where the first of some ranges fails to translate, and why. -/
def rangesFail (s : State) (env : Env) (l : List (Word × Nat × Want)) : Option (Word × Fail × Want) :=
  (l.flatMap (fun x => (pageStarts x.1 x.2.1).map (fun v => (v, x.2.2)))).findSome? (fun x =>
    match engineTranslate s env x.1 x.2 with
    | .error y => some (x.1, y, x.2)
    | .ok _ => none)

/-- What the walks for some ranges meet. -/
def walkedAll (s : State) (env : Env) (l : List (Word × Nat × Want)) : State := l.foldl (fun t x => walkedRange t env x.1 x.2.1) s

/-- The entries that ranges which translate leave in the TLBs. -/
def rememberRanges (s : State) (env : Env) (l : List (Word × Nat × Want)) : State :=
  (l.flatMap (fun x => pageStarts x.1 x.2.1)).foldl (fun t v => remember t env v) s

/-! ### Session blocks (R418) -/

/-- T. -/
def Session.size (ss : Session) : Nat := leNat ((ss.block.drop 0x0C).take 4)
/-- T₀. -/
def Session.first (ss : Session) : Nat := leNat ((ss.block.drop 0x10).take 8)
/-- P. -/
def Session.period (ss : Session) : Nat := leNat ((ss.block.drop 0x18).take 4)
/-- W. -/
def Session.window (ss : Session) : Nat := leNat ((ss.block.drop 0x1C).take 4)
/-- The receive base. -/
def Session.receiveBase (ss : Session) : Word := BitVec.ofNat 64 (leNat ((ss.block.drop 0x20).take 8))
/-- The tape header. -/
def Session.tape (ss : Session) : Word := BitVec.ofNat 64 (leNat ((ss.block.drop 0x28).take 8))
/-- The expert table. -/
def tableOf (block : List Byte) : Word := BitVec.ofNat 64 (leNat (block.take 8))
/-- X. -/
def expertCount (block : List Byte) : Nat := leNat ((block.drop 8).take 4)

/-- The fields of a block within the limits of R418. -/
def sessionBlockOk (block : List Byte) : Bool :=
  let n (o k : Nat) : Nat := leNat ((block.drop o).take k)
  n 0 8 % 16 == 0 && decide (1 ≤ n 8 4 ∧ n 8 4 ≤ 4095) && n 0xC 4 % 16 == 0 && decide (16 ≤ n 0xC 4 ∧ n 0xC 4 ≤ 16384) &&
    decide (10000 ≤ n 0x18 4 ∧ n 0x18 4 ≤ 100000000) && decide (1000 ≤ n 0x1C 4 ∧ n 0x1C 4 < n 0x18 4) && (block.drop 0x30).all (· == 0#8)

/-- An entry of an expert table: its package, capacity, opcode and offset; none where it breaks R418. -/
def expertEntry (packages : Nat) (l : List Byte) : Option (Nat × Nat × Nat × Nat) :=
  let w := leNat (l.take 8)
  let off := leNat (l.drop 8)
  if fld w 0 16 < packages ∧ 1 ≤ fld w 16 16 ∧ fld w 16 16 ≤ 4096 ∧ fld w 48 16 = 0 ∧ off % 16 = 0 then
    some (fld w 0 16, fld w 16 16, fld w 32 16, off)
  else none

/-- The receive buffer of an expert: C × T bytes for each of two batches. -/
def bufferOf (receiveBase : Word) (size : Nat) (x : Nat × Nat × Nat × Nat) : Word × Nat × Want :=
  (receiveBase + BitVec.ofNat 64 x.2.2.2, 2 * x.2.1 * size, .write)

/-- Bytes that a routing engine reads under a right: the address that fails and why, or the bytes. -/
def routeRead (s0 : State) (env : Env) (v : Word) (n : Nat) (w : Want) : State × Except (Word × Fail × Want) (List Byte) :=
  let s := walkedRange s0 env v n
  match engineSpots s env v n w with
  | .error (a, x) => (s, .error (a, x, w))
  | .ok l =>
    let r := engineRead s outside l
    if allRead r.2 then (remember r.1 env v, .ok (r.2.map (fun b => b.getD 0#8))) else (r.1, .error (v, .poison, w))

/-- Whether a range of a block lies in device memory. -/
def blockPlaced (s : State) (env : Env) (v : Word) : Bool :=
  v.toNat % 64 == 0 && (match translate s env v .read true with | .ok p => inDevice p.frame | .error _ => true)

/-- What the checks of an open give (R418): a session, a failure of some address, or refusal. -/
inductive OpenCheck where
  | open' (ss : Session)
  | fails (x : Word × Fail × Want)
  | refused

/-- The checks of an open, in the order of R418: the block, the expert table, the tape header and ring, the receive buffers. -/
def checkOpen (s : State) (env : Env) (c : Context) (number engine n : Nat) (v : Word) : State × OpenCheck :=
  if !blockPlaced s env v then (s, .refused)
  else
    match routeRead s env v 64 .read with
    | (t, .error x) => (t, .fails x)
    | (t, .ok block) =>
      if !sessionBlockOk block then (t, .refused)
      else
        match routeRead t env (tableOf block) (16 * expertCount block) .read with
        | (t, .error x) => (t, .fails x)
        | (t, .ok table) =>
          let packages := (gridOf c).extents.foldl (· * ·) 1
          match (List.range (expertCount block)).mapM (fun e => expertEntry packages ((table.drop (16 * e)).take 16)) with
          | none => (t, .refused)
          | some experts =>
            let ss : Session :=
              { number := number, engine := engine, ctx := n, block := block, experts := experts, headers := [], round1 := [], batch1 := 0,
                batch2 := 0, ranked := none, appends := [], entries := [], resumed := 0 }
            match rangesFail t env [(ss.tape, 64, .write)] with
            | some x => (t, .fails x)
            | none =>
              match routeRead t env ss.tape 64 .write with
              | (t, .error x) => (t, .fails x)
              | (t, .ok header) =>
                let ring : Word × Nat × Want := (BitVec.ofNat 64 (leNat (header.take 8)), 64 * min (leNat ((header.drop 8).take 4)) 65536, .write)
                let hosted := experts.filter (fun x => x.1 == ownIndex c)
                let l := ring :: hosted.map (bufferOf ss.receiveBase ss.size)
                let t := walkedAll t env l
                match rangesFail t env l with
                | some x => (t, .fails x)
                | none => (rememberRanges t env l, .open' ss)

/-! ### Words of `q5` (R420, R422) -/

/-- A routing result word. -/
def routeWord (fate expert slot batch : Nat) (token : BitVec 32) : Word :=
  BitVec.ofNat 64 (fate * 2 ^ 62 + expert % 4096 * 2 ^ 50 + slot % 4096 * 2 ^ 38 + batch % 64 * 2 ^ 32 + token.toNat)

/-- The FATE 3 word: no rule gives its batch number. -/
def refusedWord (s : State) (token : BitVec 32) : Word := routeWord 3 0xFFF 0 (Config.freeByte s.tick 0).toNat token

/-- A word for a fibre, held in order. -/
def Fibre.pushQ5 (f : Fibre) (x : Word) : Fibre := { f with q5 := f.q5 ++ [x] }

/-- A token's word is posted and the token is forgotten. -/
def endToken (s : State) (id : Nat) (t : Token) (x : Word) : State :=
  onOwner { s with tokens := del s.tokens id } t.serial t.fibre (fun f => f.pushQ5 x)

/-- A token is dropped in a batch. -/
def dropToken (s : State) (id : Nat) (t : Token) (batch : Nat) : State := endToken s id t (routeWord 2 0xFFF 0 batch t.token)

/-! ### Records of `q4` (R417) -/

/-- The record at the head of a fibre's `q4`: its type and two words; type 3 is one word alone. -/
def recordHead (f : Fibre) : Option (Nat × Word × Word) :=
  match f.q4 with
  | [] => none
  | a :: r =>
    if wfld a 62 2 = 3 then some (3, a, 0#64)
    else
      match r with
      | b :: _ => some (wfld a 62 2, a, b)
      | [] => none

/-- A record leaves `q4`. -/
def takeRecord (s : State) (g n : Nat) (k : Fibre → Fibre) : State :=
  onFibre s g (fun f => k { f with q4 := f.q4.drop n, routeAsked := none })

/-- A record of type `ty` of fibre `g` that its engine may take: no page is awaited. -/
def atRecord (ty g : Nat) (s : State) (go : Fibre → Crew → Context → Word → Word → State) : Out :=
  match lookup s.fibres g, lookup s.crews (bankOfFibre g) with
  | some f, some w =>
    match recordHead f, lookup s.contexts w.ctx with
    | some (t, a, b), some c => if t = ty ∧ !Asked.waiting f.routeAsked then .next (go f w c a b) else .next s
    | _, _ => .next s
  | _, _ => .next s

/-- A refused record of `n` words gives its FATE 3 word; an open or close that is refused gives it for token id 0xFFFF_FFFF (R420, R425). -/
def refuseRoute (s : State) (g n : Nat) (token : BitVec 32) : State := takeRecord s g n (fun f => f.pushQ5 (refusedWord s token))

/-- A check of a record has failed at an address: a resolvable fault waits for its page, another refuses the record. -/
def failRecord (s : State) (g : Nat) (f : Fibre) (n : Nat) (token : BitVec 32) (x : Word × Fail × Want) : State :=
  match askPage s (coreOfFibre g / 128) n f.routeAsked x.1 x.2.1 x.2.2 with
  | (t, .ok q) => onFibre t g (fun f => { f with routeAsked := some q })
  | (t, .error _) => refuseRoute t g 2 token

/-- A session of a package by its number. -/
def sessionOf (s : State) (number : Nat) : Option Session := s.sessions.find? (fun x => x.number == number)

/-- A session changed. -/
def onSession (s : State) (number : Nat) (g : Session → Session) : State :=
  { s with sessions := s.sessions.map (fun x => if x.number = number then g x else x) }

/-- TIME as a number. -/
def timeOf (s : State) : Nat := s.ptp.toNat

/-- The close of batch `b`. -/
def Session.close (ss : Session) (b : Nat) : Nat := ss.first + b * ss.period

/-- The first batch whose time, offset by `w`, lies after TIME: a token that is pushed once TIME has reached c₀ joins batch 1 or a later one (R419,
R425). -/
def Session.after (ss : Session) (w time : Nat) : Nat := if time < ss.first + w then 0 else (time - (ss.first + w)) / ss.period + 1

/-- The first batch whose time, offset by `w`, does not lie before TIME. -/
def Session.reaches (ss : Session) (w time : Nat) : Nat := if time ≤ ss.first + w then 0 else (time - (ss.first + w) + ss.period - 1) / ss.period

/-- The batch that a header joins (R419): one that arrives after a close joins the next batch, one at the very time of a close that has not been made
still joins its batch, and batches whose close a pause defers are still open. -/
def Session.joins (ss : Session) (h : RoutingHeader) (time : Nat) (paused : Bool) : Nat :=
  if h.second then max h.batch (max ss.batch2 (if paused then 0 else ss.reaches ss.window time))
  else max h.batch (max ss.batch1 (if paused then 0 else ss.reaches 0 time))

/-- A header joins a round of a session at its destination. -/
def joinRound (s : State) (number : Nat) (h : RoutingHeader) : State :=
  onSession s number (fun ss => { ss with
    headers := ss.headers ++ [{ header := h, order := s.tick, batch := ss.joins h (timeOf s) (pausedContext s ss.ctx), round := if h.second then 2 else 1 }] })

/-- ROUTING_OPEN (R417, R418): headers that arrived before it join their rounds. -/
def execRoutingOpen (g : Nat) (s : State) : Out :=
  atRecord 1 g s (fun f w c a b =>
    let number := wfld a 0 16
    let engine := coreOfFibre g / 512
    let bad := refuseRoute s g 2 0xFFFF_FFFF#32
    if wfld a 16 46 ≠ 0 ∨ (sessionOf s number).isSome ∨ 16 ≤ (s.sessions.filter (fun x => x.engine == engine)).length then bad
    else
      match envOfContext s w.ctx with
      | none => bad
      | some env =>
        match checkOpen s env c number engine w.ctx b with
        | (t, .refused) => refuseRoute t g 2 0xFFFF_FFFF#32
        | (t, .fails x) => failRecord t g f w.ctx 0xFFFF_FFFF#32 x
        | (t, .open' ss) =>
          let mine (x : Nat × RoutingHeader) : Bool := x.1 == w.ctx && x.2.session.toNat == number
          let u := takeRecord { t with
            sessions := t.sessions ++ [ss]
            earlyHeaders := t.earlyHeaders.filter (fun x => !mine x)
            shutSessions := t.shutSessions.filter (fun x => x != (w.ctx, number)) } g 2 (fun f => { f with session := some number })
          (s.earlyHeaders.filter mine).foldl (fun v x => joinRound v number x.2) u)

/-- A fibre forgets a session. -/
def Fibre.leaveSession (f : Fibre) (number : Nat) : Fibre := if f.session = some number then { f with session := none } else f

/-- ROUTING_CLOSE (R417): the record waits while a batch that the session has ranked still goes out; headers still held are then dropped, so that each
token gets its word (R420, log 74). -/
def execRoutingClose (g : Nat) (s : State) : Out :=
  atRecord 2 g s (fun _ w _ a b =>
    let number := wfld a 0 16
    match sessionOf s number with
    | none => refuseRoute s g 2 0xFFFF_FFFF#32
    | some ss =>
      if wfld a 16 46 ≠ 0 ∨ b ≠ 0#64 ∨ ss.ctx ≠ w.ctx then refuseRoute s g 2 0xFFFF_FFFF#32
      else if ss.ranked.isSome || !ss.appends.isEmpty then s
      else
        let t := takeRecord { s with
          sessions := s.sessions.filter (fun x => x.number != number), shutSessions := (w.ctx, number) :: s.shutSessions } g 2 id
        let u := { t with
          fibres := t.fibres.map (fun x => (x.1, x.2.leaveSession number))
          saved := t.saved.map (fun x => (x.1, { x.2 with fibres := x.2.fibres.map (fun y => (y.1, y.2.leaveSession number)) })) }
        ss.headers.foldl (fun v x => decide' v x.header (.dropped x.batch)) u)

/-- ROUTING_BAD_RECORD (R417): a word of type 3 is taken alone. -/
def execRoutingBadRecord (g : Nat) (s : State) : Out := atRecord 3 g s (fun _ _ _ _ _ => refuseRoute s g 1 0xFFFF_FFFF#32)

/-- Whether a token's own fields refuse it (R417). -/
def tokenBad (ss : Session) (a b : Word) : Bool :=
  let e1 := wfld a 32 12
  let e2 := wfld a 44 12
  wfld a 56 6 != 0 || decide (ss.experts.length ≤ e1) || (e2 != 0xFFF && decide (ss.experts.length ≤ e2)) || e1 == e2 || b.toNat % 16 != 0

/-- ROUTING_TOKEN (R417, R419): an accepted token is charged, and its header is ready to leave. -/
def execRoutingToken (g : Nat) (s : State) : Out :=
  atRecord 0 g s (fun f w _ a b =>
    let id := bits a 0 32
    match f.session.bind (sessionOf s), envOf s w with
    | some ss, some env =>
      if ss.ctx ≠ w.ctx ∨ tokenBad ss a b then refuseRoute s g 2 id
      else
        let s := walkedRange s env b ss.size
        match rangesFail s env [(b, ss.size, .read)] with
        | some x => failRecord s g f w.ctx id x
        | none =>
          let t := rememberRanges s env [(b, ss.size, .read)]
          let host (e : Nat) : Nat := match ss.experts[e]? with | some x => x.1 | none => 0
          let token : Token :=
            { fibre := g, serial := w.serial, ctx := w.ctx, session := ss.number, first := wfld a 32 12, second := wfld a 44 12,
              hosts := (host (wfld a 32 12), host (wfld a 44 12)), token := id, payload := b, size := ss.size, round := 0,
              batch := ss.after 0 (timeOf s), fate := none, sent := 0, void := false, asked := none }
          let u := takeRecord t g 2 (fun f => f)
          charge { u with tokens := put u.tokens u.nextSerial token, nextSerial := u.nextSerial + 1 } (bankOfFibre g) g f.spc 0
            ((ss.size + 63) / 64)
    | _, _ => refuseRoute s g 2 id)

/-! ### What leaves for a token (R417, R419) -/

/-- The header of a token's present round. -/
def Token.header (t : Token) (s : State) (id : Nat) (c : Context) : RoutingHeader :=
  { serial := id, tenant := c.tenant, crossing := BitVec.ofNat 24 (gridOf c).crossing, stamp := bits s.ptp 0 32,
    session := BitVec.ofNat 16 t.session, source := BitVec.ofNat 16 (ownIndex c), token := t.token,
    expert := BitVec.ofNat 12 (if t.round = 2 then t.second else t.first), batch := t.batch, second := t.round == 2 }

/-- The number under which the header of a round is in flight; a payload piece has its own. -/
def headerFlight (second : Bool) : Nat := if second then 2 ^ 20 + 2 else 2 ^ 20

/-- The header of a token leaves, or is dropped at its own port (R408). -/
def sendHeader (s : State) (id : Nat) (t : Token) (c : Context) : State :=
  if portLists s (exitOf s) c.tenant then
    transmit { s with
      tokens := put s.tokens id { t with round := t.round + 1 }, flights := (t.ctx, id, headerFlight (t.round == 2)) :: s.flights } (exitOf s) 48
      (.header (if t.round = 2 then t.hosts.2 else t.hosts.1) (t.header s id c))
  else dropToken s id t t.batch

/-- What the next piece of a payload carries: its bytes (none: void), or the page it waits for. The whole payload is looked at with the
first piece. -/
def pieceData (s0 : State) (t : Token) : State × Except Asked (Option (List Byte)) :=
  let o := 512 * t.sent
  let n := min 512 (t.size - o)
  match (match crewOf s0 t.serial with | some w => envOf s0 w | none => envOfContext s0 t.ctx) with
  | none => (s0, .ok none)
  | some env =>
    if t.void then (s0, .ok none)
    else
      let s := walkedRange s0 env t.payload t.size
      let ask (u : State) (a : Word) (x : Fail) : State × Except Asked (Option (List Byte)) :=
        match askPage u (coreOfFibre t.fibre / 128) t.ctx t.asked a x .read with
        | (v, .ok q) => (v, .error q)
        | (v, .error _) => (v, .ok none)
      let bank := (bankOfSerial s t.serial).getD outside
      let at' := t.payload + BitVec.ofNat 64 o
      match (if t.sent = 0 then engineSpots s env t.payload t.size .read else .ok []), engineSpots s env at' n .read with
      | .error (a, x), _ => ask s a x
      | _, .error (a, x) => ask s a x
      | .ok all, .ok l =>
        if all.any (fun y => match y.place with | some p => unitMarked s p | none => false) && !allRead (engineRead s bank all).2 then
          ((engineRead s bank all).1, .ok none)
        else
          let r := engineRead (remember s env at') bank l
          (r.1, .ok (if allRead r.2 then some (r.2.map (fun b => b.getD 0#8)) else none))

/-- A piece of an accepted token's payload leaves; after the last the token's word is posted (R417, R420). -/
def sendPiece (s : State) (id : Nat) (t : Token) (c : Context) (batch slot : Nat) : State :=
  match pieceData s t with
  | (u, .error q) => { u with tokens := put u.tokens id { t with asked := some q } }
  | (u, .ok data) =>
    let o := 512 * t.sent
    let n := min 512 (t.size - o)
    let second := decide (2 ≤ t.round)
    let expert := if second then t.second else t.first
    let p : RoutingPayload :=
      { serial := id, source := BitVec.ofNat 16 (ownIndex c), tenant := c.tenant, crossing := BitVec.ofNat 24 (gridOf c).crossing, stamp := bits s.ptp 0 32, session := BitVec.ofNat 16 t.session,
        expert := BitVec.ofNat 12 expert, batch := batch, slot := slot, offset := o, void := data.isNone, data := data.getD [], len := n }
    let v :=
      if portLists u (exitOf u) c.tenant then
        transmit { u with flights := (t.ctx, id, t.sent) :: u.flights } (exitOf u) (48 + (p.data.length + 15) / 16 * 16) (.payload (if second then t.hosts.2 else t.hosts.1) p)
      else u
    if t.size ≤ o + n then endToken v id t (routeWord (if second then 1 else 0) expert slot batch t.token)
    else { v with tokens := put v.tokens id { t with sent := t.sent + 1, void := t.void || data.isNone, asked := none } }

/-- The next request of token `id` leaves: a header or a piece of its payload. A gang pause holds both (R415). -/
def payloadTurn (id : Nat) (s : State) : Out :=
  match lookup s.tokens id with
  | none => .next s
  | some t =>
    match lookup s.contexts t.ctx with
    | none => .next s
    | some c =>
      if !maySend s || pausedContext s t.ctx || Asked.waiting t.asked then .next s
      else
        match t.fate with
        | some (batch, slot) => .next (sendPiece s id t c batch slot)
        | none => if t.round = 0 ∨ t.round = 2 then .next (sendHeader s id t c) else .next s

/-! ### At the destination (R419) -/

/-- The member that a header reaches: its crossing's, or for a crossing of one package the sender's own. -/
def headerMember (s : State) (h : RoutingHeader) : Option (Nat × Context) :=
  if h.crossing = 0#24 then (lookup s.tokens h.serial).bind (fun t => memberOf s (2 ^ 24 + t.ctx)) else memberOf s h.crossing.toNat

/-- ROUTING_HEADER_ARRIVAL (R419, R420): held until its session opens here; of a session that has been closed it is dropped. -/
def execRoutingHeaderArrival (port : Nat) (h : RoutingHeader) (s : State) : Out :=
  let t := receive s port 48
  let ack (u : State) : State := transmitReply u (.ack h.source.toNat h.serial (headerFlight h.second))
  match dropped t port h.tenant h.stamp (headerMember t h).isSome, headerMember t h with
  | some (_, stat), _ => .next (decide' (portStat t port stat) h (.dropped h.batch))
  | none, none => .next t
  | none, some (n, _) =>
    match t.sessions.find? (fun x => x.number == h.session.toNat && x.ctx == n) with
    | some ss => .next (joinRound (ack t) ss.number h)
    | none =>
      if (n, h.session.toNat) ∈ t.shutSessions then .next (decide' t h (.dropped h.batch))
      else .next { ack t with earlyHeaders := t.earlyHeaders ++ [(n, h)] }

/-- Whether header `a` ranks before `b`: source linear index, token id, arrival. -/
def ranksBefore (a b : HeldHeader) : Bool :=
  decide (a.header.source.toNat < b.header.source.toNat) ||
    (a.header.source == b.header.source &&
      (decide (a.header.token.toNat < b.header.token.toNat) || (a.header.token == b.header.token && decide (a.order ≤ b.order))))

/-- The slots of an expert at this package: none where another package hosts it. -/
def capacityHere (ss : Session) (own e : Nat) : Nat :=
  match ss.experts[e]? with
  | some x => if x.1 = own then x.2.1 else 0
  | none => 0

/-- Headers ranked for every expert they name, `taken` of whose slots are in use: the accepted, from the first free slot up, and the rest. -/
def rankHeaders (ss : Session) (own : Nat) (taken : List Accepted) (l : List HeldHeader) : List Accepted × List HeldHeader :=
  let experts := distinct (l.map (fun x => x.header.expert.toNat))
  let parts := experts.map (fun e =>
    let mine := (l.filter (fun x => x.header.expert.toNat == e)).mergeSort ranksBefore
    let used := (taken.filter (fun x => x.header.expert.toNat == e)).length
    let free := capacityHere ss own e - used
    (((mine.take free).map (·.header)).zipIdx.map (fun x => ({ header := x.1, slot := used + x.2 } : Accepted)), mine.drop free))
  (parts.flatMap (·.1), parts.flatMap (·.2))

/-- The smallest batch that headers of a round wait in. -/
def smallestBatch (ss : Session) (round : Nat) : Option Nat :=
  (((ss.headers.filter (fun x => x.round == round)).map (·.batch)).mergeSort (fun a b => decide (a ≤ b))).head?

/-- A session of an unpaused context with the linear index of its package: a pause defers closes (R415). -/
def openSession (s : State) (number : Nat) (go : Session → Nat → State) : Out :=
  match sessionOf s number with
  | none => .next s
  | some ss =>
    match lookup s.contexts ss.ctx with
    | none => .next s
    | some c => if pausedContext s ss.ctx then .next s else .next (go ss (ownIndex c))

/-- ROUTING_ROUND1_CLOSE (R419): it comes after the second round of every earlier batch. The close that a pause has deferred uses the TIME of the resume (R416). -/
def execRoutingRound1Close (number : Nat) (s : State) : Out :=
  openSession s number (fun ss own =>
    match ss.ranked, smallestBatch ss 1 with
    | none, some b =>
      let close := max (ss.close b) ss.resumed
      if decide (timeOf s < close) || (match smallestBatch ss 2 with | some a => decide (a < b) | none => false) then s
      else
        let mine (x : HeldHeader) : Bool := x.round == 1 && x.batch == b
        let r := rankHeaders ss own [] (ss.headers.filter mine)
        let t := onSession s number (fun ss => { ss with
          headers := ss.headers.filter (fun x => !mine x), round1 := r.1, ranked := some (b, close + ss.window), batch1 := b + 1 })
        r.2.foldl (fun u x => decide' u x.header (.overflow b)) t
    | _, _ => s)

/-- The batch whose second round closes next, with its time. -/
def Session.nextRound2 (ss : Session) : Option (Nat × Nat) :=
  match ss.ranked with
  | some (b, t) => some (b, max t ss.resumed)
  | none =>
    match smallestBatch ss 2 with
    | none => none
    | some b =>
      if (match smallestBatch ss 1 with | some a => decide (a ≤ b) | none => false) then none
      else some (b, max (ss.close b + ss.window) ss.resumed)

/-- ROUTING_ROUND2_CLOSE (R419). -/
def execRoutingRound2Close (number : Nat) (s : State) : Out :=
  openSession s number (fun ss own =>
    match ss.nextRound2 with
    | none => s
    | some (b, time) =>
      if timeOf s < time then s
      else
        let mine (x : HeldHeader) : Bool := x.round == 2 && x.batch == b
        let r := rankHeaders ss own ss.round1 (ss.headers.filter mine)
        let all := ss.round1 ++ r.1
        let t := onSession s number (fun ss => { ss with
          headers := ss.headers.filter (fun x => !mine x), round1 := [], ranked := none, batch1 := max ss.batch1 (b + 1), batch2 := b + 1,
          appends := if all.isEmpty then ss.appends else ss.appends ++ [{ batch := b, accepted := all }] })
        r.2.foldl (fun u x => decide' u x.header (.dropped b)) t)

/-! ### The tape (R421, R422) -/

/-- The buffer of an expert's batch. -/
def Session.buffer (ss : Session) (e b : Nat) : Word :=
  match ss.experts[e]? with
  | some x => ss.receiveBase + BitVec.ofNat 64 (x.2.2.2 + b % 2 * x.2.1 * ss.size)
  | none => ss.receiveBase

/-- The 64 bytes of a tape entry. -/
def Session.entryBytes (ss : Session) (e b rows : Nat) : List Byte :=
  let opcode := match ss.experts[e]? with | some x => x.2.2.1 | none => 0
  let word : LWord := { target := BitVec.ofNat 32 (rows * ss.size), count := 0#32, gen := 0#16, flags := 1#8, logc := 0#8, moff := 0#32 }
  leBytes 2 opcode ++ leBytes 2 e ++ leBytes 4 b ++ leBytes 2 rows ++ leBytes 2 0 ++ leBytes 4 ss.size ++ leBytes 8 (ss.buffer e b).toNat ++
    leBytes 8 0 ++ word.bytes ++ leBytes 16 0

/-- The place of a landing word and the key of its mapping: it lies in device memory or a scratchpad (R205). -/
def wordAt (l : List Spot) : Option (Nat × Option Nat) :=
  match l.head? with
  | some x => match x.place with | some p => if inDevice p || inStore p then some (p, x.page.key) else none | none => none
  | none => none

/-- One entry is appended: written, TAIL raised, and 64 bytes credited to the tape word. The counter's address; none where a mapping is gone; or
nothing while the ring is full. -/
def appendEntry (s0 : State) (ss : Session) (e b rows : Nat) : Option (State × Option Word) :=
  match envOfContext s0 ss.ctx with
  | none => some (s0, none)
  | some env =>
    let s := walkedRange s0 env ss.tape 64
    match engineSpots s env ss.tape 64 .write with
    | .error _ => some (s, none)
    | .ok hs =>
      let r := engineRead s outside (hs.take 0x20)
      let n (o k : Nat) : Nat := readNumber ((r.2.drop o).take k)
      let entries := n 8 4
      let tail := n 0x10 4
      if !allRead r.2 then some (r.1, none)
      else if (tail + 2 ^ 32 - n 0x18 4) % 2 ^ 32 = entries then none
      else
        let v := BitVec.ofNat 64 (n 0 8 + tail % entries * 64)
        let q := walkedRange r.1 env v 64
        match engineSpots q env v 64 .write with
        | .error _ => some (q, none)
        | .ok es =>
          let t := engineWrite q outside (es.zip ((ss.entryBytes e b rows).map some))
          let u := engineWrite t outside (((hs.drop 0x10).take 4).zip ((leBytes 4 ((tail + 1) % 2 ^ 32)).map some))
          let credited := match wordAt (hs.drop 0x20) with
            | some (p, key) => (arrive u p key { tag := (readWord u p key).gen, n := 64, who := none, void := false } id).1
            | none => u
          some (credited, some (v + 0x20#64))

/-- TAPE_APPEND (R421): one entry of the oldest closed batch, in ascending expert number; it waits while the ring is full. After the last one the
acceptances leave. -/
def execTapeAppend (number : Nat) (s : State) : Out :=
  match sessionOf s number with
  | none => .next s
  | some ss =>
    match ss.appends with
    | [] => .next s
    | x :: rest =>
      let experts := (distinct (x.accepted.map (fun y => y.header.expert.toNat))).mergeSort (fun a b => decide (a ≤ b))
      match experts.find? (fun e => !ss.entries.any (fun y => y.expert == e && y.batch == x.batch)) with
      | none => .next s
      | some e =>
        let rows := (x.accepted.filter (fun y => y.header.expert.toNat == e)).length
        match appendEntry s ss e x.batch rows with
        | none => .next s
        | some (t, counter) =>
          let last := experts.getLast? == some e
          let u := onSession t number (fun ss => { ss with
            entries := ss.entries ++ [{ expert := e, batch := x.batch, counter := counter }], appends := if last then rest else ss.appends })
          .next (if last then x.accepted.foldl (fun v y => decide' v y.header (.accepted x.batch y.slot)) u else u)

/-! ### Decisions and payloads (R420, R421) -/

/-- ROUTING_DECISION_ARRIVAL (R419, R420): an acceptance lets the payload go, an overflow offers the second choice. -/
def execRoutingDecisionArrival (port : Nat) (d : RoutingDecision) (s : State) : Out :=
  let u0 := receive s port 32
  let u := { u0 with flights := u0.flights.filter (fun x => !(x.2.1 == d.serial && decide (2 ^ 20 ≤ x.2.2))) }
  match lookup u.tokens d.serial with
  | none => .next u
  | some t =>
    if t.fate.isSome || !(t.round == 1 || t.round == 3) then .next u
    else
      match d.decision with
      | .accepted b slot => .next { u with tokens := put u.tokens d.serial { t with fate := some (b, slot), batch := b } }
      | .overflow b =>
        if t.round = 3 ∨ t.second = 0xFFF then .next (dropToken u d.serial t b)
        else .next { u with tokens := put u.tokens d.serial { t with round := 2, batch := b } }
      | .dropped b => .next (dropToken u d.serial t b)

/-- The member that a payload reaches. -/
def payloadMember (s : State) (p : RoutingPayload) : Option (Nat × Context) :=
  if p.crossing = 0#24 then (sessionOf s p.session.toNat).bind (fun ss => memberOf s (2 ^ 24 + ss.ctx)) else memberOf s p.crossing.toNat

/-- A piece of a payload is placed in its slot and credited to its entry's counter; one that finds no translation is credited as void where the counter
still translates (R417, R418). -/
def landPiece (s : State) (ss : Session) (env : Env) (x : TapeEntry) (p : RoutingPayload) : State :=
  match x.counter with
  | none => s
  | some c =>
    let v := ss.buffer x.expert x.batch + BitVec.ofNat 64 (p.slot * ss.size + p.offset)
    let own : Env := { env with tenant := p.tenant }
    let t := walkedRange (walkedRange s own c 16) own v p.data.length
    match (match engineSpots t own c 16 .write with | .ok l => wordAt l | .error _ => none) with
    | none => t
    | some (w, key) =>
      let credit (void : Bool) : Credit := { tag := 0#16, n := p.len, who := none, void := void }
      match engineSpots t own v p.data.length .write with
      | .error _ => (arrive t w key (credit true) id).1
      | .ok l => (arrive t w key (credit p.void) (fun u => if p.void then u else engineWrite u outside (l.zip (p.data.map some)))).1

/-- ROUTING_PAYLOAD_ARRIVAL (R421): a piece for which there is no entry is dropped and counted. -/
def execRoutingPayloadArrival (port : Nat) (p : RoutingPayload) (s : State) : Out :=
  let t := receive s port (48 + (p.data.length + 15) / 16 * 16)
  let ack (u : State) : State := transmitReply u (.ack p.source.toNat p.serial (p.offset / 512))
  match dropped t port p.tenant p.stamp (payloadMember t p).isSome, payloadMember t p with
  | some (status, stat), m =>
    .next (transmitReply (portStat t port stat) (.reply p.source.toNat
      { serial := p.serial, status := BitVec.ofNat 8 status, target := replyIndex t (m.map (·.2)), chunk := BitVec.ofNat 24 (p.offset / 512),
        bySwitch := false }))
  | none, none => .next t
  | none, some (n, _) =>
    match t.sessions.find? (fun x => x.number == p.session.toNat && x.ctx == n), envOfContext t n with
    | some ss, some env =>
      match ss.entries.find? (fun x => x.expert == p.expert.toNat && x.batch == p.batch) with
      | some x => .next (ack (landPiece t ss env x p))
      | none => .next (ack (portStat t port 7))
    | _, _ => .next (ack (portStat t port 7))

end Sys2Proof.Machine
end

