-- ==== Sys2Proof/Machine/Dispatch.lean ====
section
/-! DEFINITION. One arm for each instruction: the call of its meaning. -/

namespace Sys2Proof.Machine

/-- What an instruction does. -/
def exec (i : Instr) (s : State) : Host.Outcome State Fault Refusal :=
  match i with
  | .add sw d a b => Sys2Proof.Machine.execAdd sw d a b s
  | .sub sw d a b => Sys2Proof.Machine.execSub sw d a b s
  | .mul sw d a b => Sys2Proof.Machine.execMul sw d a b s
  | .mulh sw d a b => Sys2Proof.Machine.execMulh sw d a b s
  | .mulhn sw d a b => Sys2Proof.Machine.execMulhn sw d a b s
  | .div sw d a b => Sys2Proof.Machine.execDiv sw d a b s
  | .divn sw d a b => Sys2Proof.Machine.execDivn sw d a b s
  | .rem sw d a b => Sys2Proof.Machine.execRem sw d a b s
  | .remn sw d a b => Sys2Proof.Machine.execRemn sw d a b s
  | .min sw d a b => Sys2Proof.Machine.execMin sw d a b s
  | .max sw d a b => Sys2Proof.Machine.execMax sw d a b s
  | .minn sw d a b => Sys2Proof.Machine.execMinn sw d a b s
  | .maxn sw d a b => Sys2Proof.Machine.execMaxn sw d a b s
  | .and sw d a b => Sys2Proof.Machine.execAnd sw d a b s
  | .or sw d a b => Sys2Proof.Machine.execOr sw d a b s
  | .xor sw d a b => Sys2Proof.Machine.execXor sw d a b s
  | .andn sw d a b => Sys2Proof.Machine.execAndn sw d a b s
  | .shl sw d a b => Sys2Proof.Machine.execShl sw d a b s
  | .shr sw d a b => Sys2Proof.Machine.execShr sw d a b s
  | .sar sw d a b => Sys2Proof.Machine.execSar sw d a b s
  | .rotr sw d a b => Sys2Proof.Machine.execRotr sw d a b s
  | .clz sw d a => Sys2Proof.Machine.execClz sw d a s
  | .ctz sw d a => Sys2Proof.Machine.execCtz sw d a s
  | .popc sw d a => Sys2Proof.Machine.execPopc sw d a s
  | .brev sw d a => Sys2Proof.Machine.execBrev sw d a s
  | .seq sw d a b => Sys2Proof.Machine.execSeq sw d a b s
  | .sne sw d a b => Sys2Proof.Machine.execSne sw d a b s
  | .slt sw d a b => Sys2Proof.Machine.execSlt sw d a b s
  | .sle sw d a b => Sys2Proof.Machine.execSle sw d a b s
  | .sltn sw d a b => Sys2Proof.Machine.execSltn sw d a b s
  | .slen sw d a b => Sys2Proof.Machine.execSlen sw d a b s
  | .sel sw d a b c => Sys2Proof.Machine.execSel sw d a b c s
  | .addsh sw d a b h => Sys2Proof.Machine.execAddsh sw d a b h s
  | .addi sw d i0 => Sys2Proof.Machine.execAddi sw d i0 s
  | .andi sw d i0 => Sys2Proof.Machine.execAndi sw d i0 s
  | .ori sw d i0 => Sys2Proof.Machine.execOri sw d i0 s
  | .xori sw d i0 => Sys2Proof.Machine.execXori sw d i0 s
  | .shli sw d i0 => Sys2Proof.Machine.execShli sw d i0 s
  | .shri sw d i0 => Sys2Proof.Machine.execShri sw d i0 s
  | .sari sw d i0 => Sys2Proof.Machine.execSari sw d i0 s
  | .muli sw d i0 => Sys2Proof.Machine.execMuli sw d i0 s
  | .movi sw d i0 => Sys2Proof.Machine.execMovi sw d i0 s
  | .movk sw d k i0 => Sys2Proof.Machine.execMovk sw d k i0 s
  | .seqi sw d i0 => Sys2Proof.Machine.execSeqi sw d i0 s
  | .snei sw d i0 => Sys2Proof.Machine.execSnei sw d i0 s
  | .slti sw d i0 => Sys2Proof.Machine.execSlti sw d i0 s
  | .slei sw d i0 => Sys2Proof.Machine.execSlei sw d i0 s
  | .sltni sw d i0 => Sys2Proof.Machine.execSltni sw d i0 s
  | .sleni sw d i0 => Sys2Proof.Machine.execSleni sw d i0 s
  | .br sw o => Sys2Proof.Machine.execBr sw o s
  | .call sw o => Sys2Proof.Machine.execCall sw o s
  | .bz sw c o => Sys2Proof.Machine.execBz sw c o s
  | .bnz sw c o => Sys2Proof.Machine.execBnz sw c o s
  | .loop sw c o => Sys2Proof.Machine.execLoop sw c o s
  | .bemz sw o => Sys2Proof.Machine.execBemz sw o s
  | .bemnz sw o => Sys2Proof.Machine.execBemnz sw o s
  | .jr sw a => Sys2Proof.Machine.execJr sw a s
  | .callr sw a => Sys2Proof.Machine.execCallr sw a s
  | .cls sw k => Sys2Proof.Machine.execCls sw k s
  | .fwait sw m => Sys2Proof.Machine.execFwait sw m s
  | .clswait sw k => Sys2Proof.Machine.execClswait sw k s
  | .ldb sw d b o => Sys2Proof.Machine.execLdb sw d b o s
  | .ldh sw d b o => Sys2Proof.Machine.execLdh sw d b o s
  | .ldw sw d b o => Sys2Proof.Machine.execLdw sw d b o s
  | .ldd sw d b o => Sys2Proof.Machine.execLdd sw d b o s
  | .ldbn sw d b o => Sys2Proof.Machine.execLdbn sw d b o s
  | .ldhn sw d b o => Sys2Proof.Machine.execLdhn sw d b o s
  | .ldwn sw d b o => Sys2Proof.Machine.execLdwn sw d b o s
  | .stb sw d b o => Sys2Proof.Machine.execStb sw d b o s
  | .sth sw d b o => Sys2Proof.Machine.execSth sw d b o s
  | .stw sw d b o => Sys2Proof.Machine.execStw sw d b o s
  | .std sw d b o => Sys2Proof.Machine.execStd sw d b o s
  | .sldb sw d b o => Sys2Proof.Machine.execSldb sw d b o s
  | .sldh sw d b o => Sys2Proof.Machine.execSldh sw d b o s
  | .sldw sw d b o => Sys2Proof.Machine.execSldw sw d b o s
  | .sldd sw d b o => Sys2Proof.Machine.execSldd sw d b o s
  | .sldbn sw d b o => Sys2Proof.Machine.execSldbn sw d b o s
  | .sldhn sw d b o => Sys2Proof.Machine.execSldhn sw d b o s
  | .sldwn sw d b o => Sys2Proof.Machine.execSldwn sw d b o s
  | .sstb sw d b o => Sys2Proof.Machine.execSstb sw d b o s
  | .ssth sw d b o => Sys2Proof.Machine.execSsth sw d b o s
  | .sstw sw d b o => Sys2Proof.Machine.execSstw sw d b o s
  | .sstd sw d b o => Sys2Proof.Machine.execSstd sw d b o s
  | .aaddw sw d a b => Sys2Proof.Machine.execAaddw sw d a b s
  | .aswapw sw d a b => Sys2Proof.Machine.execAswapw sw d a b s
  | .acasw sw d a b => Sys2Proof.Machine.execAcasw sw d a b s
  | .aminw sw d a b => Sys2Proof.Machine.execAminw sw d a b s
  | .amaxw sw d a b => Sys2Proof.Machine.execAmaxw sw d a b s
  | .aminnw sw d a b => Sys2Proof.Machine.execAminnw sw d a b s
  | .amaxnw sw d a b => Sys2Proof.Machine.execAmaxnw sw d a b s
  | .aandw sw d a b => Sys2Proof.Machine.execAandw sw d a b s
  | .aorw sw d a b => Sys2Proof.Machine.execAorw sw d a b s
  | .axorw sw d a b => Sys2Proof.Machine.execAxorw sw d a b s
  | .aaddd sw d a b => Sys2Proof.Machine.execAaddd sw d a b s
  | .aswapd sw d a b => Sys2Proof.Machine.execAswapd sw d a b s
  | .acasd sw d a b => Sys2Proof.Machine.execAcasd sw d a b s
  | .amind sw d a b => Sys2Proof.Machine.execAmind sw d a b s
  | .amaxd sw d a b => Sys2Proof.Machine.execAmaxd sw d a b s
  | .aminnd sw d a b => Sys2Proof.Machine.execAminnd sw d a b s
  | .amaxnd sw d a b => Sys2Proof.Machine.execAmaxnd sw d a b s
  | .aandd sw d a b => Sys2Proof.Machine.execAandd sw d a b s
  | .aord sw d a b => Sys2Proof.Machine.execAord sw d a b s
  | .axord sw d a b => Sys2Proof.Machine.execAxord sw d a b s
  | .saaddw sw d a b => Sys2Proof.Machine.execSaaddw sw d a b s
  | .saswapw sw d a b => Sys2Proof.Machine.execSaswapw sw d a b s
  | .sacasw sw d a b => Sys2Proof.Machine.execSacasw sw d a b s
  | .saminw sw d a b => Sys2Proof.Machine.execSaminw sw d a b s
  | .samaxw sw d a b => Sys2Proof.Machine.execSamaxw sw d a b s
  | .saminnw sw d a b => Sys2Proof.Machine.execSaminnw sw d a b s
  | .samaxnw sw d a b => Sys2Proof.Machine.execSamaxnw sw d a b s
  | .saandw sw d a b => Sys2Proof.Machine.execSaandw sw d a b s
  | .saorw sw d a b => Sys2Proof.Machine.execSaorw sw d a b s
  | .saxorw sw d a b => Sys2Proof.Machine.execSaxorw sw d a b s
  | .saaddd sw d a b => Sys2Proof.Machine.execSaaddd sw d a b s
  | .saswapd sw d a b => Sys2Proof.Machine.execSaswapd sw d a b s
  | .sacasd sw d a b => Sys2Proof.Machine.execSacasd sw d a b s
  | .samind sw d a b => Sys2Proof.Machine.execSamind sw d a b s
  | .samaxd sw d a b => Sys2Proof.Machine.execSamaxd sw d a b s
  | .saminnd sw d a b => Sys2Proof.Machine.execSaminnd sw d a b s
  | .samaxnd sw d a b => Sys2Proof.Machine.execSamaxnd sw d a b s
  | .saandd sw d a b => Sys2Proof.Machine.execSaandd sw d a b s
  | .saord sw d a b => Sys2Proof.Machine.execSaord sw d a b s
  | .saxord sw d a b => Sys2Proof.Machine.execSaxord sw d a b s
  | .ldacqw sw d b o => Sys2Proof.Machine.execLdacqw sw d b o s
  | .ldacqd sw d b o => Sys2Proof.Machine.execLdacqd sw d b o s
  | .strelw sw d b o => Sys2Proof.Machine.execStrelw sw d b o s
  | .streld sw d b o => Sys2Proof.Machine.execStreld sw d b o s
  | .fence sw r e k => Sys2Proof.Machine.execFence sw r e k s
  | .fencen sw r e k => Sys2Proof.Machine.execFencen sw r e k s
  | .cwb sw x y f => Sys2Proof.Machine.execCwb sw x y f s
  | .cinv sw x y f => Sys2Proof.Machine.execCinv sw x y f s
  | .cpf sw x y f => Sys2Proof.Machine.execCpf sw x y f s
  | .nred sw x y f z => Sys2Proof.Machine.execNred sw x y f z s
  | .qpush sw q a => Sys2Proof.Machine.execQpush sw q a s
  | .qpop sw d q => Sys2Proof.Machine.execQpop sw d q s
  | .mfsr sw d n => Sys2Proof.Machine.execMfsr sw d n s
  | .mtsr sw d n => Sys2Proof.Machine.execMtsr sw d n s
  | .mfp sw d p => Sys2Proof.Machine.execMfp sw d p s
  | .mtp sw p a => Sys2Proof.Machine.execMtp sw p a s
  | .mfem sw d => Sys2Proof.Machine.execMfem sw d s
  | .mtem sw a => Sys2Proof.Machine.execMtem sw a s
  | .mff sw d => Sys2Proof.Machine.execMff sw d s
  | .tdset sw i0 y => Sys2Proof.Machine.execTdset sw i0 y s
  | .tdget sw i0 y => Sys2Proof.Machine.execTdget sw i0 y s
  | .fbset sw j y => Sys2Proof.Machine.execFbset sw j y s
  | .tzero sw i0 f => Sys2Proof.Machine.execTzero sw i0 f s
  | .tld sw i0 y f z => Sys2Proof.Machine.execTld sw i0 y f z s
  | .tst sw i0 y f z => Sys2Proof.Machine.execTst sw i0 y f z s
  | .tldl sw i0 y f z => Sys2Proof.Machine.execTldl sw i0 y f z s
  | .tstl sw i0 y f z => Sys2Proof.Machine.execTstl sw i0 y f z s
  | .mma sw j i0 y f z => Sys2Proof.Machine.execMma sw j i0 y f z s
  | .mmas sw n j i0 y f z => Sys2Proof.Machine.execMmas sw n j i0 y f z s
  | .accz sw i0 y f => Sys2Proof.Machine.execAccz sw i0 y f s
  | .accld sw i0 y f z => Sys2Proof.Machine.execAccld sw i0 y f z s
  | .accst sw i0 y f z => Sys2Proof.Machine.execAccst sw i0 y f z s
  | .acccvt sw j i0 y f z => Sys2Proof.Machine.execAcccvt sw j i0 y f z s
  | .accmv sw x y f => Sys2Proof.Machine.execAccmv sw x y f s
  | .publish sw x y f => Sys2Proof.Machine.execPublish sw x y f s
  | .lwinit sw x y z => Sys2Proof.Machine.execLwinit sw x y z s
  | .lwarm sw x y z => Sys2Proof.Machine.execLwarm sw x y z s
  | .lwadd sw x y z => Sys2Proof.Machine.execLwadd sw x y z s
  | .lwait sw x y => Sys2Proof.Machine.execLwait sw x y s
  | .lwtest sw x y => Sys2Proof.Machine.execLwtest sw x y s
  | .cbar sw b y => Sys2Proof.Machine.execCbar sw b y s
  | .cbara sw b y z => Sys2Proof.Machine.execCbara sw b y z s
  | .cbarw sw b y => Sys2Proof.Machine.execCbarw sw b y s
  | .rst sw x f => Sys2Proof.Machine.execRst sw x f s
  | .rcpy sw x f => Sys2Proof.Machine.execRcpy sw x f s
  | .rflush sw x f => Sys2Proof.Machine.execRflush sw x f s
  | .tsarm sw x y f z => Sys2Proof.Machine.execTsarm sw x y f z s
  | .tscan sw y z => Sys2Proof.Machine.execTscan sw y z s
  | .raadd sw x f z => Sys2Proof.Machine.execRaadd sw x f z s
  | .raswap sw x f z => Sys2Proof.Machine.execRaswap sw x f z s
  | .racas sw x f z => Sys2Proof.Machine.execRacas sw x f z s
  | .ramin sw x f z => Sys2Proof.Machine.execRamin sw x f z s
  | .ramax sw x f z => Sys2Proof.Machine.execRamax sw x f z s
  | .raand sw x f z => Sys2Proof.Machine.execRaand sw x f z s
  | .raor sw x f z => Sys2Proof.Machine.execRaor sw x f z s
  | .raxor sw x f z => Sys2Proof.Machine.execRaxor sw x f z s
  | .rredf sw x f => Sys2Proof.Machine.execRredf sw x f s
  | .rredb sw x f => Sys2Proof.Machine.execRredb sw x f s
  | .rredi sw x f => Sys2Proof.Machine.execRredi sw x f s
  | .rredx sw x f => Sys2Proof.Machine.execRredx sw x f s
  | .rredn sw x f => Sys2Proof.Machine.execRredn sw x f s
  | .gpset sw x y z => Sys2Proof.Machine.execGpset sw x y z s
  | .gpget sw x y z => Sys2Proof.Machine.execGpget sw x y z s
  | .gpause sw y => Sys2Proof.Machine.execGpause sw y s
  | .spawn sw x y f z => Sys2Proof.Machine.execSpawn sw x y f z s
  | .join sw x => Sys2Proof.Machine.execJoin sw x s
  | .phase sw x y => Sys2Proof.Machine.execPhase sw x y s
  | .exit sw => Sys2Proof.Machine.execExit sw s
  | .launchi sw x y f z => Sys2Proof.Machine.execLaunchi sw x y f z s
  | .yield sw => Sys2Proof.Machine.execYield sw s
  | .yieldpt sw => Sys2Proof.Machine.execYieldpt sw s
  | .bgrant sw x y => Sys2Proof.Machine.execBgrant sw x y s
  | .fbar sw m => Sys2Proof.Machine.execFbar sw m s
  | .role sw n k => Sys2Proof.Machine.execRole sw n k s
  | .tfence sw m => Sys2Proof.Machine.execTfence sw m s
  | .brk sw p c => Sys2Proof.Machine.execBrk sw p c s
  | .trap sw x c => Sys2Proof.Machine.execTrap sw x c s
  | .tret sw x k => Sys2Proof.Machine.execTret sw x k s
  | .dbara sw b y z => Sys2Proof.Machine.execDbara sw b y z s
  | .dbarw sw b y => Sys2Proof.Machine.execDbarw sw b y s
  | .qprio sw x y => Sys2Proof.Machine.execQprio sw x y s
  | .swapf sw x y f => Sys2Proof.Machine.execSwapf sw x y f s
  | .tlbinv sw x y f => Sys2Proof.Machine.execTlbinv sw x y f s
  | .tlbinva sw y f => Sys2Proof.Machine.execTlbinva sw y f s
  | .illegalInstr word lane sub => Sys2Proof.Machine.execIllegalInstr word lane sub s
  | .iadd w => Sys2Proof.Machine.execIadd w s
  | .isub w => Sys2Proof.Machine.execIsub w s
  | .imul w => Sys2Proof.Machine.execImul w s
  | .imulh w => Sys2Proof.Machine.execImulh w s
  | .imad w => Sys2Proof.Machine.execImad w s
  | .imin w => Sys2Proof.Machine.execImin w s
  | .imax w => Sys2Proof.Machine.execImax w s
  | .iabs w => Sys2Proof.Machine.execIabs w s
  | .ineg w => Sys2Proof.Machine.execIneg w s
  | .iand w => Sys2Proof.Machine.execIand w s
  | .ior w => Sys2Proof.Machine.execIor w s
  | .ixor w => Sys2Proof.Machine.execIxor w s
  | .iandn w => Sys2Proof.Machine.execIandn w s
  | .ishl w => Sys2Proof.Machine.execIshl w s
  | .ishr w => Sys2Proof.Machine.execIshr w s
  | .iclz w => Sys2Proof.Machine.execIclz w s
  | .ipopc w => Sys2Proof.Machine.execIpopc w s
  | .ibfe w => Sys2Proof.Machine.execIbfe w s
  | .ibfi w => Sys2Proof.Machine.execIbfi w s
  | .imov w => Sys2Proof.Machine.execImov w s
  | .lnop w => Sys2Proof.Machine.execLnop w s
  | .fadd w => Sys2Proof.Machine.execFadd w s
  | .fsub w => Sys2Proof.Machine.execFsub w s
  | .fmul w => Sys2Proof.Machine.execFmul w s
  | .ffma w => Sys2Proof.Machine.execFfma w s
  | .fdiv w => Sys2Proof.Machine.execFdiv w s
  | .fmin w => Sys2Proof.Machine.execFmin w s
  | .fmax w => Sys2Proof.Machine.execFmax w s
  | .fabs w => Sys2Proof.Machine.execFabs w s
  | .fneg w => Sys2Proof.Machine.execFneg w s
  | .frnd w => Sys2Proof.Machine.execFrnd w s
  | .fsqrt w => Sys2Proof.Machine.execFsqrt w s
  | .frcp w => Sys2Proof.Machine.execFrcp w s
  | .frsq w => Sys2Proof.Machine.execFrsq w s
  | .fexp2 w => Sys2Proof.Machine.execFexp2 w s
  | .flog2 w => Sys2Proof.Machine.execFlog2 w s
  | .fsin w => Sys2Proof.Machine.execFsin w s
  | .fcos w => Sys2Proof.Machine.execFcos w s
  | .ftanh w => Sys2Proof.Machine.execFtanh w s
  | .icmpeq w => Sys2Proof.Machine.execIcmpeq w s
  | .icmpne w => Sys2Proof.Machine.execIcmpne w s
  | .icmplt w => Sys2Proof.Machine.execIcmplt w s
  | .icmple w => Sys2Proof.Machine.execIcmple w s
  | .icmpgt w => Sys2Proof.Machine.execIcmpgt w s
  | .icmpge w => Sys2Proof.Machine.execIcmpge w s
  | .fcmpeq w => Sys2Proof.Machine.execFcmpeq w s
  | .fcmpne w => Sys2Proof.Machine.execFcmpne w s
  | .fcmplt w => Sys2Proof.Machine.execFcmplt w s
  | .fcmple w => Sys2Proof.Machine.execFcmple w s
  | .fcmpgt w => Sys2Proof.Machine.execFcmpgt w s
  | .fcmpge w => Sys2Proof.Machine.execFcmpge w s
  | .fcmpun w => Sys2Proof.Machine.execFcmpun w s
  | .fcmpor w => Sys2Proof.Machine.execFcmpor w s
  | .pand w => Sys2Proof.Machine.execPand w s
  | .por w => Sys2Proof.Machine.execPor w s
  | .pxor w => Sys2Proof.Machine.execPxor w s
  | .pandn w => Sys2Proof.Machine.execPandn w s
  | .pnot w => Sys2Proof.Machine.execPnot w s
  | .emand w => Sys2Proof.Machine.execEmand w s
  | .emset w => Sys2Proof.Machine.execEmset w s
  | .emget w => Sys2Proof.Machine.execEmget w s
  | .laneSel w => Sys2Proof.Machine.execLaneSel w s
  | .cvt w => Sys2Proof.Machine.execCvt w s
  | .dot4 w => Sys2Proof.Machine.execDot4 w s
  | .dot8 w => Sys2Proof.Machine.execDot8 w s
  | .dot2 w => Sys2Proof.Machine.execDot2 w s
  | .scale w => Sys2Proof.Machine.execScale w s
  | .seed w => Sys2Proof.Machine.execSeed w s
  | .ldg w => Sys2Proof.Machine.execLdg w s
  | .stg w => Sys2Proof.Machine.execStg w s
  | .lds w => Sys2Proof.Machine.execLds w s
  | .sts w => Sys2Proof.Machine.execSts w s
  | .gaadd w => Sys2Proof.Machine.execGaadd w s
  | .gamin w => Sys2Proof.Machine.execGamin w s
  | .gamax w => Sys2Proof.Machine.execGamax w s
  | .gaand w => Sys2Proof.Machine.execGaand w s
  | .gaor w => Sys2Proof.Machine.execGaor w s
  | .gaxor w => Sys2Proof.Machine.execGaxor w s
  | .gaswap w => Sys2Proof.Machine.execGaswap w s
  | .gacas w => Sys2Proof.Machine.execGacas w s
  | .gafadd w => Sys2Proof.Machine.execGafadd w s
  | .laadd w => Sys2Proof.Machine.execLaadd w s
  | .lamin w => Sys2Proof.Machine.execLamin w s
  | .lamax w => Sys2Proof.Machine.execLamax w s
  | .laand w => Sys2Proof.Machine.execLaand w s
  | .laor w => Sys2Proof.Machine.execLaor w s
  | .laxor w => Sys2Proof.Machine.execLaxor w s
  | .laswap w => Sys2Proof.Machine.execLaswap w s
  | .lacas w => Sys2Proof.Machine.execLacas w s
  | .lafadd w => Sys2Proof.Machine.execLafadd w s
  | .shfl w => Sys2Proof.Machine.execShfl w s
  | .shflu w => Sys2Proof.Machine.execShflu w s
  | .shfld w => Sys2Proof.Machine.execShfld w s
  | .shflx w => Sys2Proof.Machine.execShflx w s
  | .ballot w => Sys2Proof.Machine.execBallot w s
  | .vany w => Sys2Proof.Machine.execVany w s
  | .vall w => Sys2Proof.Machine.execVall w s
  | .scanadd w => Sys2Proof.Machine.execScanadd w s
  | .scanmin w => Sys2Proof.Machine.execScanmin w s
  | .scanmax w => Sys2Proof.Machine.execScanmax w s
  | .redadd w => Sys2Proof.Machine.execRedadd w s
  | .redmin w => Sys2Proof.Machine.execRedmin w s
  | .redmax w => Sys2Proof.Machine.execRedmax w s
  | .topk w => Sys2Proof.Machine.execTopk w s
  | .clauseTake g => Sys2Proof.Machine.execClauseTake g s
  | .laneOpComplete g id => Sys2Proof.Machine.execLaneOpComplete g id s
  | .scalarResultArrival g id => Sys2Proof.Machine.execScalarResultArrival g id s
  | .lineFillComplete slot line => Sys2Proof.Machine.execLineFillComplete slot line s
  | .fenceComplete g => Sys2Proof.Machine.execFenceComplete g s
  | .roleSwitch g => Sys2Proof.Machine.execRoleSwitch g s
  | .pageRequestPost die => Sys2Proof.Machine.execPageRequestPost die s
  | .pageRequestReply die data => Sys2Proof.Machine.execPageRequestReply die data s
  | .pageRequestTimeout die req => Sys2Proof.Machine.execPageRequestTimeout die req s
  | .parkedReplay g => Sys2Proof.Machine.execParkedReplay g s
  | .prqbaseWrite die v => Sys2Proof.Machine.execPrqbaseWrite die v s
  | .prqheadWrite die v => Sys2Proof.Machine.execPrqheadWrite die v s
  | .engineInstructionComplete id => Sys2Proof.Machine.execEngineInstructionComplete id s
  | .publishExchange id => Sys2Proof.Machine.execPublishExchange id s
  | .tlbinvComplete id => Sys2Proof.Machine.execTlbinvComplete id s
  | .swapfExchange id => Sys2Proof.Machine.execSwapfExchange id s
  | .nredElement id e => Sys2Proof.Machine.execNredElement id e s
  | .cacheRangeComplete id => Sys2Proof.Machine.execCacheRangeComplete id s
  | .copy id => Sys2Proof.Machine.execCopy id s
  | .gather id => Sys2Proof.Machine.execGather id s
  | .scatter id => Sys2Proof.Machine.execScatter id s
  | .fill id => Sys2Proof.Machine.execFill id s
  | .convert id => Sys2Proof.Machine.execConvert id s
  | .copyInvalidOpc id => Sys2Proof.Machine.execCopyInvalidOpc id s
  | .copyCommandComplete id => Sys2Proof.Machine.execCopyCommandComplete id s
  | .lwArrival id k => Sys2Proof.Machine.execLwArrival id k s
  | .deckAdmission cluster => Sys2Proof.Machine.execDeckAdmission cluster s
  | .graceExpiry core => Sys2Proof.Machine.execGraceExpiry core s
  | .saveComplete core => Sys2Proof.Machine.execSaveComplete core s
  | .drainComplete deck => Sys2Proof.Machine.execDrainComplete deck s
  | .coreScrub core => Sys2Proof.Machine.execCoreScrub core s
  | .memoryPatrolScrub sector => Sys2Proof.Machine.execMemoryPatrolScrub sector s
  | .bankFlip core => Sys2Proof.Machine.execBankFlip core s
  | .bankTransfer core => Sys2Proof.Machine.execBankTransfer core s
  | .submitRecord p offset data => Sys2Proof.Machine.execSubmitRecord p offset data s
  | .registerContext p v => Sys2Proof.Machine.execRegisterContext p v s
  | .releaseContext p v => Sys2Proof.Machine.execReleaseContext p v s
  | .submitstatRead p => Sys2Proof.Machine.execSubmitstatRead p s
  | .hostCxlAccess x => Sys2Proof.Machine.execHostCxlAccess x s
  | .barRegisterWrite offset data => Sys2Proof.Machine.execBarRegisterWrite offset data s
  | .getStatus => Sys2Proof.Machine.execGetStatus s
  | .loadImage => Sys2Proof.Machine.execLoadImage s
  | .attest => Sys2Proof.Machine.execAttest s
  | .setPartitions => Sys2Proof.Machine.execSetPartitions s
  | .switchPartition => Sys2Proof.Machine.execSwitchPartition s
  | .setLimits => Sys2Proof.Machine.execSetLimits s
  | .keyTransport => Sys2Proof.Machine.execKeyTransport s
  | .keyLoad => Sys2Proof.Machine.execKeyLoad s
  | .keyClear => Sys2Proof.Machine.execKeyClear s
  | .unitReturn => Sys2Proof.Machine.execUnitReturn s
  | .unitKeepOut => Sys2Proof.Machine.execUnitKeepOut s
  | .releaseStop => Sys2Proof.Machine.execReleaseStop s
  | .mailboxUnknownCommand => Sys2Proof.Machine.execMailboxUnknownCommand s
  | .mailboxComplete => Sys2Proof.Machine.execMailboxComplete s
  | .fabricConfigJoin => Sys2Proof.Machine.execFabricConfigJoin s
  | .fabricConfigWindow => Sys2Proof.Machine.execFabricConfigWindow s
  | .fabricConfigPause => Sys2Proof.Machine.execFabricConfigPause s
  | .fabricConfigResume => Sys2Proof.Machine.execFabricConfigResume s
  | .fabricConfigStats => Sys2Proof.Machine.execFabricConfigStats s
  | .eventCounterSelectWrite i0 v => Sys2Proof.Machine.execEventCounterSelectWrite i0 v s
  | .eventCounterValueWrite i0 v => Sys2Proof.Machine.execEventCounterValueWrite i0 v s
  | .deviceReset => Sys2Proof.Machine.execDeviceReset s
  | .powerLoss => Sys2Proof.Machine.execPowerLoss s
  | .memoryTrainingDone result => Sys2Proof.Machine.execMemoryTrainingDone result s
  | .bootReady => Sys2Proof.Machine.execBootReady s
  | .bootWatchdogExpiry => Sys2Proof.Machine.execBootWatchdogExpiry s
  | .throttleStep => Sys2Proof.Machine.execThrottleStep s
  | .emergencyStop => Sys2Proof.Machine.execEmergencyStop s
  | .stackOverheat stack => Sys2Proof.Machine.execStackOverheat stack s
  | .ptpMessage port time inBounds => Sys2Proof.Machine.execPtpMessage port time inBounds s
  | .fabricQueueStore g => Sys2Proof.Machine.execFabricQueueStore g s
  | .fabricQueueCopy g => Sys2Proof.Machine.execFabricQueueCopy g s
  | .fabricQueueReduce g => Sys2Proof.Machine.execFabricQueueReduce g s
  | .fabricQueueBadKind g => Sys2Proof.Machine.execFabricQueueBadKind g s
  | .fabricOperationLeft id => Sys2Proof.Machine.execFabricOperationLeft id s
  | .fabricChunkArrival port p => Sys2Proof.Machine.execFabricChunkArrival port p s
  | .reduceChunkArrival port p => Sys2Proof.Machine.execReduceChunkArrival port p s
  | .remoteAtomicArrival port p => Sys2Proof.Machine.execRemoteAtomicArrival port p s
  | .fabricReplyArrival port r => Sys2Proof.Machine.execFabricReplyArrival port r s
  | .atomicValueReply port id v => Sys2Proof.Machine.execAtomicValueReply port id v s
  | .joinedMessage port m => Sys2Proof.Machine.execJoinedMessage port m s
  | .readyMessage port crossing => Sys2Proof.Machine.execReadyMessage port crossing s
  | .refusedMessage port crossing => Sys2Proof.Machine.execRefusedMessage port crossing s
  | .pauseMessage port crossing stop => Sys2Proof.Machine.execPauseMessage port crossing stop s
  | .pauseDrained crossing => Sys2Proof.Machine.execPauseDrained crossing s
  | .pausedMessage port crossing source highest => Sys2Proof.Machine.execPausedMessage port crossing source highest s
  | .switchMessage port crossing => Sys2Proof.Machine.execSwitchMessage port crossing s
  | .resumeMessage port crossing => Sys2Proof.Machine.execResumeMessage port crossing s
  | .routingToken g => Sys2Proof.Machine.execRoutingToken g s
  | .routingOpen g => Sys2Proof.Machine.execRoutingOpen g s
  | .routingClose g => Sys2Proof.Machine.execRoutingClose g s
  | .routingBadRecord g => Sys2Proof.Machine.execRoutingBadRecord g s
  | .routingHeaderArrival port h => Sys2Proof.Machine.execRoutingHeaderArrival port h s
  | .routingRound1Close session => Sys2Proof.Machine.execRoutingRound1Close session s
  | .routingRound2Close session => Sys2Proof.Machine.execRoutingRound2Close session s
  | .tapeAppend session => Sys2Proof.Machine.execTapeAppend session s
  | .routingDecisionArrival port d => Sys2Proof.Machine.execRoutingDecisionArrival port d s
  | .routingPayloadArrival port p => Sys2Proof.Machine.execRoutingPayloadArrival port p s
  | .placementAcknowledgement port id chunk source => Sys2Proof.Machine.execPlacementAcknowledgement port id chunk source s
  | .flitRetry port => Sys2Proof.Machine.execFlitRetry port s
  | .cxlLinkEnabled ok => Sys2Proof.Machine.execCxlLinkEnabled ok s
  | .fabricPortTraining port ok => Sys2Proof.Machine.execFabricPortTraining port ok s
  | .registrationComplete p => Sys2Proof.Machine.execRegistrationComplete p s

end Sys2Proof.Machine
end

