-- ==== Sys2Proof/Machine/LaneRun.lean ====
section
/-! DEFINITION. The meaning of a lane word by its opcode: the same meanings that Dispatch calls, reached without building a term
of the large instruction type. -/

namespace Sys2Proof.Machine

/-- What a lane word does. -/
def laneRun (op : LaneOp) (w : LaneWord) (s : State) : Out :=
  match op with
  | .iadd => execIadd w s
  | .isub => execIsub w s
  | .imul => execImul w s
  | .imulh => execImulh w s
  | .imad => execImad w s
  | .imin => execImin w s
  | .imax => execImax w s
  | .iabs => execIabs w s
  | .ineg => execIneg w s
  | .iand => execIand w s
  | .ior => execIor w s
  | .ixor => execIxor w s
  | .iandn => execIandn w s
  | .ishl => execIshl w s
  | .ishr => execIshr w s
  | .iclz => execIclz w s
  | .ipopc => execIpopc w s
  | .ibfe => execIbfe w s
  | .ibfi => execIbfi w s
  | .imov => execImov w s
  | .lnop => execLnop w s
  | .fadd => execFadd w s
  | .fsub => execFsub w s
  | .fmul => execFmul w s
  | .ffma => execFfma w s
  | .fdiv => execFdiv w s
  | .fmin => execFmin w s
  | .fmax => execFmax w s
  | .fabs => execFabs w s
  | .fneg => execFneg w s
  | .frnd => execFrnd w s
  | .fsqrt => execFsqrt w s
  | .frcp => execFrcp w s
  | .frsq => execFrsq w s
  | .fexp2 => execFexp2 w s
  | .flog2 => execFlog2 w s
  | .fsin => execFsin w s
  | .fcos => execFcos w s
  | .ftanh => execFtanh w s
  | .icmpeq => execIcmpeq w s
  | .icmpne => execIcmpne w s
  | .icmplt => execIcmplt w s
  | .icmple => execIcmple w s
  | .icmpgt => execIcmpgt w s
  | .icmpge => execIcmpge w s
  | .fcmpeq => execFcmpeq w s
  | .fcmpne => execFcmpne w s
  | .fcmplt => execFcmplt w s
  | .fcmple => execFcmple w s
  | .fcmpgt => execFcmpgt w s
  | .fcmpge => execFcmpge w s
  | .fcmpun => execFcmpun w s
  | .fcmpor => execFcmpor w s
  | .pand => execPand w s
  | .por => execPor w s
  | .pxor => execPxor w s
  | .pandn => execPandn w s
  | .pnot => execPnot w s
  | .emand => execEmand w s
  | .emset => execEmset w s
  | .emget => execEmget w s
  | .laneSel => execLaneSel w s
  | .cvt => execCvt w s
  | .dot4 => execDot4 w s
  | .dot8 => execDot8 w s
  | .dot2 => execDot2 w s
  | .scale => execScale w s
  | .seed => execSeed w s
  | .ldg => execLdg w s
  | .stg => execStg w s
  | .lds => execLds w s
  | .sts => execSts w s
  | .gaadd => execGaadd w s
  | .gamin => execGamin w s
  | .gamax => execGamax w s
  | .gaand => execGaand w s
  | .gaor => execGaor w s
  | .gaxor => execGaxor w s
  | .gaswap => execGaswap w s
  | .gacas => execGacas w s
  | .gafadd => execGafadd w s
  | .laadd => execLaadd w s
  | .lamin => execLamin w s
  | .lamax => execLamax w s
  | .laand => execLaand w s
  | .laor => execLaor w s
  | .laxor => execLaxor w s
  | .laswap => execLaswap w s
  | .lacas => execLacas w s
  | .lafadd => execLafadd w s
  | .shfl => execShfl w s
  | .shflu => execShflu w s
  | .shfld => execShfld w s
  | .shflx => execShflx w s
  | .ballot => execBallot w s
  | .vany => execVany w s
  | .vall => execVall w s
  | .scanadd => execScanadd w s
  | .scanmin => execScanmin w s
  | .scanmax => execScanmax w s
  | .redadd => execRedadd w s
  | .redmin => execRedmin w s
  | .redmax => execRedmax w s
  | .topk => execTopk w s

end Sys2Proof.Machine
end

