-- ==== Sys2Proof/Machine/Streams.lean ====
section
/-! DEFINITION. One turn of a stream: the slot's choice of a fibre (R39, R40), the fetch of the next word (R118), its decoding (R59, R60) and the
call of its meaning. -/

namespace Sys2Proof.Machine

/-- A slot whose current fibre is neither ready nor holds it hands on (R39). -/
def settleSlot (s : State) (sk : Nat) : State :=
  let n := sk * 4 + (slotOf s sk).current
  if ready s n then s else switch s n

/-- Whether a fibre is the current one of its slot. -/
def isCurrent (s : State) (fk : Nat) : Bool := (slotOf s (slotOfFibre fk)).current == fk % 4

/-- A wait that FWAIT or CLSWAIT left past SPC is over (R132). -/
def Fibre.passWait (f : Fibre) : Fibre := if f.issuedWait.isSome then { f with sWait := none } else f

/-- The word that the scalar stream of the current fibre decodes next: the one kept by an instruction that waits at SPC, else the one fetched
at SPC. None where the fetch has failed. -/
def nextScalarWord (h : Here) (t : State) : State × Option (BitVec 32) :=
  if (h.f.passWait).sWait.isSome then (t, some h.f.waitWord)
  else
    let u := onCur t Fibre.passWait
    match fetch u u.cur h.w h.env h.f.spc 4 with
    | (v, .error (a, x)) => (fetchFail v (h.f.passWait) false a x, none)
    | (v, .ok n) => (fetched v false, some (BitVec.ofNat 32 n))

/-- A scalar word runs: the meaning of the instruction that it decodes to, or ILLEGAL_INSTR (R60). -/
def runScalarWord (word : BitVec 32) (s : State) : Out :=
  let t := { s with latch := word.setWidth 96 }
  match decodeScalar word with
  | .ok i => exec i t
  | .error sub => execIllegalInstr (word.setWidth 96) false sub t

/-- A lane word runs. -/
def runLaneWord (word : BitVec 96) (s : State) : Out :=
  let t := { s with latch := word }
  match decodeLane word with
  | .ok (op, w) => laneRun op w t
  | .error sub => execIllegalInstr word true sub t

/-- A landing word's generation may have been written by an ordinary store: what waits for it is released (R209). -/
def settleLandings (s : State) : State :=
  (distinct (s.fibres.filterMap (fun e => match e.2.sWait with | some (.landing p _) => some p | _ => none) ++ s.launches.map (·.place))).foldl
    (fun t p =>
      let key := if inStore p then none else lookup t.ciphered (p / 64)
      afterGen t p (readWord t p key).gen) s

/-- A turn of the scalar stream of fibre `fk`: nothing where it is not its slot's current fibre or its stream is not ready. -/
def scalarTurn (fk : Nat) (s : State) : Out :=
  let t := { settleSlot s (slotOfFibre fk) with cur := fk, latch := 0#96 }
  match here t with
  | none => .next s
  | some h =>
    if !isCurrent t fk || !scalarReady t fk h.f then .next t
    else
      match nextScalarWord h t with
      | (u, none) => .next u
      | (u, some word) => runScalarWord word u

/-- The clause taken starts: its WAIT flags are clear (R51). -/
def Fibre.startClause (f : Fibre) : Fibre := { f with running := f.running.map (fun r => { r with started := true }) }

/-- A turn of the lane stream of fibre `fk`: CLAUSE_TAKE first, then one word at a time (R21, R51). -/
def laneTurn (fk : Nat) (s : State) : Out :=
  let t := { settleSlot s (slotOfFibre fk) with cur := fk, latch := 0#96 }
  match here t with
  | none => .next s
  | some h =>
    if !isCurrent t fk || !laneReady t fk h.f then .next t
    else if h.f.running.isNone then execClauseTake fk t
    else
      let u := onCur t Fibre.startClause
      match fetch u fk h.w h.env h.f.lpc 12 with
      | (v, .error (a, x)) => .next (fetchFail v h.f true a x)
      | (v, .ok n) => runLaneWord (BitVec.ofNat 96 n) (fetched v true)

end Sys2Proof.Machine
end

