-- ==== Sys2Proof/Machine/Turns.lean ====
section
/-! DEFINITION. Turns: which agent acts in a step, what arrives from outside, storage upsets (R217, R269, R270, R295), and the passing of
time with the counters that count clocks (R221, R271, R299, R303, R335, R377, R378, R385). -/

namespace Sys2Proof.Machine

/-! ### Storage upsets -/

/-- Bad bits join those that a unit has. -/
def addBits (t : Tab Nat) (u bits : Nat) : Tab Nat := if bits = 0 then t else put t u (lookupD t u 0 + bits)

/-- Bits of a sector upset: one that is upset again is good again. -/
def flipBits (l bits : List Nat) : List Nat := bits.foldl (fun l b => if b % 512 ∈ l then l.filter (· != b % 512) else b % 512 :: l) l

/-- An upset of a sector of device memory (R295): it is met by the next access to it, or by the patrol scrubber. -/
def upsetMemory (s : State) (sector : Nat) (bits : List Nat) : State :=
  let l := flipBits (lookupD s.memLatent sector []) bits
  { s with memLatent := if l.isEmpty then del s.memLatent sector else put s.memLatent sector l }

/-- An upset of a core store (R217): its unit, or a unit of the register lines of a slot, has bad bits until it is read or written whole. -/
def upsetStore (s : State) (core side unit bits : Nat) : State :=
  if unit < 2 ^ 19 then
    if (offsetStore (8 * unit)).isSome then onBank s (side * 1024 + core) (fun b => { b with latent := addBits b.latent unit bits }) else s
  else
    let sk := side * 16384 + core * 16 + (unit - 2 ^ 19) / 4096 % 16
    { s with slots := put s.slots sk { slotOf s sk with latent := addBits (slotOf s sk).latent (unit % 4096) bits } }

/-- A dirty sector of an L2 slice is written home, its home bytes poisoned: an uncorrectable error (R269, R361). -/
def poisonHome (s : State) (sector : Nat) : State :=
  if inDevice (sector * 64) then poisonSector s sector
  else { s with poison := if sector ∈ s.poison then s.poison else sector :: s.poison, msix := 17 :: s.msix }

/-- An upset of a sector that an L2 slice holds (R269): corrected, fetched again where it is clean, or written home poisoned where it is dirty. -/
def upsetL2 (s : State) (cluster sector bits : Nat) : State :=
  let here (x : L2Line) : Bool := x.cluster == cluster && x.line == sector / 2 && x.valid.getLsbD (sector % 2)
  match s.l2.find? here with
  | none => s
  | some x =>
    if bits = 0 then s
    else if bits = 1 then countCluster s cluster 0x0F 1
    else if x.dirty.getLsbD (sector % 2) then
      let clean (y : L2Line) : L2Line := if here y then { y with dirty := y.dirty &&& ~~~(BitVec.twoPow 2 (sector % 2)) } else y
      countCluster (poisonHome { s with l2 := s.l2.map clean } sector) cluster 0x11 1
    else countCluster s cluster 0x10 1

/-- The contexts of crews on a cluster, in either bank. -/
def clusterContexts (s : State) (c : Nat) : List Nat :=
  distinct ((s.crews.filter (fun w => w.1 % 1024 / 8 == c)).map (·.2.ctx))

/-- A sailing is lost (R270): its decks drain, the members that an image holds with them, and what is queued, held or saved of it goes. -/
def loseContext (s : State) (n : Nat) : State :=
  let t := ((s.decks.filter (fun d => d.2.ctx == n)).map (·.1)).foldl (fun u d => killMembers u d .lost) s
  settleSailing { t with
    queue := t.queue.filter (fun q => q.ctx != n)
    launches := t.launches.filter (fun x => x.ctx != n)
    saved := t.saved.filter (fun x => x.1 / 4096 != n || x.2.home.isSome) } n

/-- A cluster's tags have failed in both copies: it is reported, and leaves service (R270). -/
def loseCluster (s : State) (c : Nat) : State :=
  if clusterOut s c then s
  else
    let here := (s.crews.filter (fun w => w.1 % 1024 / 8 == c)).map (·.1)
    let t := here.foldl killDeck s
    let u := { t with lost := c :: t.lost, msix := 17 :: t.msix, reports := .cluster c :: t.reports, l2 := t.l2.filter (fun x => x.cluster != c) }
    moveQueued ((clusterContexts u c).foldl loseContext u) c

/-! ### Which turn is taken -/

/-- Whether an instruction of the table is an operation or event: it is no word of a stream. -/
def Instr.isEvent (i : Instr) : Bool :=
  match i with
  | .illegalInstr .. => false
  | _ => (encode i).isNone

/-- One turn. A word of a stream runs by a turn of its stream alone. -/
def runTurn (t : Turn) (s : State) : Out :=
  match t with
  | .scalar g => scalarTurn g s
  | .lane g => laneTurn g s
  | .event i => if Instr.isEvent i then exec i s else .next s
  | .idle => .next s
  | .payload id => payloadTurn id s
  | .upset core side unit bits => .next (upsetStore s (core % 1024) (side % 2) unit bits)
  | .memUpset sector bits => .next (upsetMemory s (sector % 2 ^ 34) bits)
  | .l2Upset cluster sector bits => .next (upsetL2 s (cluster % 128) sector bits)
  | .tagFault cluster => .next (loseCluster s (cluster % 128))
  | .barRead offset n => .next (readBar s offset n)
  | .setRange base => .next { s with rangeBase := base }
  | .sense r => .next { s with health := { s.health with junction := r.junction, stack := r.stack, power := r.power } }

/-- What a fibre may do next by itself. -/
def fibreTurns (e : Nat × Fibre) : List (State → Out) :=
  let g := e.1
  let f := e.2
  [scalarTurn g, laneTurn g] ++ (if f.fence.isSome then [execFenceComplete g] else []) ++
    (if f.parked.isSome then [execParkedReplay g] else []) ++ (if f.sWait.isSome then [execRoleSwitch g] else []) ++
    f.lpend.map (fun p => execLaneOpComplete g p.id) ++ f.spend.map (fun p => execScalarResultArrival g p.id) ++
    (match f.sStall with | some (.lineMiss m, _) => [execLineFillComplete (slotOfFibre g) m] | _ => []) ++
    (match f.lStall with | some (.lineMiss m, _) => [execLineFillComplete (slotOfFibre g) m] | _ => []) ++
    (if f.q2.isEmpty then [] else [execFabricQueueStore g, execFabricQueueCopy g, execFabricQueueReduce g, execFabricQueueBadKind g]) ++
    (if f.q4.isEmpty then [] else [execRoutingToken g, execRoutingOpen g, execRoutingClose g, execRoutingBadRecord g])

/-- What an operation in progress may do next. -/
def engineTurns (e : Nat × Engine) : List (State → Out) :=
  let id := e.1
  match e.2.op with
  | .publish .. => [execPublishExchange id]
  | .cache .. => [execCacheRangeComplete id]
  | .tlbInvalidate .. => [execTlbinvComplete id]
  | .swap .. => [execSwapfExchange id]
  | .nred _ _ _ left => left.map (execNredElement id)
  | .copy .. =>
    [execCopy id, execGather id, execScatter id, execFill id, execConvert id, execCopyInvalidOpc id, execCopyCommandComplete id] ++
      e.2.arrivals.map (fun a => execLwArrival id a.k)
  | _ => [execEngineInstructionComplete id]

/-- What the scheduler, the banks and the dies may do next. -/
def coreTurns (s : State) : List (State → Out) :=
  (distinct (s.queue.map (·.cluster))).map execDeckAdmission ++
    s.crews.flatMap (fun w => [execGraceExpiry (w.1 % 1024), execSaveComplete (w.1 % 1024)]) ++
    (s.decks.map (·.1)).map execDrainComplete ++
    (s.cores.filter (fun c => c.2.flipWanted)).map (fun c => execBankFlip c.1) ++
    (s.banks.map (fun b => execBankTransfer (b.1 % 1024))) ++ (s.saved.filterMap (fun x => x.2.home.map (fun bk => execBankTransfer (bk % 1024)))) ++
    (s.banks.filter (fun b => !b.2.latent.isEmpty)).map (fun b => execCoreScrub (b.1 % 1024)) ++
    (s.slots.filter (fun x => !x.2.latent.isEmpty)).map (fun x => execCoreScrub (coreOfSlot x.1)) ++
    s.memLatent.map (fun x => execMemoryPatrolScrub x.1) ++
    s.dies.flatMap (fun d => execPageRequestPost d.1 :: d.2.requests.map (fun r => execPageRequestTimeout d.1 r.number))

/-- What the mailbox, boot and the sensors may do next. -/
def firmwareTurns (s : State) : List (State → Out) :=
  (if !s.mailbox.busy then []
    else [execGetStatus, execLoadImage, execAttest, execSetPartitions, execSwitchPartition, execSetLimits, execKeyTransport, execKeyLoad, execKeyClear,
      execUnitReturn, execUnitKeepOut, execReleaseStop, execMailboxUnknownCommand, execMailboxComplete, execFabricConfigJoin, execFabricConfigWindow,
      execFabricConfigPause, execFabricConfigResume, execFabricConfigStats]) ++
    ((List.range 8).filter (fun p => match s.submissions[p]? with | some x => x.dbusy | none => false)).map execRegistrationComplete ++
    (if s.boot.stage = 5 then [execBootReady] else []) ++ (if 3 ≤ s.boot.stage ∧ s.boot.stage < 6 then [execBootWatchdogExpiry] else []) ++
    (if 6 ≤ s.boot.stage then [execThrottleStep, execEmergencyStop] else [])

/-- What the fabric and the routing engines may do next. -/
def fabricTurns (s : State) : List (State → Out) :=
  (s.fabricOps.map (·.1)).map execFabricOperationLeft ++ (s.pauses.map (·.1)).map execPauseDrained ++ (s.tokens.map (·.1)).map payloadTurn ++
    s.sessions.flatMap (fun x => [execRoutingRound1Close x.number, execRoutingRound2Close x.number, execTapeAppend x.number])

/-- Everything that the part may do next without a stimulus from outside. No rule orders its agents. -/
def ownTurns (s : State) : List (State → Out) :=
  s.fibres.flatMap fibreTurns ++ s.engines.flatMap engineTurns ++ coreTurns s ++ firmwareTurns s ++ fabricTurns s

/-- The turn of a step whose agenda is empty: a free choice among the part's own turns. -/
def ownTurn (s : State) : Out :=
  match (ownTurns s)[Config.order s.tick % (ownTurns s).length]? with
  | some go => go s
  | none => .next s

/-! ### Clocks counted (R221, R271, R299, R377, R378) -/

/-- Whether a slot is held by a stalled stream (R40). -/
def slotHeld (s : State) (sk : Nat) : Bool :=
  (slotFibres s sk).any (fun fk => match lookup s.fibres fk with
    | none => false
    | some f => decide (fk % 4 = (slotOf s sk).current) &&
      ((match f.sStall with | some (_, sw) => !sw | none => false) || (match f.lStall with | some (_, sw) => !sw | none => false)))

/-- The clocks of a step that a core's source counts. -/
def coreClocks (s : State) (g source n : Nat) : Nat :=
  let bk := activeBank s g
  let mine (p : Fibre → Bool) : Bool := s.fibres.any (fun e => bankOfFibre e.1 == bk && p e.2)
  let yes :=
    match source with
    | 0x00 => (bankOf s bk).state == .running
    | 0x05 => (List.range 16).any (fun j => slotHeld s (bk / 1024 * 16384 + g * 16 + j))
    | 0x09 => s.engines.any (fun e => e.2.bank % 1024 == g && e.2.op.matrix)
    | 0x11 => mine (fun f => match f.sWait with | some (.cbar _ _) => true | _ => false)
    | _ => false
  if !(coreOf s g).retired && yes then n else 0

/-- The clocks and unpredicted events of a step that a cluster's source counts. -/
def clusterClocks (s : State) (c source n : Nat) : Nat :=
  if clusterOut s c then 0
  else
    match source with
    | 0x09 => if s.fibres.any (fun e => coreOfFibre e.1 / 8 == c && (match e.2.sWait with | some (.dbar _ _) => true | _ => false)) then n else 0
    | 0x00 | 0x01 | 0x02 | 0x03 | 0x0E => Config.unpredicted s.tick (c * 256 + source)
    | _ => 0

/-- Whether an access of a fibre waits on a block that a swap copies (R291). -/
def Fibre.awaitsSwap (f : Fibre) : Bool :=
  (match f.sStall with | some (.copying _, _) => true | _ => false) || (match f.lStall with | some (.copying _, _) => true | _ => false)

/-- The clocks and unpredicted events of a step that a die's or a memory controller's source counts. -/
def dieClocks (s : State) (d source n : Nat) : Nat :=
  if source = 9 then (if s.fibres.any (fun e => coreOfFibre e.1 / 128 == d && e.2.awaitsSwap) then n else 0)
  else if source = 0 ∨ source = 1 ∨ source = 2 ∨ source = 0x80 ∨ source = 0x81 ∨ source = 0x90 ∨ source = 0x91 then
    Config.unpredicted s.tick (2 ^ 20 + d * 256 + source)
  else 0

/-- The clocks of a step that a package source counts: those that pass, those below the set frequency, and the waits of a package that is out of
its time bound (R367, R385). -/
def packageClocks (s : State) (source n : Nat) : Nat :=
  let slow := s.health.dieClock.toList.any (fun f => decide (f < s.health.clockLimit)) || !inBounds s
  if source = 0 ∨ (source = 4 ∧ slow) then n else 0

/-- What a step adds to a counter. -/
def counterClocks (s : State) (n : Nat) (c : Counter) : Nat :=
  let source := wfld c.select 0 8
  let unit := wfld c.select 8 16
  let across (count : Nat) (f : Nat → Nat) : Nat :=
    if wfld c.select 62 1 = 1 then ((List.range count).map f).sum else if unit < count then f unit else 0
  if wfld c.select 63 1 = 0 then 0
  else
    match wfld c.select 24 3 with
    | 3 => across 1024 (fun g => coreClocks s g source n)
    | 4 => across 128 (fun k => clusterClocks s k source n)
    | 5 => across 8 (fun d => dieClocks s d source n)
    | 6 => if wfld c.select 62 1 = 1 ∨ unit = 0 then packageClocks s source n else 0
    | _ => 0

/-- A counter after the clocks of a step. -/
def Counter.pass (s : State) (n : Nat) (c : Counter) : Counter :=
  let total := wfld c.value 0 48 + counterClocks s n c
  let ovf := if 2 ^ 48 ≤ total then 1 else wfld c.value 63 1
  if wfld c.select 63 1 = 0 then c else { c with value := BitVec.ofNat 64 (ovf * 2 ^ 63 + total % 2 ^ 48) }

/-- A crew's grace clock stands still while the crew is halted (R216). -/
def Crew.hold (w : Crew) (n : Nat) : Crew := if w.g then { w with graceClock := w.graceClock + n } else w

/-- Time passes: a free number of clocks and nanoseconds. -/
def passTime (s : State) : State :=
  let n := Config.clockStep s.tick
  { s with
    tick := s.tick + 1
    clock := s.clock + n
    time := s.time + Config.timeStep s.tick
    ptp := if s.ptp = 0#64 then 0#64 else s.ptp + BitVec.ofNat 64 (Config.timeStep s.tick)
    counters := s.counters.map (Counter.pass s n)
    crews := s.crews.map (fun w => if crewRuns s w.1 w.2 then w else (w.1, w.2.hold n))
    saved := s.saved.map (fun x => if x.2.home.isSome then (x.1, { x.2 with crew := x.2.crew.hold n }) else x) }

/-- What follows a turn: releases by landing words, and time. -/
def afterTurn (o : Out) : Out :=
  match o with
  | .next s => .next (passTime (settleLandings s))
  | .fault x => .fault x
  | .refused x => .refused x

end Sys2Proof.Machine
end

