-- ==== Sys2Proof/Machine/Step.lean ====
section
/-! DEFINITION. One step of the package: the turn at the head of the agenda, or a turn of the part's own choosing, and what follows every turn. -/

namespace Sys2Proof.Machine

/-- One step. -/
def step (s : State) : Host.Outcome State Fault Refusal :=
  match s.agenda with
  | t :: rest => afterTurn (runTurn t { s with agenda := rest })
  | [] => afterTurn (ownTurn s)

/-- An instruction placed where the next step fetches: up to 32 bits a scalar word, more a lane word of a clause that has been taken. -/
def State.withFetchWord (s : State) (nbits w : Nat) : State :=
  if nbits ≤ 32 then loadProgram s false 4 (w % 2 ^ nbits) else loadProgram s true 12 (w % 2 ^ nbits)

end Sys2Proof.Machine
end

