-- ==== Sys2Proof/Safety.lean ====
section
/-! DEFINITION. What counts as a safe run, and the terms that statements about one instruction use: who runs it, and what it leaves as it was. -/

namespace Sys2Proof.Machine

/-- The outcome is a next state. -/
def goesOn (o : Out) : Bool :=
  match o with
  | .next _ => true
  | .fault _ => false
  | .refused _ => false

/-- Memory and the store of every bank are in canonical form. -/
def Canonical (s : State) : Prop :=
  Memory.wf s.mem = true ∧ ∀ k b, lookup s.banks k = some b → Memory.wf b.store = true

/-- `k` steps answer a next state. -/
def State.runs (s : State) (k : Nat) : Prop := ∃ t, Sys2Proof.core.run k s = .next t

/-! ### Who runs -/

/-- The current fibre is `f`, of a crew `w` of a registered context. -/
def Runs (s : State) (f : Fibre) (w : Crew) : Prop :=
  lookup s.fibres s.cur = some f ∧ lookup s.crews (bankOfFibre s.cur) = some w ∧ (lookup s.contexts w.ctx).isSome = true

/-- No result of a register that an instruction reads is outstanding (R24, R115). -/
def Ready (f : Fibre) (reads : List (BitVec 6)) : Prop := ∀ r ∈ reads, f.outstanding r = false

/-! ### What an instruction leaves as it was -/

/-- A crew but for what the issue of an instruction may change of it: budgets, grace and the notice of grace (R334, R335, R347). -/
def Crew.calm (w : Crew) : Crew :=
  { w with bi := 0, bm := 0, g := false, grace := 0, graceClock := 0, notices := [], noticesLost := false }

/-- The crews are as they were but for budgets, grace and its notices; the crew of bank `bk` has been charged `bi` and `bm`, and
no other crew anything (R334). -/
def CrewsCharged (s t : State) (bk bi bm : Nat) : Prop :=
  (∀ k, (lookup t.crews k).map Crew.calm = (lookup s.crews k).map Crew.calm) ∧
    ∀ k, (lookup t.crews k).map (fun w => (w.bi.toNat, w.bm.toNat)) =
      (lookup s.crews k).map (fun w => if k = bk then (w.bi.toNat - bi, w.bm.toNat - bm) else (w.bi.toNat, w.bm.toNat))

/-- The current fibre of `s` has become `f'` in `t`, a charge of `bi` and `bm` has been made, events may have been counted, and
nothing else has changed: no other fibre, no register line, no byte of memory or of a store, no other state. -/
def Becomes (s t : State) (f' : Fibre) (bi bm : Nat) : Prop :=
  lookup t.fibres s.cur = some f' ∧ (∀ k, k ≠ s.cur → lookup t.fibres k = lookup s.fibres k) ∧
    CrewsCharged s t (bankOfFibre s.cur) bi bm ∧
    { t with fibres := s.fibres, crews := s.crews, counters := s.counters } = s ∧ ∀ p, byteAt t p = byteAt s p

/-- The fibre of an instruction that has just issued: no stall is left, and one more counts past a pending FENCE (R38, R311). -/
def Fibre.issued (f : Fibre) : Fibre :=
  { f with sStall := none, fence := f.fence.map (fun x => { x with issued := x.issued + 1 }) }

/-- A fibre but for what every scalar instruction changes: its scalar registers with the results outstanding, SPC, what a stall
recorded, the count of instructions past a FENCE, and the number that the model gives its next result. -/
def Fibre.still (f : Fibre) : Fibre :=
  { f with sregs := Vector.replicate 64 0, spend := [], nextId := 0, spc := 0, sStall := none, fence := f.fence.map (fun x => { x with issued := 0 }) }

/-- The results of `s`r that are outstanding and not discarded (R115). -/
def Fibre.due (f : Fibre) (r : BitVec 6) : List ScalarPending := f.spend.filter (fun p => p.live && p.dest == r)

/-- `f'` is `f` after an instruction that wrote `v` to `s`d and nothing else: the next instruction follows (R25, R114). -/
def Wrote (f f' : Fibre) (d : BitVec 6) (v : Word) : Prop :=
  (∀ r, f'.readS r = if r = d ∧ r ≠ 0#6 then v else f.readS r) ∧ f'.spc = f.spc + 4#64 ∧ f'.still = f.still ∧
    ∀ r, r ≠ d → f'.due r = f.due r

/-- `f'` is `f` with another SPC, and no register written. -/
def WentTo (f f' : Fibre) (target : Word) : Prop :=
  (∀ r, f'.readS r = f.readS r) ∧ f'.spc = target ∧ f'.still = f.still ∧ ∀ r, f'.due r = f.due r

/-- `f'` is `f` after an instruction whose result `v` for `s`d is outstanding: no register is written yet (R24, R115). -/
def Awaits (f f' : Fibre) (d : BitVec 6) (v : Word) : Prop :=
  (∀ r, f'.readS r = f.readS r) ∧ f'.spc = f.spc + 4#64 ∧ f'.still = f.still ∧ (∀ r, r ≠ d → f'.due r = f.due r) ∧
    (d ≠ 0#6 → (f'.due d).map (fun p => p.value) = [some v])

/-- `Becomes` of a wait that hands the slot on (R39): the slot's current fibre may have changed too. -/
def HandsOn (s t : State) (f' : Fibre) (bi bm : Nat) : Prop :=
  lookup t.fibres s.cur = some f' ∧ (∀ k, k ≠ s.cur → lookup t.fibres k = lookup s.fibres k) ∧
    CrewsCharged s t (bankOfFibre s.cur) bi bm ∧ (∀ k, { slotOf t k with current := 0 } = { slotOf s k with current := 0 }) ∧
    { t with fibres := s.fibres, crews := s.crews, counters := s.counters, slots := s.slots } = s ∧ ∀ p, byteAt t p = byteAt s p

/-! ### Accesses -/

/-- No error waits in the unit or sector of a place, and it is not poisoned (R217, R295, R296). -/
def Clean (s : State) (p : Nat) : Prop :=
  unitPoisoned s p = false ∧
    if inStore p then lookup (bankOf s (placeBank p)).latent (placeOffset p / 8) = none else lookup s.memLatent (p / 64) = none

/-- The spots of an access reach places, all clean, that their mappings read as `bytes`. -/
def Sound (s : State) (l : List Spot) (bytes : List Byte) : Prop :=
  l.map (fun x => x.place.bind (fun p => viewByte s p x.page.key)) = bytes.map some ∧
    ∀ x ∈ l, ∀ p, x.place = some p → Clean s p

/-- The crews are as they were but for what an issue may change of them. -/
def CrewsCalm (s u : State) : Prop :=
  (∀ k, (lookup u.crews k).map Crew.calm = (lookup s.crews k).map Crew.calm) ∧
    ∀ x, x ∈ u.crews.map (fun x => (x.1, x.2.calm)) ↔ x ∈ s.crews.map (fun x => (x.1, x.2.calm))

/-- Two states that differ only in fibres, in what an issue changes of crews, in counters, and in what the TLBs and the L2 slices hold. -/
def SameSight (s u : State) : Prop :=
  { u with fibres := s.fibres, crews := s.crews, counters := s.counters, tlb := s.tlb, l2 := s.l2 } = s ∧ CrewsCalm s u

/-- The walks for `n` bytes at an address meet no error (R295, R296). -/
def Walks (s : State) (e : Env) (v : Word) (n : Nat) : Prop := ∀ u, SameSight s u → walkedRange u e v n = u

/-- What an access of the current fibre or of an engine reads at spots, all of them clean: through the window of a tile or an accumulator, and where no
rule states a byte, this is what the model leaves free (R203, R429). -/
def Seen (s : State) (l : List Spot) (bytes : List Byte) : Prop :=
  (∀ u, SameSight s u → l.map (fun x => x.place.bind (fun p => seenByte u p x.page.key)) = bytes.map some) ∧
    ∀ x ∈ l, ∀ p, x.place = some p → Clean s p

/-- Every byte of memory and of every store reads the same through every mapping. -/
def ReadsSame (s t : State) : Prop := ∀ p key, viewByte t p key = viewByte s p key

/-- The state but for fibres, crews, event counters, cached translations and the lines that the L2 slices hold. -/
def Unchanged (s t : State) : Prop :=
  { t with fibres := s.fibres, crews := s.crews, counters := s.counters, tlb := s.tlb, l2 := s.l2 } = s

/-- An outstanding operation but for what a later write to a tile or an accumulator leaves of it (R203, R226). -/
def Engine.unwritten (e : Engine) : Engine := { e with kept := [], lost := [] }

/-- The outstanding operations are as they were, but for what a write to their tiles and accumulators leaves of them. -/
def EnginesKept (s t : State) : Prop := ∀ k, (lookup t.engines k).map Engine.unwritten = (lookup s.engines k).map Engine.unwritten

/-- What a store leaves outside what a write may change: fibres that a conflict rolls back, bytes and their stored forms, the errors and poison
that it clears, the sectors whose tag it makes fail, and the lines of the L2 slices (R217, R259, R296, R298, R312). -/
def StoredOnly (s t : State) : Prop :=
  { t with fibres := s.fibres, crews := s.crews, counters := s.counters, tlb := s.tlb, mem := s.mem, memLatent := s.memLatent, poison := s.poison,
           ciphered := s.ciphered, plainSectors := s.plainSectors, banks := s.banks, slots := s.slots, msix := s.msix, reports := s.reports,
           l2 := s.l2, engines := s.engines } = s ∧ EnginesKept s t

/-- A scalar access of `n` bytes at a virtual address translates to spots, its walks meet no error, and nothing delays it (R137, R291, R296, R311). -/
def Reaches (s : State) (f : Fibre) (w : Crew) (addr : Word) (n : Nat) (d : Deed) (l : List Spot) : Prop :=
  (∃ e, envOf s w = some e ∧ spots s e addr n d.want false = .ok l ∧ walkedRange s e addr n = s) ∧ f.fence = none ∧ f.sReplay = none ∧
    accessDelay s s.cur f false d 1 [.ok l] = none

/-- A scalar access of `n` bytes at a local address reaches spots, and nothing delays it (R138, R203). -/
def ReachesLocal (s : State) (f : Fibre) (a n : Nat) (d : Deed) (l : List Spot) : Prop :=
  localSpots s (bankOfFibre s.cur) a n = some l ∧ f.fence = none ∧ f.sReplay = none ∧ accessDelay s s.cur f false d 1 [.ok l] = none

/-- A load has completed: the fibre is `f'`, the toll is charged, and no byte, other fibre or other state has changed. -/
def LoadDone (s t : State) (f' : Fibre) (bm : Nat) : Prop :=
  lookup t.fibres s.cur = some f' ∧ (∀ k, k ≠ s.cur → lookup t.fibres k = lookup s.fibres k) ∧
    CrewsCharged s t (bankOfFibre s.cur) 1 bm ∧ Unchanged s t ∧ ReadsSame s t

/-- A store of `bytes` has completed: the spots hold them, every other place reads as before through the mapping `key` of the store, and
no fibre has changed but the storing one and those that a conflict rolls back (R136, R312). -/
def StoreDone (s t : State) (f' : Fibre) (bm : Nat) (l : List Spot) (bytes : List Byte) (key : Option Nat) : Prop :=
  lookup t.fibres s.cur = some f' ∧
    (∀ k g, k ≠ s.cur → lookup s.fibres k = some g → g.fence = none → lookup t.fibres k = some g) ∧
    CrewsCharged s t (bankOfFibre s.cur) 1 bm ∧ StoredOnly s t ∧
    (∀ (i : Nat) (x : Spot) (b : Byte) (p : Nat), l[i]? = some x → bytes[i]? = some b → x.place = some p → byteAt t p = b) ∧
    ∀ p, (∀ x ∈ l, x.place ≠ some p) → viewByte t p key = viewByte s p key

/-- An atomic has completed: a store of the new value, where it writes one; else every place reads as before (R139, R140). -/
def UpdateDone (s t : State) (f' : Fibre) (bm : Nat) (l : List Spot) (new : Option (List Byte)) (key : Option Nat) : Prop :=
  match new with
  | some bytes => StoreDone s t f' bm l bytes key
  | none => LoadDone s t f' bm

/-- The spots of a store: at least one, all of one mapping `key`, of no collective region, at distinct clean places. -/
def Storable (s : State) (l : List Spot) (key : Option Nat) : Prop :=
  l ≠ [] ∧ (∀ x ∈ l, x.page.key = key ∧ x.page.collective = none ∧ ∃ p, x.place = some p ∧ Clean s p) ∧ (l.map (·.place)).Nodup

/-- Nothing that a fence of a scope waits for is outstanding (R307, R310): no clause; with E = 1 no engine operation of the fibre with a destination in a
tier of the scope, with R = 1 none of its fabric operations that has not left. -/
def Quiet (s : State) (f : Fibre) (scope : Nat) (engines remote : Bool) : Prop :=
  f.clauses = [] ∧ f.handler = none ∧ f.fence = none ∧
    (engines = true → ∀ e ∈ s.engines, ownedBy s s.cur e.2.serial e.2.fibre = true → scope < e.2.tier s) ∧
    (remote = true → ∀ o ∈ s.fabricOps, ownedBy s s.cur o.2.serial o.2.fibre = true → o.2.departed = true)

/-! ### Long-latency instructions -/

/-- Nothing keeps a long-latency instruction from issuing: no FENCE is pending and its flag has room (R23, R225, R311). -/
def Free (f : Fibre) (flag : BitVec 4) : Prop := f.fence = none ∧ ∀ k : Fin 12, flag.toNat = k.val → (f.flags[k]).toNat < 15

/-- `f'` is `f` after a long-latency instruction has issued: its flag is raised, and the next instruction follows (R23). -/
def RaisedFlag (f f' : Fibre) (flag : BitVec 4) : Prop :=
  (∀ r, f'.readS r = f.readS r ∧ f'.due r = f.due r) ∧ f'.spc = f.spc + 4#64 ∧ { f'.still with flags := f.flags } = f.still ∧
    ∀ k : Fin 12, f'.flags[k] = if flag.toNat = k.val then f.flags[k] + 1#4 else f.flags[k]

/-- An engine instruction has issued (R225): its operation is outstanding, its flag raised, its toll charged, and nothing else has changed. -/
def Started (s t : State) (f : Fibre) (flag : BitVec 4) (op : EngineOp) (bi bm : Nat) : Prop :=
  (∃ f', lookup t.fibres s.cur = some f' ∧ RaisedFlag f f' flag) ∧ (∀ k, k ≠ s.cur → lookup t.fibres k = lookup s.fibres k) ∧
    CrewsCharged s t (bankOfFibre s.cur) bi bm ∧
    (∃ e w, lookup t.engines s.nextSerial = some e ∧ e.op = op ∧ e.fibre = s.cur ∧ e.bank = bankOfFibre s.cur ∧
      e.flag = (if flag.toNat < 12 then some flag.toNat else none) ∧ lookup s.crews (bankOfFibre s.cur) = some w ∧ e.serial = w.serial ∧
      e.kept = [] ∧ e.lost = []) ∧
    (∀ k, k ≠ s.nextSerial → lookup t.engines k = lookup s.engines k) ∧
    { t with fibres := s.fibres, crews := s.crews, counters := s.counters, tlb := s.tlb, engines := s.engines, nextSerial := s.nextSerial } = s ∧
    ∀ p, byteAt t p = byteAt s p

/-- Every byte that a crew names from local address `a` lies in one region that its deck maps (R138, R257). -/
def LocalRange (s : State) (a n : Nat) : Prop := (localPlaces s (bankOfFibre s.cur) a n).isSome = true

/-- No error waits anywhere, and nothing is poisoned (R217, R295). -/
def NoErrors (s : State) : Prop :=
  s.memLatent = [] ∧ s.poison = [] ∧ ∀ k b, lookup s.banks k = some b → b.latent = [] ∧ b.poison = []

/-- No error and no poison mark waits in a register line either. -/
def CleanSlots (s : State) : Prop := ∀ x ∈ s.slots, x.2.latent = [] ∧ x.2.poison = []

/-- An outstanding operation has completed (R23, R112, R225): it has left the table, and in its fibre, where its crew is on a core, its flag has
fallen by 1 and `fl` has joined `AFLAGS`; a fibre past a FENCE is another matter (R311). -/
def Finished (s t : State) (id : Nat) (e : Engine) (fl : BitVec 6) : Prop :=
  lookup t.engines id = none ∧ (∀ k, k ≠ id → (lookup t.engines k).map Engine.unwritten = (lookup s.engines k).map Engine.unwritten) ∧
    ∀ bk f, bankOfSerial s e.serial = some bk → lookup s.fibres (fibreIn bk e.fibre) = some f → f.fence = none →
      ∃ f', lookup t.fibres (fibreIn bk e.fibre) = some f' ∧ f'.aflags = f.aflags ||| fl.setWidth 64 ∧
        (∀ k : Fin 12, f'.flags[k] = if e.flag = some k.val then f.flags[k] - 1#4 else f.flags[k]) ∧
        { f' with flags := f.flags, aflags := f.aflags } = f

/-! ### What an outstanding operation does -/

/-- The byte of a spot as an outstanding operation reads it (R203, R226): the one that it keeps from before a later write of its tile or accumulator,
else the one that is there; 0 where the window reaches no store, none where a tag fails. -/
def Engine.seen (e : Engine) (s : State) (x : Spot) : Option Byte :=
  match x.place with
  | none => some 0#8
  | some p => match lookup e.kept p with | some b => some b | none => viewByte s p x.page.key

/-- The bytes that it reads from the store of its own bank, or of a deck member. -/
def Engine.bytes (e : Engine) (s : State) (l : List Spot) : Array Byte := (l.map (fun x => (e.seen s x).getD 0#8)).toArray

/-- What the last of some writes lays at a place. -/
def written (l : List (Spot × Byte)) (p : Nat) : Option Byte := (l.reverse.find? (fun x => x.1.place == some p)).map (·.2)

/-- An operation has completed, and the bytes of `l` lie where it wrote them, under mappings of key `key`, but at the places that a later operation has
taken from it (R203, R226); every other place reads as before, and nothing else has changed. -/
def OpDone (s t : State) (id : Nat) (e : Engine) (fl : BitVec 6) (l : List (Spot × Byte)) (key : Option Nat) : Prop :=
  Finished s t id e fl ∧ t.crews = s.crews ∧ StoredOnly s { t with engines := s.engines } ∧
    (∀ p b, p ∉ e.lost → written l p = some b → byteAt t p = b) ∧
    ∀ p, (p ∈ e.lost ∨ written l p = none) → viewByte t p key = viewByte s p key

/-- The bytes that an operation moves, from spots to spots: ACCMV, ACCLD, ACCST, TLDL, TSTL, TLD and TST (R230, R237). Memory is reached by the
translations of the issue. -/
def Moves (s : State) (e : Engine) (src dst : List Spot) (key : Option Nat) : Prop :=
  let acc (i n : Nat) : List Spot := bankSpots e.bank (0x200000 + 0x8000 * i) n
  let tile (i n : Nat) : List Spot := bankSpots e.bank (0x100000 + 0x4000 * i) n
  match e.op with
  | .accMove d x => d ≠ x ∧ src = acc x 0x8000 ∧ dst = acc d 0x8000 ∧ key = none
  | .accLoad i a n => localSpots s e.bank a (4 * n) = some src ∧ dst = acc i (4 * n) ∧ key = none
  | .accStore i a n => src = acc i (4 * n) ∧ localSpots s e.bank a (4 * n) = some dst ∧ key = none
  | .tileLoad i rb rows true =>
    (∀ a ∈ rows, (localSpots s e.bank a rb).isSome = true) ∧ src = rows.flatMap (fun a => localSpotsD s e.bank a rb) ∧
      dst = tile i (rows.length * rb) ∧ key = none
  | .tileStore i rb rows true =>
    (∀ a ∈ rows, (localSpots s e.bank a rb).isSome = true) ∧ src = tile i (rows.length * rb) ∧
      dst = rows.flatMap (fun a => localSpotsD s e.bank a rb) ∧ key = none
  | .tileLoad i rb rows false =>
    src = rows.flatMap (fun a => e.spots s (BitVec.ofNat 64 a) rb) ∧ dst = tile i (rows.length * rb) ∧ key = none
  | .tileStore i rb rows false =>
    src = tile i (rows.length * rb) ∧ dst = rows.flatMap (fun a => e.spots s (BitVec.ofNat 64 a) rb) ∧
      ∀ x ∈ dst, x.page.key = key ∧ publishing s e.serial x.phys = false
  | _ => False

/-- An accumulator word of a matrix product after its groups in ascending order, with the flags of all (R105, R234, R235): `w` numbers the words of the
accumulator, row by row. -/
def Product.word (p : Product) (a b : Operand2) (pruned : Array Byte) (sa sb : Nat → Nat → Nat) (acc : Array Byte) (w : Nat) : Nat × Fl :=
  (List.range (p.k / (if fbFA p.fb = 0 then 4 else 16))).foldl
    (fun c g => let y := p.group a b pruned sa sb (w / p.n) (w % p.n) g c.1; (y.1, c.2 ||| y.2)) (bitsAt acc (32 * w) 32, 0#6)

/-! ### Landing words -/

/-- The current fibre names, in `s`x, the landing word at a place `p`, which its mapping of key `key` reads without error (R205, R248). -/
def Names (s : State) (f : Fibre) (w : Crew) (x : BitVec 6) (want : Want) (p : Nat) (key : Option Nat) : Prop :=
  f.fence = none ∧ f.sReplay = none ∧ f.sWait = none ∧
    (∃ e, envOf s w = some e ∧ resolveLanding s e (bankOfFibre s.cur) (f.readS x) want = .word p key ∧
      (localForm (f.readS x) = false → walkedRange s e (f.readS x) 16 = s)) ∧
    ∃ bytes, Sound s (wordSpots p key) bytes

/-- A landing-word instruction has completed: the word is now `word`, read through its own mapping, and every place outside it reads as before. -/
def WordDone (s t : State) (f' : Fibre) (bm p : Nat) (key : Option Nat) (word : LWord) : Prop :=
  lookup t.fibres s.cur = some f' ∧ CrewsCharged s t (bankOfFibre s.cur) 1 bm ∧ readWord t p key = word ∧
    ∀ q, q < p ∨ p + 16 ≤ q → viewByte t q key = viewByte s q key

/-- No launch and no triggered send is held on the word at a place (R344, R413). -/
def Unheld (s : State) (p : Nat) : Prop := (∀ l ∈ s.launches, l.place ≠ p) ∧ ∀ a ∈ armedAt s p, a.place ≠ p

/-- `f'` is `f` waiting with SPC at the instruction (R178, R209). -/
def WaitsFor (f f' : Fibre) (w : Wait) : Prop :=
  f'.sWait = some w ∧ f'.spc = f.spc ∧ (∀ r, f'.readS r = f.readS r ∧ f'.due r = f.due r) ∧
    { f'.still with sWait := f.sWait, waitWord := f.waitWord, cbarDone := f.cbarDone } = f.still

/-! ### Fabric operations -/

/-- The four words of a group as they are read at issue (R390). -/
def fourWords (f : Fibre) (x : BitVec 6) : FabricWords :=
  { w0 := f.readS x, w1 := f.readS (x + 1#6), w2 := f.readS (x + 2#6), w3 := f.readS (x + 3#6) }

/-- A fabric operation has been accepted (R394): it is outstanding with its words and its pattern resolved, its toll is charged, and nothing else
has changed but the fibre. -/
def OpAccepted (s t : State) (kind red : Nat) (w : FabricWords) (flag : BitVec 4) (a : List (BitVec 16) × Nat × Nat) : Prop :=
  (∀ k, k ≠ s.cur → lookup t.fibres k = lookup s.fibres k) ∧ CrewsCharged s t (bankOfFibre s.cur) 1 (fabricCharge kind w) ∧
    (∃ o, lookup t.fabricOps s.nextSerial = some o ∧ o.words = w ∧ o.kind = kind ∧ o.red = red ∧ o.fibre = s.cur ∧ o.pattern = a.1 ∧
      o.members = a.2.1 ∧ o.contributor = a.2.2 ∧ o.flag = (if flag.toNat < 12 then some flag.toNat else none) ∧ o.left = false ∧ o.sent = 0) ∧
    (∀ k, k ≠ s.nextSerial → lookup t.fabricOps k = lookup s.fabricOps k) ∧
    { t with fibres := s.fibres, crews := s.crews, counters := s.counters, fabricOps := s.fabricOps, nextSerial := s.nextSerial } = s ∧
    ∀ p, byteAt t p = byteAt s p

/-! ### Arriving, ending and scheduling -/

/-- A crew but for what arriving or ending may change of it too (R331, R336, R341, R342). -/
def Crew.atRest (w : Crew) : Crew := { w.calm with state := .running, ending := none, phaseArgs := none, joinArg := none }

/-- The current fibre has arrived or ended, and its crew may have moved on (R331): no other fibre has changed, no other crew but for grace, no
byte, and no other state but cached translations, the lines of the L2 slices, counters and the slot's current fibre. -/
def Passes (s t : State) (f' : Fibre) : Prop :=
  lookup t.fibres s.cur = some f' ∧ (∀ k, k ≠ s.cur → lookup t.fibres k = lookup s.fibres k) ∧
    (∀ k, (lookup t.crews k).map Crew.atRest = (lookup s.crews k).map Crew.atRest) ∧
    (∀ k, k ≠ bankOfFibre s.cur → (lookup t.crews k).map Crew.calm = (lookup s.crews k).map Crew.calm) ∧
    (∀ k, { slotOf t k with current := 0 } = { slotOf s k with current := 0 }) ∧
    { t with fibres := s.fibres, crews := s.crews, counters := s.counters, slots := s.slots, tlb := s.tlb, l2 := s.l2 } = s ∧ ∀ p, byteAt t p = byteAt s p

/-- What the TLBs hold once addresses of an environment have been translated from a state (R285). -/
def Refilled (s : State) (e : Env) (T : List TlbEntry) : Prop := ∃ l : List Word, T = (l.foldl (fun u v => remember u e v) s).tlb

/-- A range of a context translates, whatever translations are cached by then (R285), and its walks meet no error. -/
def Translates (s : State) (e : Env) (v : Word) (n : Nat) (want : Want) : Prop :=
  ∀ T, Refilled s e T → walkedRange { s with tlb := T } e v n = { s with tlb := T } ∧ ∃ l, spots { s with tlb := T } e v n want false = .ok l

/-- A record or descriptor of `n` bytes at `v`, which a crew reads without error. -/
def Holds (s : State) (e : Env) (v : Word) (n : Nat) (want : Want) (bytes : List Byte) : Prop :=
  walkedRange s e v n = s ∧ ∃ l, spots s e v n want false = .ok l ∧ Seen s l bytes

/-! ### Traps -/

/-- The fields of a trap frame (R191): offset, size, and value as a number. The zeros beside them are stated of a fibre's first frame only: what later
ones leave there no rule states (R429). -/
def frameFields (g : Fibre) (lane : Bool) (word : BitVec 96) (tr : Trap) : List (Nat × Nat × Nat) :=
  [(0, 2, tr.cause.code), (2, 1, tr.sub), (3, 1, (if lane then 1 else 0) + (if tr.cause.resumesAfter then 2 else 0)), (4, 2, tr.code),
    (8, 8, tr.addr.toNat), (0x10, 4, tr.mask.toNat), (0x14, 4, g.em.toNat), (0x18, 4, tr.pred.toNat), (0x1C, 4, g.aflags.toNat),
    (0x20, 4, word.toNat), (0x30, 8, g.spc.toNat), (0x38, 8, g.lpc.toNat), (0x40, 8, (g.readS 1#6).toNat),
    (0x48, 8, if lane then ((g.clauses.head?).map (fun c => c.header.toNat)).getD 0 else 0)] ++
  (if lane then [(0x24, 8, word.toNat / 2 ^ 32)] else []) ++
  (if g.trapped then [] else [(6, 2, 0), (0x24, 8, if lane then word.toNat / 2 ^ 32 else 0), (0x2C, 4, 0), (0x50, 48, 0)])

/-- A trap has been taken to the crew's handler (R191, R192): the frame is written, `s1` holds its address, SPC is the handler's, and nothing else has
changed but fibres whose speculation the write of the frame rolls back. -/
def Entered (u t : State) (g : Fibre) (w : Crew) (lane : Bool) (word : BitVec 96) (tr : Trap) : Prop :=
  (∃ g', lookup t.fibres u.cur = some g' ∧ (∀ r, g'.readS r = if r = 1#6 then frameAddress w u.cur else g.readS r) ∧
      g'.spc = (BitVec.ofNat 55 (w.trapbase.toNat / 4 * 4)).signExtend 64 ∧
      g'.handler = some { trap := tr, lane := lane, oldS1 := g.readS 1#6, spc := g.spc, lpc := g.lpc, wait := g.issuedWait, cbarDone := g.cbarDone } ∧
      g'.sWait = none ∧ g'.cbarDone = none ∧
      { g' with sregs := g.sregs, spend := g.spend, spc := g.spc, handler := g.handler, sWait := g.sWait, sStall := g.sStall, lStall := g.lStall,
                cbarDone := g.cbarDone, trapped := g.trapped } = g) ∧
    (∀ x ∈ frameFields g lane word tr, numberAt t (areaPlace w (recordOffset u.cur + 0x280 + x.1)) x.2.1 = x.2.2 % 256 ^ x.2.1) ∧
    (∀ p, (p < areaPlace w (recordOffset u.cur + 0x280) ∨ areaPlace w (recordOffset u.cur + 0x280) + 128 ≤ p) →
      viewByte t p (areaKey u w) = viewByte u p (areaKey u w)) ∧
    (∀ k h, k ≠ u.cur → lookup u.fibres k = some h → h.fence = none → lookup t.fibres k = some h) ∧ t.crews = u.crews ∧ StoredOnly u t

/-- A fibre is frozen by a trap that no handler takes (R194). -/
def Froze (u t : State) (g : Fibre) : Prop :=
  ∃ g', lookup t.fibres u.cur = some g' ∧ g'.frozen = true ∧ (∀ r, g'.readS r = g.readS r) ∧ g'.spc = g.spc

/-! ### Lane words -/

/-- The active lanes of a word: `em and pred` (R27). -/
def activeLanes (f : Fibre) (w : LaneWord) : Mask := f.em &&& (if w.pn then ~~~(f.readP w.pi) else f.readP w.pi)

/-- No error waits in the register units of a berth register, and no higher-numbered fibre of the berth has written it in this clock (R37, R217). -/
def RegisterClean (s : State) (r : Nat) : Prop :=
  (∀ u, u / 16 = r → (slotOf s (slotOfFibre s.cur)).marked u = false) ∧
    ∀ m, (slotOf s (slotOfFibre s.cur)).lasting s.clock (s.cur % 4) r m = m

/-- Nothing keeps the lane word `w` of clause `c` from issuing: its names are mapped and its destination is writable, every scalar it reads has
arrived, every register line it names is held and clean, and no long-latency result for a register it names is outstanding (R22, R31, R35, R148,
R217). -/
def LaneRuns (s : State) (f : Fibre) (cr : Crew) (c : Clause) (run : Running) (w : LaneWord) (pair : Bool) : Prop :=
  Runs s f cr ∧ f.clauses.head? = some c ∧ f.running = some run ∧ f.fence = none ∧ windowCause f w pair = none ∧
    (∀ r ∈ scalarsNamed w, ∀ a ∈ c.awaiting, a.1 ≠ r) ∧ (∀ r ∈ regsNamed f w pair, r < 256 ∧ lineHeld s s.cur (r / 4) = true ∧ RegisterClean s r) ∧
    ∀ p ∈ f.lpend, ∀ r, p.reg = some r → r ∉ regsNamed f w pair

/-- A register of the current fibre's berth, lane by lane; a dead one reads zero (R32). -/
def berthLane (s : State) (r l : Nat) : Lane := laneAt ((slotOf s (slotOfFibre s.cur)).value r) l

/-- A lane word that changes registers, and neither memory nor a store, has completed: the fibre is `f'`, the registers that its last-read marks
name are dead, the written lanes hold their results, and nothing else has changed (R18, R32, R149, R150). -/
def LaneDone (s t : State) (f' : Fibre) (bi : Nat) (marks : List Nat) (written : Nat → Nat → Option Lane) : Prop :=
  lookup t.fibres s.cur = some f' ∧ (∀ k, k ≠ s.cur → lookup t.fibres k = lookup s.fibres k) ∧ CrewsCharged s t (bankOfFibre s.cur) bi 0 ∧
    (∀ r l, l < 32 → berthLane t r l = (written r l).getD (if r ∈ marks then 0#32 else berthLane s r l)) ∧
    (∀ k, k ≠ slotOfFibre s.cur → slotOf t k = slotOf s k) ∧ (slotOf t (slotOfFibre s.cur)).current = (slotOf s (slotOfFibre s.cur)).current ∧
    { t with fibres := s.fibres, crews := s.crews, counters := s.counters, slots := s.slots } = s ∧ ∀ p, byteAt t p = byteAt s p

/-- The value of an operand that is no sweep (R53, R54). -/
def operandLane (s : State) (f : Fibre) (c : Clause) (imm : BitVec 13 → Lane) (o : Operand) (l : Nat) : Lane :=
  match o with
  | .reg n _ _ => berthLane s (berthReg f n.toNat) l
  | .scalar r => (c.scalar r).setWidth 32
  | .imm v => imm v
  | _ => 0#32

/-! ### What one lane of an element-wise word computes (R153 to R158, R164 to R167) -/

/-- A lane made of its elements of `n` bits, each modulo 2^n (R84). -/
def packLane (n : Nat) (v : Nat → Int) : Lane := BitVec.ofNat 32 (((List.range (32 / n)).map (fun i => (v i % 2 ^ n).toNat * 2 ^ (n * i))).sum)

/-- An integer clamped to a range. -/
def clampTo (n : Nat) (signed : Bool) (x : Int) : Int := max (intMin n signed) (min (intMax n signed) x)

/-- Integer elements by an exact function: clamped under SAT, which sets `sat` where it changes a result, else modulo 2^w (R153). -/
def integerSpec (w : LaneWord) (g : (n : Nat) → (a b c : Int) → Int) : Elementwise :=
  let n := (intType w.ty).1
  let sg := (intType w.ty).2
  let x (a b c : Lane) (i : Nat) : Int := g n (intValue n sg (element n i a)) (intValue n sg (element n i b)) (intValue n sg (element n i c))
  { signed := w.ty == 0#3, selects := true, imm := fun v => packLane n (fun _ => v.toInt),
    fn := fun a b c _ gen =>
      (packLane n (fun i => if w.sat then clampTo n sg (x a b c i) else x a b c i), gen,
        if w.sat && (List.range (32 / n)).any (fun i => x a b c i != clampTo n sg (x a b c i)) then 32#6 else 0#6) }

/-- Whole lanes of bits, whatever TY is (R153). -/
def bitsSpec (w : LaneWord) (g : Lane → Lane → Lane) : Elementwise :=
  { signed := w.ty == 0#3, selects := true, imm := fun v => packLane (intType w.ty).1 (fun _ => v.toInt), fn := fun a b _ _ gen => (g a b, gen, 0#6) }

/-- 32-bit fields (R154). -/
def fieldSpec (w : LaneWord) (readsD : Bool) (g : (a b c d : Lane) → Lane) : Elementwise :=
  { signed := w.ty == 0#3, selects := true, imm := fun v => BitVec.ofInt 32 v.toInt, readsD := readsD, fn := fun a b c d gen => (g a b c d, gen, 0#6) }

/-- The generator that rounds result `i` of a lane: it steps once before each result under RS (R97). -/
def generatorOf (w : LaneWord) (gen : BitVec 32) (i : Nat) : BitVec 32 := if w.rm = 4#3 then xorshift^[i + 1] gen else gen

/-- Floating-point elements (R156): each result by its format, with the flags of every element. -/
def floatSpec (w : LaneWord) (g : Fmt → (a b c : Nat) → Mode → Bool → Nat → Nat × Fl) : Elementwise :=
  let f := floatType w.ty
  let k := 32 / f.width
  let y (a b c : Lane) (gen : BitVec 32) (i : Nat) : Nat × Fl :=
    g f (element f.width i a) (element f.width i b) (element f.width i c) (modeOf w.rm) w.sat (generatorOf w gen i).toNat
  { imm := fun v => packLane f.width (fun _ => ((intToFloat f v.toInt .rne false 0).1 : Int)),
    fn := fun a b c _ gen =>
      (packLane f.width (fun i => ((y a b c gen i).1 : Int)), generatorOf w gen (k - 1), ((List.range k).map (fun i => (y a b c gen i).2)).foldl (· ||| ·) 0#6) }

/-- One result of 32 bits per lane, whose generator steps once under RS (R165 to R167). -/
def wordSpec (w : LaneWord) (readsD : Bool) (g : (a b c d : Lane) → Nat → Nat × Fl) : Elementwise :=
  { imm := fun v => BitVec.ofInt 32 v.toInt, readsD := readsD,
    fn := fun a b c d gen =>
      let r := g a b c d (generatorOf w gen 0).toNat
      (BitVec.ofNat 32 r.1, generatorOf w gen 0, r.2) }

/-- A conversion (R164, R165), whose generator steps once under RS unless both formats are integers (R97). -/
def cvtSpec (w : LaneWord) : Elementwise :=
  let b := w.b.immBits.toNat
  { imm := fun v => BitVec.ofInt 32 v.toInt, readsD := true,
    fn := fun a _ _ d gen =>
      let gen' := if (intFmtOf (b % 16)).isSome ∧ (intFmtOf (b / 16 % 16)).isSome then gen else generatorOf w gen 0
      let y := convertLane b w.c.immBits.toNat (modeOf w.rm) w.sat gen'.toNat a d
      (y.1, gen', y.2) }

/-- The element-wise words: whether each is long-latency (R147), and what a lane computes. -/
def laneSpec (op : LaneOp) (w : LaneWord) : Option (Bool × Elementwise) :=
  match op with
  | .iadd => some (false, integerSpec w (fun _ a b _ => a + b))
  | .isub => some (false, integerSpec w (fun _ a b _ => a - b))
  | .imul => some (false, integerSpec w (fun _ a b _ => a * b))
  | .imulh => some (false, integerSpec w (fun n a b _ => a * b / 2 ^ n))
  | .imad => some (false, integerSpec w (fun _ a b c => a * b + c))
  | .imin => some (false, integerSpec w (fun _ a b _ => if a ≤ b then a else b))
  | .imax => some (false, integerSpec w (fun _ a b _ => if a ≤ b then b else a))
  | .iabs => some (false, integerSpec w (fun _ a _ _ => |a|))
  | .ineg => some (false, integerSpec w (fun _ a _ _ => 0 - a))
  | .iand => some (false, bitsSpec w (fun a b => a &&& b))
  | .ior => some (false, bitsSpec w (fun a b => a ||| b))
  | .ixor => some (false, bitsSpec w (fun a b => a ^^^ b))
  | .iandn => some (false, bitsSpec w (fun a b => a &&& ~~~b))
  | .ishl => some (false, integerSpec w (fun n a b _ => a * 2 ^ (b % n).toNat))
  | .ishr => some (false, integerSpec w (fun n a b _ => a / 2 ^ (b % n).toNat))
  | .iclz => some (false, integerSpec w (fun n a _ _ => ((List.range n).takeWhile (fun i => !(a % 2 ^ n).toNat.testBit (n - 1 - i))).length))
  | .ipopc => some (false, integerSpec w (fun n a _ _ => (List.range n).countP (fun i => (a % 2 ^ n).toNat.testBit i)))
  | .ibfe => some (false, fieldSpec w false (fun a b c _ =>
      let p := b.toNat % 32
      let n := min (c.toNat % 64) (32 - p)
      let x : Int := (a.toNat / 2 ^ p % 2 ^ n : Nat)
      BitVec.ofInt 32 (if w.ty = 0#3 ∧ 0 < n ∧ 2 ^ (n - 1) ≤ x then x - 2 ^ n else x)))
  | .ibfi => some (false, fieldSpec w true (fun a b c d =>
      let p := b.toNat % 32
      let n := min (c.toNat % 64) (32 - p)
      let m : Lane := BitVec.ofNat 32 ((2 ^ n - 1) * 2 ^ p)
      (d &&& ~~~m) ||| (BitVec.ofNat 32 (a.toNat * 2 ^ p) &&& m)))
  | .imov => some (false, integerSpec w (fun _ a _ _ => a))
  | .fadd => some (false, floatSpec w (fun f a b _ => f.add a b))
  | .fsub => some (false, floatSpec w (fun f a b _ => f.sub a b))
  | .fmul => some (false, floatSpec w (fun f a b _ => f.mul a b))
  | .ffma => some (false, floatSpec w (fun f a b c => f.fma a b c))
  | .fdiv => some (true, floatSpec w (fun f a b _ => f.div a b))
  | .fmin => some (false, floatSpec w (fun f a b _ _ _ _ => f.select false a b))
  | .fmax => some (false, floatSpec w (fun f a b _ _ _ _ => f.select true a b))
  | .fabs => some (false, floatSpec w (fun f a _ _ _ _ _ => f.abs a))
  | .fneg => some (false, floatSpec w (fun f a _ _ _ _ _ => f.negate a))
  | .frnd => some (false, floatSpec w (fun f a _ _ rm _ r => f.roundIntegral a rm r))
  | .fsqrt => some (true, floatSpec w (fun f a _ _ => f.sqrt a))
  | .frcp => some (true, floatSpec w (fun f a _ _ _ _ _ => f.frcp a))
  | .frsq => some (true, floatSpec w (fun f a _ _ _ _ _ => f.frsq a))
  | .fexp2 => some (true, floatSpec w (fun f a _ _ _ _ _ => f.fexp2 a))
  | .flog2 => some (true, floatSpec w (fun f a _ _ _ _ _ => f.flog2 a))
  | .fsin => some (true, floatSpec w (fun f a _ _ _ _ _ => f.fsincos false a))
  | .fcos => some (true, floatSpec w (fun f a _ _ _ _ _ => f.fsincos true a))
  | .ftanh => some (true, floatSpec w (fun f a _ _ _ _ _ => f.ftanh a))
  | .cvt => some (false, cvtSpec w)
  | .dot4 => some (false, wordSpec w false (fun a b c _ r => dotLane 4 w.ty (modeOf w.rm) w.sat r a b c))
  | .dot8 => some (false, wordSpec w false (fun a b c _ r => dotLane 8 w.ty (modeOf w.rm) w.sat r a b c))
  | .dot2 => some (false, wordSpec w false (fun a b c _ r => dotLane 2 w.ty (modeOf w.rm) w.sat r a b c))
  | .scale => some (false, wordSpec w false (fun a b _ _ r =>
      scaleLane (b.toNat / (if w.ty = 0#3 then 1 else 2 ^ 16) % 2 ^ 10) (modeOf w.rm) w.sat r
        (match w.a with | .imm v => (intToFloat .fp32 v.toInt .rne false 0).1 | _ => a.toNat)))
  | _ => none

/-! ### Sweeps (R55) -/

/-- What the segments of a word have left so far: bytes by place, the destination register, the generators, and the flags raised. -/
structure Sweep where
  mem : Nat → Byte
  reg : Nat → Lane
  gens : Nat → BitVec 32
  fl : Fl

/-- The place of the four bytes of a segment and lane of a sweep. -/
def sweepPlace (s : State) (c : Clause) (b : BitVec 6) (step : BitVec 7) (seg l : Nat) : Nat :=
  (localPlace s (bankOfFibre s.cur) (((wfld (c.scalar b) 0 24 : Nat) : Int) + step.toInt * 16 * seg + 4 * l).toNat).getD 0

/-- An operand's value in a segment and lane, before the segment writes. -/
def Sweep.operand (t : Sweep) (s : State) (f : Fibre) (c : Clause) (w : LaneWord) (e : Elementwise) (seg l : Nat) (o : Operand) : Lane :=
  match o with
  | .reg n _ _ => if berthOf f w.d = some (berthReg f n.toNat) then t.reg l else berthLane s (berthReg f n.toNat) l
  | .sweep b step => BitVec.ofNat 32 (leNat ((List.range 4).map (fun i => t.mem (sweepPlace s c b step seg l + i))))
  | o => operandLane s f c e.imm o l

/-- What a segment computes in a lane. -/
def Sweep.result (t : Sweep) (s : State) (f : Fibre) (c : Clause) (w : LaneWord) (e : Elementwise) (seg l : Nat) : Lane × BitVec 32 × Fl :=
  let v (o : Operand) : Lane :=
    if e.selects then selectSource (selectorOf o) e.signed (t.operand s f c w e seg l o) else t.operand s f c w e seg l o
  e.fn (v w.a) (v w.b) (v w.c) (if e.readsD || !w.d.isSweep then v w.d else 0#32) (t.gens l)

/-- One segment: every active lane computes, then the results are written, in ascending lane order. -/
def Sweep.step (t : Sweep) (s : State) (f : Fibre) (c : Clause) (w : LaneWord) (e : Elementwise) (seg : Nat) : Sweep :=
  let m := activeLanes f w
  let r (l : Nat) : Lane × BitVec 32 × Fl := t.result s f c w e seg l
  { mem := fun p => match w.d with
      | .sweep b step =>
        ((lanesOf m).reverse.findSome? (fun l =>
          let q := sweepPlace s c b step seg l
          if q ≤ p ∧ p < q + 4 then some (BitVec.ofNat 8 ((r l).1.toNat / 256 ^ (p - q))) else none)).getD (t.mem p)
      | _ => t.mem p
    reg := fun l => match w.d with
      | .reg _ _ sel => if m.getLsbD l then insertSelected sel (t.reg l) (r l).1 else t.reg l
      | _ => t.reg l
    gens := fun l => if m.getLsbD l then (r l).2.1 else t.gens l
    fl := (lanesOf m).foldl (fun x l => x ||| (r l).2.2) t.fl }

/-- All segments of a word. -/
def sweepRun (s : State) (f : Fibre) (c : Clause) (w : LaneWord) (e : Elementwise) : Sweep :=
  (List.range (max w.count.toNat 1)).foldl (fun t seg => t.step s f c w e seg)
    { mem := byteAt s, reg := fun l => match berthOf f w.d with | some r => berthLane s r l | none => 0#32, gens := laneAt f.gens, fl := 0#6 }

/-- Every sweep of a word keeps to the region of each lane's first address, in every segment and active lane, and no error waits there (R55, R217). -/
def SweepsHold (s : State) (f : Fibre) (c : Clause) (w : LaneWord) : Prop :=
  (sweepsNamed c w ≠ [] → NoErrors s) ∧ ∀ y ∈ sweepsNamed c w, y.1 % 4 = 0 ∧ ∀ l, (activeLanes f w).getLsbD l = true → ∀ seg, seg < max w.count.toNat 1 →
    0 ≤ (y.1 : Int) + y.2.toInt * 16 * seg + 4 * l ∧
    localRegion ((y.1 : Int) + y.2.toInt * 16 * seg + 4 * l).toNat = localRegion (y.1 + 4 * l) ∧
    (localPlaces s (bankOfFibre s.cur) ((y.1 : Int) + y.2.toInt * 16 * seg + 4 * l).toNat 4).isSome = true

/-- The tolls of a word's sweeps (R150). -/
def sweepToll (f : Fibre) (c : Clause) (w : LaneWord) : Nat :=
  ((sweepsNamed c w).map (fun y => sweepLines y.1 y.2 (max w.count.toNat 1) (activeLanes f w))).sum

/-! ### Compares, scans and lane accesses -/

/-- A compare (R159, R160): what an immediate stands for, the relation, and whether it sets invalid. -/
structure CompareSpec where
  imm : BitVec 13 → Lane
  holds : Lane → Lane → Prop
  invalid : Lane → Lane → Prop

/-- An integer compare. -/
def integerCompareSpec (w : LaneWord) (r : Int → Int → Prop) : CompareSpec :=
  let v (x : Lane) : Int := if w.ty = 0#3 then x.toInt else (x.toNat : Int)
  { imm := fun v => BitVec.ofInt 32 v.toInt, holds := fun a b => r (v a) (v b), invalid := fun _ _ => False }

/-- A floating-point compare: `nan` where an operand is a NaN, else the order, in which −0 = +0. -/
def floatCompareSpec (nan loud : Prop) (r : Int → Prop) : CompareSpec :=
  let n (a b : Lane) : Prop := (Fmt.fp32.decode a.toNat).isNaN = true ∨ (Fmt.fp32.decode b.toNat).isNaN = true
  let zeros (a b : Lane) : Prop := a.toNat % 2 ^ 31 = 0 ∧ b.toNat % 2 ^ 31 = 0
  { imm := fun v => BitVec.ofNat 32 (intToFloat .fp32 v.toInt .rne false 0).1,
    holds := fun a b => (n a b → nan) ∧ (¬ n a b → zeros a b ∧ r 0 ∨ ¬ zeros a b ∧ r ((Fmt.fp32.decode a.toNat).compare (Fmt.fp32.decode b.toNat))),
    invalid := fun a b =>
      (Fmt.fp32.decode a.toNat).isSignalling = true ∨ (Fmt.fp32.decode b.toNat).isSignalling = true ∨ loud ∧ n a b }

/-- The compares. -/
def compareSpec (op : LaneOp) (w : LaneWord) : Option CompareSpec :=
  match op with
  | .icmpeq => some (integerCompareSpec w (fun a b => a = b))
  | .icmpne => some (integerCompareSpec w (fun a b => a ≠ b))
  | .icmplt => some (integerCompareSpec w (fun a b => a < b))
  | .icmple => some (integerCompareSpec w (fun a b => a ≤ b))
  | .icmpgt => some (integerCompareSpec w (fun a b => a > b))
  | .icmpge => some (integerCompareSpec w (fun a b => a ≥ b))
  | .fcmpeq => some (floatCompareSpec False False (fun d => d = 0))
  | .fcmpne => some (floatCompareSpec True False (fun d => d ≠ 0))
  | .fcmplt => some (floatCompareSpec False True (fun d => d < 0))
  | .fcmple => some (floatCompareSpec False True (fun d => d ≤ 0))
  | .fcmpgt => some (floatCompareSpec False True (fun d => d > 0))
  | .fcmpge => some (floatCompareSpec False True (fun d => d ≥ 0))
  | .fcmpun => some (floatCompareSpec True False (fun _ => False))
  | .fcmpor => some (floatCompareSpec False False (fun _ => True))
  | _ => none

/-- How a scan combines two values in a lane, with the lane's generator (R175): the result and the flags. -/
def scanSpec (op : LaneOp) (w : LaneWord) (x y : Lane) (gen : BitVec 32) : Nat × Fl :=
  let v (z : Lane) : Int := if w.ty = 0#3 then z.toInt else (z.toNat : Int)
  match op with
  | .scanadd | .redadd =>
    if w.ty = 2#3 then Fmt.fp32.add x.toNat y.toNat (modeOf w.rm) w.sat gen.toNat else intResult 32 (w.ty == 0#3) w.sat (v x + v y)
  | .scanmin | .redmin => if w.ty = 2#3 then Fmt.fp32.select false x.toNat y.toNat else (if v x ≤ v y then x.toNat else y.toNat, 0#6)
  | _ => if w.ty = 2#3 then Fmt.fp32.select true x.toNat y.toNat else (if v x ≤ v y then y.toNat else x.toNat, 0#6)

/-- What the active lanes up to lane `n` have combined to, in ascending order, none before the first; and the flags (R175). Under RS an FP32 ADD
steps the generator of each lane but the first. -/
def scanUpTo (op : LaneOp) (w : LaneWord) (m : Mask) (a : Nat → Lane) (gens : Nat → BitVec 32) (n : Nat) : Option Lane × Fl :=
  match n with
  | 0 => (none, 0#6)
  | n + 1 =>
    let r := scanUpTo op w m a gens n
    if m.getLsbD n then
      match r.1 with
      | none => (some (a n), r.2)
      | some x =>
        let y := scanSpec op w x (a n) (if w.rm = 4#3 ∧ w.ty = 2#3 then xorshift (gens n) else gens n)
        (some (BitVec.ofNat 32 y.1), r.2 ||| y.2)
    else r

/-- Whether lane `j` comes before lane `l` in the order of TOPK (R176): a larger value, or the same and a lower lane; −0 is below +0, every NaN below −∞
and equal to every other NaN. -/
def topBefore (ty : BitVec 3) (a : Nat → Lane) (j l : Nat) : Prop :=
  let nan (x : Lane) : Bool := ty == 2#3 && (Fmt.fp32.decode x.toNat).isNaN
  let key (x : Lane) : Int := if ty = 1#3 then (x.toNat : Int) else if ty = 0#3 then x.toInt else if x.toInt < 0 then -(x.toNat : Int) else (x.toNat : Int)
  (nan (a l) = true ∧ nan (a j) = false) ∨ (nan (a l) = nan (a j) ∧ (nan (a l) = false ∧ key (a l) < key (a j) ∨
    (nan (a l) = true ∨ key (a l) = key (a j)) ∧ j < l))

/-- The address of lane `l` of a memory or scratchpad word (R169). -/
def accessAddress (s : State) (f : Fibre) (c : Clause) (w : LaneWord) (isLocal : Bool) (l : Nat) : Word :=
  let off := operandLane s f c (fun v => BitVec.ofInt 32 v.toInt) w.b l
  let base := operandBase c w.a
  if isLocal then BitVec.ofInt 64 (((base.toNat % 2 ^ 24 : Nat) + off.toInt) % 2 ^ 24) else BitVec.ofInt 64 (base.toInt + off.toInt)
where
  /-- The base register. -/
  operandBase (c : Clause) (o : Operand) : Word := match o with | .scalar r => c.scalar r | _ => 0#64

/-- Every active lane's access of `n` bytes reaches its spots `L`, and nothing delays the word (R169, R291, R311). -/
def LanesReach (s : State) (f : Fibre) (cr : Crew) (c : Clause) (w : LaneWord) (isLocal : Bool) (n : Nat) (d : Deed) (L : Nat → List Spot) : Prop :=
  f.lReplay = none ∧
    (∀ l ∈ lanesOf (activeLanes f w), (isLocal = true → localSpots s (bankOfFibre s.cur) (accessAddress s f c w isLocal l).toNat n = some (L l)) ∧
      (isLocal = false → ∃ e, envOf s cr = some e ∧ spots s e (accessAddress s f c w isLocal l) n d.want false = .ok (L l))) ∧
    (isLocal = false → ∀ e, envOf s cr = some e → walkedRanges s e ((lanesOf (activeLanes f w)).map (accessAddress s f c w isLocal)) n = s) ∧
    accessDelay s s.cur f true d (lanesOf (activeLanes f w)).length ((lanesOf (activeLanes f w)).map (fun l => .ok (L l))) = none

/-- The toll of the active lanes' accesses of `n` bytes (R150): the distinct lines of device and host memory, or of deck-peer windows. -/
def lanesToll (s : State) (f : Fibre) (c : Clause) (w : LaneWord) (isLocal : Bool) (n : Nat) (L : Nat → List Spot) : Nat :=
  let m := activeLanes f w
  if isLocal then
    linesTouched ((lanesOf m).flatMap (fun l => ((List.range n).map (fun i => (accessAddress s f c w true l).toNat + i)).filter
      (fun b => match localRegion b with | some (some _) => true | _ => false)))
  else linesTouched ((lanesOf m).flatMap (fun l => ((L l).filter (fun y => !inWindow y.phys)).map (·.phys)))

/-- A lane memory word has issued (R23, R147): its operation `P` is outstanding, its flag raised, and the next word follows. -/
def LanePends (f f' : Fibre) (c : Clause) (run : Running) (w : LaneWord) (mem : Bool) (P : LanePending) (gens : Vector Lane 32) : Prop :=
  f' = Fibre.nextLane { (Fibre.raise { f with lStall := none, gens := gens } (run.flagFor mem)) with lpend := f.lpend ++ [P], nextId := f.nextId + 1 } ∧
    P.id = f.nextId ∧ P.reg = berthOf f w.d ∧ P.mask = activeLanes f w ∧ P.marks = marksOf f w ∧ P.flag = run.flagFor mem ∧ P.clause = c.serial

/-! ### Copy commands (R239 to R245) -/

/-- What a CONVERT makes of element `i` of its source elements `x`, where its generator is counted from element `first` (R241): its encoding and flags. -/
def convertedElement (h : Word) (x : Nat → Nat) (first i : Nat) : Nat × Fl :=
  match (if copyBSC h then fmtOf (copyDst h) else none) with
  | some f =>
    let c := chooseScale ((List.range (copyBlock h)).map (fun j => x (i / copyBlock h * copyBlock h + j))) f
    if c.1 = 0x3FC then (0, c.2) else ((scaledElement f (x i) c.1).1, c.2 ||| (scaledElement f (x i) c.1).2)
  | none =>
    convertAny (copySrc h) (copyDst h) (x i % 2 ^ (if copySrc h = 14 then 10 else 32)) (modeOf (bits h 41 3)) (wfld h 40 1 == 1)
      (copyGenerator h (if modeOf (bits h 41 3) = .rs then i + 1 else first)).toNat

/-- A piece of a copy command has been placed: its command is now `e'`, the spots of `l` hold their bytes but where a later operation has written (R226),
every other place reads as before through the mapping `key`, and nothing else has changed. -/
def CopyMoved (s t : State) (id : Nat) (e' : Engine) (l : List (Spot × Byte)) (key : Option Nat) : Prop :=
  lookup t.engines id = some e' ∧ (∀ k, k ≠ id → (lookup t.engines k).map Engine.unwritten = (lookup s.engines k).map Engine.unwritten) ∧
    (∀ x ∈ l, ∀ p, x.1.place = some p → p ∉ e'.lost → byteAt t p = x.2) ∧
    (∀ p, (p ∈ e'.lost ∨ ∀ x ∈ l, x.1.place ≠ some p) → viewByte t p key = viewByte s p key) ∧
    (∀ k g, lookup s.fibres k = some g → g.fence = none → lookup t.fibres k = some g) ∧ t.crews = s.crews ∧ StoredOnly s { t with engines := s.engines }

/-- A piece of a copy command `e'` waits to arrive at its landing word: one arrival for each part, and no byte has changed. -/
def CopyWaits (s t : State) (id : Nat) (e e' : Engine) (k : Nat) (land : Nat × Option Nat) (parts : List (List Spot × List Byte)) : Prop :=
  (∃ l, lookup t.engines id = some { e' with arrivals := e.arrivals ++ l } ∧ l.length = parts.length ∧
    ∀ (i : Nat) a x, l[i]? = some a → parts[i]? = some x → a.k = 2 * k + i ∧ a.stores = x.1.zip x.2 ∧ a.place = land.1 ∧ a.key = land.2) ∧
    (∀ k, k ≠ id → lookup t.engines k = lookup s.engines k) ∧ (∀ p, byteAt t p = byteAt s p) ∧ t.fibres = s.fibres ∧ t.crews = s.crews

/-! ### Save areas (R321, R431) -/

/-- The four frames of a crew's save area are distinct frames of device memory. -/
def AreaApart (w : Crew) : Prop :=
  w.frames.length = 4 ∧ w.frames.Nodup ∧ ∀ a ∈ w.frames, a % 2 ^ 19 = 0 ∧ inDevice (a + 2 ^ 19 - 1) = true

/-- The scalar registers of a fibre of role `r` as a carry-only save keeps them (R336): those that the role carries, and the rest as at a start. -/
def carriedReg (r : Role) (f : Fibre) (frame stack : Word) (x : BitVec 6) : Word :=
  if x ≠ 0#6 ∧ r.scalarCarry.getLsbD x.toNat = true then f.readS x
  else if x = 1#6 then frame else if x = 2#6 then BitVec.ofNat 64 f.index else if x = 62#6 ∨ x = 63#6 then stack else 0#64

/-- A status entry of a phase that ended abnormally (R330) has been written to the ring whose places are `l`, at its next slot. -/
def StatusPosted (s t : State) (l : List (Nat × Option Nat)) (r : Record) (status core : Nat) : Prop :=
  ∀ i, i = contextNumber s (l.take 4) % 127 →
    contextNumber t (l.take 4) = (i + 1) % 127 ∧ contextNumber t ((l.drop (0x20 + 0x20 * i)).take 8) = r.w0.toNat ∧
      contextNumber t ((l.drop (0x28 + 0x20 * i)).take 8) = r.w1.toNat ∧ contextNumber t ((l.drop (0x30 + 0x20 * i)).take 8) = status + core * 2 ^ 16 ∧
      contextNumber t ((l.drop (0x38 + 0x20 * i)).take 8) = r.w3.toNat

/-! ### Exact results (R93 to R95, R158) -/

/-- The real number of a value that is neither NaN nor infinity. -/
noncomputable def Val.real (v : Val) : ℝ :=
  match v with
  | .fin neg m e => (if neg then -1 else 1) * (m : ℝ) * (2 : ℝ) ^ e
  | _ => 0

/-- The real number of an encoding. -/
noncomputable def Fmt.real (fm : Fmt) (x : Nat) : ℝ := (fm.decode x).real

/-- An encoding of a format that is neither NaN nor infinity. -/
def Fmt.Finite (fm : Fmt) (x : Nat) : Prop := x < 2 ^ fm.width ∧ (fm.decode x).isNaN = false ∧ ∀ n, fm.decode x ≠ .inf n

/-- One ulp of a format at an exact value: the spacing of its encodings there. -/
noncomputable def Fmt.ulpAt (fm : Fmt) (x : ℝ) : ℝ := (2 : ℝ) ^ (max (Int.log 2 |x|) fm.emin - fm.mbits)

/-- A result that does not overflow is the neighbour of the exact value that the mode names among all finite encodings, and inexact is raised exactly
where it is another number (R93, R94). -/
def Fmt.IsRounding (fm : Fmt) (rm : Mode) (x : ℝ) (r : Nat × Fl) : Prop :=
  fm.Finite r.1 ∧ (r.2 &&& Fl.inexact ≠ 0#6 ↔ fm.real r.1 ≠ x) ∧ ∀ y, fm.Finite y →
    match rm with
    | .rne => |x - fm.real r.1| ≤ |x - fm.real y| ∧ (|x - fm.real r.1| = |x - fm.real y| → fm.real y ≠ fm.real r.1 → r.1 % 2 = 0)
    | .rz => 0 ≤ x * fm.real r.1 ∧ |fm.real r.1| ≤ |x| ∧ (|fm.real y| ≤ |x| → |fm.real y| ≤ |fm.real r.1|)
    | .ru => x ≤ fm.real r.1 ∧ (x ≤ fm.real y → fm.real r.1 ≤ fm.real y)
    | .rd => fm.real r.1 ≤ x ∧ (fm.real y ≤ x → fm.real y ≤ fm.real r.1)
    | .rs => (fm.real y = x → fm.real r.1 = x) ∧ ¬ (min x (fm.real r.1) < fm.real y ∧ fm.real y < max x (fm.real r.1))

/-- A result of an exact value (R93 to R95): its rounding, or where it overflows what the table of R95 gives. -/
def Fmt.IsResult (fm : Fmt) (rm : Mode) (sat : Bool) (x : ℝ) (r : Nat × Fl) : Prop :=
  (r.2 &&& Fl.overflow = 0#6 → fm.IsRounding rm x r) ∧
    (r.2 &&& Fl.overflow ≠ 0#6 → fm.real fm.maxCode < |x| ∧ r.2 &&& Fl.inexact ≠ 0#6 ∧ ∀ neg : Bool, (neg = true ↔ x < 0) → r.1 = fm.sign neg
      (if sat = false ∧ (rm = .rne ∨ rm = .rs ∨ rm = .ru ∧ neg = false ∨ rm = .rd ∧ neg = true) then fm.inf.getD 0 else fm.maxCode))

/-- The flags of an invalid operation: a NaN operand that is signalling, or another reason. -/
def invalidIf (b : Bool) : Fl := if b then Fl.invalid else 0#6

/-! ### The mailbox (R362 to R364) -/

/-- A mailbox command of code `code` runs, its request holds nothing outside its fields, and it is available (R363, R364, R370). -/
def Commanded (s : State) (code : Nat) (harbour : Bool) (fields : List (Nat × Nat)) : Prop :=
  s.mailbox.busy = true ∧ s.mailbox.finished = none ∧ s.mailbox.running.toNat = code ∧ reqOnly s fields = true ∧ (harbour = false → s.boot.harbour = false)

/-- The command has ended with a status, its response holds the numbers of `fields` (offset, size, value), and nothing else of the mailbox has changed. -/
def Responds (s t : State) (status : Nat) (fields : List (Nat × Nat × Nat)) : Prop :=
  t.mailbox.finished = some (BitVec.ofNat 8 status) ∧ t.mailbox.switching = false ∧
    { t.mailbox with finished := s.mailbox.finished, response := s.mailbox.response, switching := s.mailbox.switching } = s.mailbox ∧
    ∀ x ∈ fields, numberOf t.mailbox.response x.1 x.2.1 = x.2.2 % 256 ^ x.2.1

/-- The command has ended with a cause in byte 0 of its response: STATUS 0 for cause 0, else 2. -/
def Answers (s t : State) (cause : Nat) : Prop := Responds s t (if cause = 0 then 0 else 2) [(0, 1, cause)]

/-! ### Packets and replies -/

/-- The fibre `fk` of the crew `serial`, on a core, has become what `g` makes of it, and no other fibre has changed. -/
def OwnerBecomes (s t : State) (serial fk : Nat) (g : Fibre → Fibre) : Prop :=
  ∀ bk f, bankOfSerial s serial = some bk → lookup s.fibres (fibreIn bk fk) = some f →
    lookup t.fibres (fibreIn bk fk) = some (g f) ∧ ∀ k, k ≠ fibreIn bk fk → lookup t.fibres k = lookup s.fibres k

/-- The word that a fibre's `q3` takes (R395): status, kind, GTAG, target, chunk; `near` where the sender's own engine posts it. -/
def TookWord (f f' : Fibre) (x : Word) : Prop := f.q3.length < 80 → f.q3lost = false → f' = { f with q3 := f.q3 ++ [x] }

/-- The lane atomics (R171): whether the location is in scratchpad, and its new value, none where a CAS fails. -/
def laneAtomicSpec (op : LaneOp) : Option (Bool × (Lane → Lane → Lane → Option Lane)) :=
  let add (m c _e : Lane) : Option Lane := some (BitVec.ofNat 32 (m.toNat + c.toNat))
  let least (m c _e : Lane) : Option Lane := some (if m.toInt ≤ c.toInt then m else c)
  let greatest (m c _e : Lane) : Option Lane := some (if m.toInt ≤ c.toInt then c else m)
  let cas (m c e : Lane) : Option Lane := if m = e then some c else none
  let fadd (m c _e : Lane) : Option Lane := some (BitVec.ofNat 32 (Fmt.fp32.add m.toNat c.toNat .rne false 0).1)
  match op with
  | .gaadd => some (false, add)
  | .gamin => some (false, least)
  | .gamax => some (false, greatest)
  | .gaand => some (false, fun m c _ => some (m &&& c))
  | .gaor => some (false, fun m c _ => some (m ||| c))
  | .gaxor => some (false, fun m c _ => some (m ^^^ c))
  | .gaswap => some (false, fun _ c _ => some c)
  | .gacas => some (false, cas)
  | .gafadd => some (false, fadd)
  | .laadd => some (true, add)
  | .lamin => some (true, least)
  | .lamax => some (true, greatest)
  | .laand => some (true, fun m c _ => some (m &&& c))
  | .laor => some (true, fun m c _ => some (m ||| c))
  | .laxor => some (true, fun m c _ => some (m ^^^ c))
  | .laswap => some (true, fun _ c _ => some c)
  | .lacas => some (true, cas)
  | .lafadd => some (true, fadd)
  | _ => none

end Sys2Proof.Machine
end

