-- ==== Sys2Proof/WellFormed.lean ====
section
/-! DEFINITION. Which terms of `Instr` are instructions: the limits of R60 on the fields of a scalar word, and the forms
of the lane words (R56 and the definitions of 06_lane_isa.md). Operations and events are not encoded and have no limits here. -/

namespace Sys2Proof

/-- R309: a scope is 1 to 7, and R = 1 stands only with scope crossing. -/
def scopeWell (r : BitVec 1) (k : BitVec 3) : Bool := k != 0#3 && (r == 0#1 || k == 7#3)

/-- An operand that may stand in a position (R53, R54, R56). -/
def Position.holds (p : Position) (isD : Bool) (o : Operand) : Bool :=
  match p, o with
  | .unused, .unused => true
  | .pred, .pred _ => true
  | .predOr _ _, .pred _ => true
  | .predOr k01 _, .scalar _ => k01
  | .predOr _ k11, .imm _ => k11
  | .kinds k00 _ _ _, .reg _ last _ => k00 && !(isD && last)
  | .kinds _ k01 _ _, .scalar _ => k01
  | .kinds _ _ k10 _, .sweep _ _ => k10
  | .kinds _ _ _ k11, .imm _ => k11
  | _, _ => false

/-- The fields that a lane opcode accepts (R52 to R56, R152 to R176). -/
def laneWellFormed (op : LaneOp) (w : LaneWord) : Bool :=
  let f := laneForm op.opcode
  let narrow := w.ty.toNat < 2
  f.d.holds true w.d && f.a.holds false w.a && f.b.holds false w.b && f.c.holds false w.c &&
    (op != .cvt || cvtReservedOk w.b w.c) &&
    w.d.selectorOk (f.selectors && narrow) && w.a.selectorOk (f.dotSelectors || (f.selectors && narrow)) &&
    w.b.selectorOk (f.dotSelectors || (f.selectors && narrow)) && w.c.selectorOk (f.selectors && narrow) &&
    (op != .cvt || cvtRangeOk w.b w.c) && (op != .topk || topkRangeOk w.d w.b) &&
    f.modifiers w.ty.toNat w.rm.toNat w.sat &&
    (w.count == 0#12 || (f.sweeps && (w.d.isSweep || w.a.isSweep || w.b.isSweep || w.c.isSweep)))

/-- The well-formed instructions. -/
def wellFormed (i : Instr) : Bool :=
  match i with
  | .add .. => true
  | .sub .. => true
  | .mul .. => true
  | .mulh .. => true
  | .mulhn .. => true
  | .div .. => true
  | .divn .. => true
  | .rem .. => true
  | .remn .. => true
  | .min .. => true
  | .max .. => true
  | .minn .. => true
  | .maxn .. => true
  | .and .. => true
  | .or .. => true
  | .xor .. => true
  | .andn .. => true
  | .shl .. => true
  | .shr .. => true
  | .sar .. => true
  | .rotr .. => true
  | .clz .. => true
  | .ctz .. => true
  | .popc .. => true
  | .brev .. => true
  | .seq .. => true
  | .sne .. => true
  | .slt .. => true
  | .sle .. => true
  | .sltn .. => true
  | .slen .. => true
  | .sel .. => true
  | .addsh _ _ _ _ h => h.toNat ≤ 4
  | .addi .. => true
  | .andi .. => true
  | .ori .. => true
  | .xori .. => true
  | .shli .. => true
  | .shri .. => true
  | .sari .. => true
  | .muli .. => true
  | .movi .. => true
  | .movk .. => true
  | .seqi .. => true
  | .snei .. => true
  | .slti .. => true
  | .slei .. => true
  | .sltni .. => true
  | .sleni .. => true
  | .br .. => true
  | .call .. => true
  | .bz .. => true
  | .bnz .. => true
  | .loop _ c _ => c != 0#5
  | .bemz .. => true
  | .bemnz .. => true
  | .jr .. => true
  | .callr .. => true
  | .cls .. => true
  | .fwait .. => true
  | .clswait .. => true
  | .ldb .. => true
  | .ldh .. => true
  | .ldw .. => true
  | .ldd .. => true
  | .ldbn .. => true
  | .ldhn .. => true
  | .ldwn .. => true
  | .stb .. => true
  | .sth .. => true
  | .stw .. => true
  | .std .. => true
  | .sldb .. => true
  | .sldh .. => true
  | .sldw .. => true
  | .sldd .. => true
  | .sldbn .. => true
  | .sldhn .. => true
  | .sldwn .. => true
  | .sstb .. => true
  | .ssth .. => true
  | .sstw .. => true
  | .sstd .. => true
  | .aaddw .. => true
  | .aswapw .. => true
  | .acasw .. => true
  | .aminw .. => true
  | .amaxw .. => true
  | .aminnw .. => true
  | .amaxnw .. => true
  | .aandw .. => true
  | .aorw .. => true
  | .axorw .. => true
  | .aaddd .. => true
  | .aswapd .. => true
  | .acasd .. => true
  | .amind .. => true
  | .amaxd .. => true
  | .aminnd .. => true
  | .amaxnd .. => true
  | .aandd .. => true
  | .aord .. => true
  | .axord .. => true
  | .saaddw .. => true
  | .saswapw .. => true
  | .sacasw .. => true
  | .saminw .. => true
  | .samaxw .. => true
  | .saminnw .. => true
  | .samaxnw .. => true
  | .saandw .. => true
  | .saorw .. => true
  | .saxorw .. => true
  | .saaddd .. => true
  | .saswapd .. => true
  | .sacasd .. => true
  | .samind .. => true
  | .samaxd .. => true
  | .saminnd .. => true
  | .samaxnd .. => true
  | .saandd .. => true
  | .saord .. => true
  | .saxord .. => true
  | .ldacqw .. => true
  | .ldacqd .. => true
  | .strelw .. => true
  | .streld .. => true
  | .fence _ r _ k => scopeWell r k
  | .fencen _ r _ k => scopeWell r k
  | .cwb _ _ _ f => flagOk f
  | .cinv _ _ _ f => flagOk f
  | .cpf _ _ _ f => flagOk f
  | .nred _ _ _ f _ => flagOk f
  | .qpush _ q _ => q.toNat < 8
  | .qpop _ _ q => q.toNat < 8
  | .mfsr _ _ n => sysRegListed n
  | .mtsr _ _ n => sysRegListed n
  | .mfp _ _ p => p.toNat < 8
  | .mtp _ p _ => p.toNat < 8
  | .mfem .. => true
  | .mtem .. => true
  | .mff .. => true
  | .tdset .. => true
  | .tdget .. => true
  | .fbset .. => true
  | .tzero _ _ f => flagOk f
  | .tld _ _ _ f _ => flagOk f
  | .tst _ _ _ f _ => flagOk f
  | .tldl _ _ _ f _ => flagOk f
  | .tstl _ _ _ f _ => flagOk f
  | .mma _ _ _ _ f _ => flagOk f
  | .mmas _ _ _ _ y f _ => y.toNat % 2 == 0 && flagOk f
  | .accz _ _ _ f => flagOk f
  | .accld _ _ _ f _ => flagOk f
  | .accst _ _ _ f _ => flagOk f
  | .acccvt _ _ _ _ f _ => flagOk f
  | .accmv _ _ _ f => flagOk f
  | .publish _ _ _ f => flagOk f
  | .lwinit .. => true
  | .lwarm .. => true
  | .lwadd .. => true
  | .lwait .. => true
  | .lwtest .. => true
  | .cbar .. => true
  | .cbara .. => true
  | .cbarw .. => true
  | .rst _ x f => x.toNat ≤ 60 && flagOk f
  | .rcpy _ x f => x.toNat ≤ 60 && flagOk f
  | .rflush _ _ f => flagOk f
  | .tsarm _ x _ f _ => x.toNat ≤ 60 && flagOk f
  | .tscan .. => true
  | .raadd _ x f _ => x.toNat ≤ 60 && flagOk f
  | .raswap _ x f _ => x.toNat ≤ 60 && flagOk f
  | .racas _ x f _ => x.toNat ≤ 60 && flagOk f
  | .ramin _ x f _ => x.toNat ≤ 60 && flagOk f
  | .ramax _ x f _ => x.toNat ≤ 60 && flagOk f
  | .raand _ x f _ => x.toNat ≤ 60 && flagOk f
  | .raor _ x f _ => x.toNat ≤ 60 && flagOk f
  | .raxor _ x f _ => x.toNat ≤ 60 && flagOk f
  | .rredf _ x f => x.toNat ≤ 60 && flagOk f
  | .rredb _ x f => x.toNat ≤ 60 && flagOk f
  | .rredi _ x f => x.toNat ≤ 60 && flagOk f
  | .rredx _ x f => x.toNat ≤ 60 && flagOk f
  | .rredn _ x f => x.toNat ≤ 60 && flagOk f
  | .gpset .. => true
  | .gpget .. => true
  | .gpause .. => true
  | .spawn _ _ _ f _ => flagOk f
  | .join .. => true
  | .phase .. => true
  | .exit .. => true
  | .launchi _ _ _ f _ => flagOk f
  | .yield .. => true
  | .yieldpt .. => true
  | .bgrant .. => true
  | .fbar .. => true
  | .role _ n k => n.toNat < 4 && k.toNat < 4
  | .tfence .. => true
  | .brk _ p _ => p.toNat < 8
  | .trap .. => true
  | .tret _ _ k => k.toNat < 2
  | .dbara .. => true
  | .dbarw .. => true
  | .qprio .. => true
  | .swapf _ _ _ f => flagOk f
  | .tlbinv _ _ _ f => flagOk f
  | .tlbinva _ _ f => flagOk f
  | .illegalInstr .. => true
  | .iadd w => laneWellFormed .iadd w
  | .isub w => laneWellFormed .isub w
  | .imul w => laneWellFormed .imul w
  | .imulh w => laneWellFormed .imulh w
  | .imad w => laneWellFormed .imad w
  | .imin w => laneWellFormed .imin w
  | .imax w => laneWellFormed .imax w
  | .iabs w => laneWellFormed .iabs w
  | .ineg w => laneWellFormed .ineg w
  | .iand w => laneWellFormed .iand w
  | .ior w => laneWellFormed .ior w
  | .ixor w => laneWellFormed .ixor w
  | .iandn w => laneWellFormed .iandn w
  | .ishl w => laneWellFormed .ishl w
  | .ishr w => laneWellFormed .ishr w
  | .iclz w => laneWellFormed .iclz w
  | .ipopc w => laneWellFormed .ipopc w
  | .ibfe w => laneWellFormed .ibfe w
  | .ibfi w => laneWellFormed .ibfi w
  | .imov w => laneWellFormed .imov w
  | .lnop w => laneWellFormed .lnop w
  | .fadd w => laneWellFormed .fadd w
  | .fsub w => laneWellFormed .fsub w
  | .fmul w => laneWellFormed .fmul w
  | .ffma w => laneWellFormed .ffma w
  | .fdiv w => laneWellFormed .fdiv w
  | .fmin w => laneWellFormed .fmin w
  | .fmax w => laneWellFormed .fmax w
  | .fabs w => laneWellFormed .fabs w
  | .fneg w => laneWellFormed .fneg w
  | .frnd w => laneWellFormed .frnd w
  | .fsqrt w => laneWellFormed .fsqrt w
  | .frcp w => laneWellFormed .frcp w
  | .frsq w => laneWellFormed .frsq w
  | .fexp2 w => laneWellFormed .fexp2 w
  | .flog2 w => laneWellFormed .flog2 w
  | .fsin w => laneWellFormed .fsin w
  | .fcos w => laneWellFormed .fcos w
  | .ftanh w => laneWellFormed .ftanh w
  | .icmpeq w => laneWellFormed .icmpeq w
  | .icmpne w => laneWellFormed .icmpne w
  | .icmplt w => laneWellFormed .icmplt w
  | .icmple w => laneWellFormed .icmple w
  | .icmpgt w => laneWellFormed .icmpgt w
  | .icmpge w => laneWellFormed .icmpge w
  | .fcmpeq w => laneWellFormed .fcmpeq w
  | .fcmpne w => laneWellFormed .fcmpne w
  | .fcmplt w => laneWellFormed .fcmplt w
  | .fcmple w => laneWellFormed .fcmple w
  | .fcmpgt w => laneWellFormed .fcmpgt w
  | .fcmpge w => laneWellFormed .fcmpge w
  | .fcmpun w => laneWellFormed .fcmpun w
  | .fcmpor w => laneWellFormed .fcmpor w
  | .pand w => laneWellFormed .pand w
  | .por w => laneWellFormed .por w
  | .pxor w => laneWellFormed .pxor w
  | .pandn w => laneWellFormed .pandn w
  | .pnot w => laneWellFormed .pnot w
  | .emand w => laneWellFormed .emand w
  | .emset w => laneWellFormed .emset w
  | .emget w => laneWellFormed .emget w
  | .laneSel w => laneWellFormed .laneSel w
  | .cvt w => laneWellFormed .cvt w
  | .dot4 w => laneWellFormed .dot4 w
  | .dot8 w => laneWellFormed .dot8 w
  | .dot2 w => laneWellFormed .dot2 w
  | .scale w => laneWellFormed .scale w
  | .seed w => laneWellFormed .seed w
  | .ldg w => laneWellFormed .ldg w
  | .stg w => laneWellFormed .stg w
  | .lds w => laneWellFormed .lds w
  | .sts w => laneWellFormed .sts w
  | .gaadd w => laneWellFormed .gaadd w
  | .gamin w => laneWellFormed .gamin w
  | .gamax w => laneWellFormed .gamax w
  | .gaand w => laneWellFormed .gaand w
  | .gaor w => laneWellFormed .gaor w
  | .gaxor w => laneWellFormed .gaxor w
  | .gaswap w => laneWellFormed .gaswap w
  | .gacas w => laneWellFormed .gacas w
  | .gafadd w => laneWellFormed .gafadd w
  | .laadd w => laneWellFormed .laadd w
  | .lamin w => laneWellFormed .lamin w
  | .lamax w => laneWellFormed .lamax w
  | .laand w => laneWellFormed .laand w
  | .laor w => laneWellFormed .laor w
  | .laxor w => laneWellFormed .laxor w
  | .laswap w => laneWellFormed .laswap w
  | .lacas w => laneWellFormed .lacas w
  | .lafadd w => laneWellFormed .lafadd w
  | .shfl w => laneWellFormed .shfl w
  | .shflu w => laneWellFormed .shflu w
  | .shfld w => laneWellFormed .shfld w
  | .shflx w => laneWellFormed .shflx w
  | .ballot w => laneWellFormed .ballot w
  | .vany w => laneWellFormed .vany w
  | .vall w => laneWellFormed .vall w
  | .scanadd w => laneWellFormed .scanadd w
  | .scanmin w => laneWellFormed .scanmin w
  | .scanmax w => laneWellFormed .scanmax w
  | .redadd w => laneWellFormed .redadd w
  | .redmin w => laneWellFormed .redmin w
  | .redmax w => laneWellFormed .redmax w
  | .topk w => laneWellFormed .topk w
  | .clauseTake .. => true
  | .laneOpComplete .. => true
  | .scalarResultArrival .. => true
  | .lineFillComplete .. => true
  | .fenceComplete .. => true
  | .roleSwitch .. => true
  | .pageRequestPost .. => true
  | .pageRequestReply .. => true
  | .pageRequestTimeout .. => true
  | .parkedReplay .. => true
  | .prqbaseWrite .. => true
  | .prqheadWrite .. => true
  | .engineInstructionComplete .. => true
  | .publishExchange .. => true
  | .tlbinvComplete .. => true
  | .swapfExchange .. => true
  | .nredElement .. => true
  | .cacheRangeComplete .. => true
  | .copy .. => true
  | .gather .. => true
  | .scatter .. => true
  | .fill .. => true
  | .convert .. => true
  | .copyInvalidOpc .. => true
  | .copyCommandComplete .. => true
  | .lwArrival .. => true
  | .deckAdmission .. => true
  | .graceExpiry .. => true
  | .saveComplete .. => true
  | .drainComplete .. => true
  | .coreScrub .. => true
  | .memoryPatrolScrub .. => true
  | .bankFlip .. => true
  | .bankTransfer .. => true
  | .submitRecord .. => true
  | .registerContext .. => true
  | .releaseContext .. => true
  | .submitstatRead .. => true
  | .hostCxlAccess .. => true
  | .barRegisterWrite .. => true
  | .getStatus .. => true
  | .loadImage .. => true
  | .attest .. => true
  | .setPartitions .. => true
  | .switchPartition .. => true
  | .setLimits .. => true
  | .keyTransport .. => true
  | .keyLoad .. => true
  | .keyClear .. => true
  | .unitReturn .. => true
  | .unitKeepOut .. => true
  | .releaseStop .. => true
  | .mailboxUnknownCommand .. => true
  | .mailboxComplete .. => true
  | .fabricConfigJoin .. => true
  | .fabricConfigWindow .. => true
  | .fabricConfigPause .. => true
  | .fabricConfigResume .. => true
  | .fabricConfigStats .. => true
  | .eventCounterSelectWrite .. => true
  | .eventCounterValueWrite .. => true
  | .deviceReset .. => true
  | .powerLoss .. => true
  | .memoryTrainingDone .. => true
  | .bootReady .. => true
  | .bootWatchdogExpiry .. => true
  | .throttleStep .. => true
  | .emergencyStop .. => true
  | .stackOverheat .. => true
  | .ptpMessage .. => true
  | .fabricQueueStore .. => true
  | .fabricQueueCopy .. => true
  | .fabricQueueReduce .. => true
  | .fabricQueueBadKind .. => true
  | .fabricOperationLeft .. => true
  | .fabricChunkArrival .. => true
  | .reduceChunkArrival .. => true
  | .remoteAtomicArrival .. => true
  | .fabricReplyArrival .. => true
  | .atomicValueReply .. => true
  | .joinedMessage .. => true
  | .readyMessage .. => true
  | .refusedMessage .. => true
  | .pauseMessage .. => true
  | .pauseDrained .. => true
  | .pausedMessage .. => true
  | .switchMessage .. => true
  | .resumeMessage .. => true
  | .routingToken .. => true
  | .routingOpen .. => true
  | .routingClose .. => true
  | .routingBadRecord .. => true
  | .routingHeaderArrival .. => true
  | .routingRound1Close .. => true
  | .routingRound2Close .. => true
  | .tapeAppend .. => true
  | .routingDecisionArrival .. => true
  | .routingPayloadArrival .. => true
  | .placementAcknowledgement .. => true
  | .flitRetry .. => true
  | .cxlLinkEnabled .. => true
  | .fabricPortTraining .. => true
  | .registrationComplete .. => true

end Sys2Proof
end

