-- ==== Sys2Proof/Certificates/Slice0/Obligations.lean ====
section
/-! DEFINITION. The statements for the provers: what the numbered rules of spec/ say of the machine. -/

open Sys2Proof Sys2Proof.Machine

/-- R119, R120: the integer arithmetic instructions write their result to D, charge a toll of 1, and change nothing else. -/
def Obligations.ScalarArithmetic : Prop :=
  ∀ p ∈ ([(Instr.add, fun x y => BitVec.ofNat 64 (x.toNat + y.toNat)),
      (Instr.sub, fun x y => BitVec.ofInt 64 ((x.toNat : Int) - y.toNat)),
      (Instr.mul, fun x y => BitVec.ofNat 64 (x.toNat * y.toNat)),
      (Instr.mulh, fun x y => BitVec.ofInt 64 (x.toInt * y.toInt / 2 ^ 64)),
      (Instr.mulhn, fun x y => BitVec.ofNat 64 (x.toNat * y.toNat / 2 ^ 64)),
      (Instr.div, fun x y => if y = 0#64 then BitVec.allOnes 64 else BitVec.ofInt 64 (x.toInt.tdiv y.toInt)),
      (Instr.divn, fun x y => if y = 0#64 then BitVec.allOnes 64 else BitVec.ofNat 64 (x.toNat / y.toNat)),
      (Instr.rem, fun x y => if y = 0#64 then x else BitVec.ofInt 64 (x.toInt - y.toInt * x.toInt.tdiv y.toInt)),
      (Instr.remn, fun x y => if y = 0#64 then x else BitVec.ofNat 64 (x.toNat - y.toNat * (x.toNat / y.toNat))),
      (Instr.min, fun x y => BitVec.ofInt 64 (min x.toInt y.toInt)),
      (Instr.max, fun x y => BitVec.ofInt 64 (max x.toInt y.toInt)),
      (Instr.minn, fun x y => BitVec.ofNat 64 (min x.toNat y.toNat)),
      (Instr.maxn, fun x y => BitVec.ofNat 64 (max x.toNat y.toNat))] :
      List ((Bool → BitVec 6 → BitVec 6 → BitVec 6 → Instr) × (Word → Word → Word))),
    ∀ (s : State) f w sw d a b, Runs s f w → Ready f [a, b] →
      ∃ (t : State) (f' : Fibre), exec (p.1 sw d a b) s = .next t ∧ Becomes s t f' 1 0 ∧ Wrote f f' d (p.2 (f.readS a) (f.readS b))

/-- R121, R122: logic, shifts, bit counts and compares write their result to D and change nothing else.
A bit count is the length of a run of bits; BREV is said bit by bit. -/
def Obligations.ScalarLogic : Prop :=
  (∀ p ∈ ([(Instr.and, fun x y r => ∀ i < 64, r.getLsbD i = (x.getLsbD i && y.getLsbD i)),
      (Instr.or, fun x y r => ∀ i < 64, r.getLsbD i = (x.getLsbD i || y.getLsbD i)),
      (Instr.xor, fun x y r => ∀ i < 64, r.getLsbD i = (x.getLsbD i != y.getLsbD i)),
      (Instr.andn, fun x y r => ∀ i < 64, r.getLsbD i = (x.getLsbD i && !y.getLsbD i)),
      (Instr.shl, fun x y r => r.toNat = x.toNat * 2 ^ (y.toNat % 64) % 2 ^ 64),
      (Instr.shr, fun x y r => r.toNat = x.toNat / 2 ^ (y.toNat % 64)),
      (Instr.sar, fun x y r => r.toInt = x.toInt / 2 ^ (y.toNat % 64)),
      (Instr.rotr, fun x y r => ∀ i < 64, r.getLsbD i = x.getLsbD ((i + y.toNat) % 64)),
      (Instr.seq, fun x y r => r = if x.toNat = y.toNat then 1#64 else 0#64),
      (Instr.sne, fun x y r => r = if x.toNat = y.toNat then 0#64 else 1#64),
      (Instr.slt, fun x y r => r = if x.toInt < y.toInt then 1#64 else 0#64),
      (Instr.sle, fun x y r => r = if x.toInt ≤ y.toInt then 1#64 else 0#64),
      (Instr.sltn, fun x y r => r = if x.toNat < y.toNat then 1#64 else 0#64),
      (Instr.slen, fun x y r => r = if x.toNat ≤ y.toNat then 1#64 else 0#64)] :
      List ((Bool → BitVec 6 → BitVec 6 → BitVec 6 → Instr) × (Word → Word → Word → Prop))),
    ∀ (s : State) f w sw d a b, Runs s f w → Ready f [a, b] →
      ∃ (t : State) (f' : Fibre) (v : _), exec (p.1 sw d a b) s = .next t ∧ Becomes s t f' 1 0 ∧ Wrote f f' d v ∧ p.2 (f.readS a) (f.readS b) v) ∧
  (∀ p ∈ ([(Instr.clz, fun x r => r.toNat ≤ 64 ∧ (∀ i < r.toNat, x.getLsbD (63 - i) = false) ∧ (r.toNat < 64 → x.getLsbD (63 - r.toNat) = true)),
      (Instr.ctz, fun x r => r.toNat ≤ 64 ∧ (∀ i < r.toNat, x.getLsbD i = false) ∧ (r.toNat < 64 → x.getLsbD r.toNat = true)),
      (Instr.popc, fun x r => r.toNat = (List.finRange 64).countP (fun i => x.getLsbD i)),
      (Instr.brev, fun x r => ∀ i < 64, r.getLsbD i = x.getLsbD (63 - i))] :
      List ((Bool → BitVec 6 → BitVec 6 → Instr) × (Word → Word → Prop))),
    ∀ (s : State) f w sw d a, Runs s f w → Ready f [a] →
      ∃ (t : State) (f' : Fibre) (v : _), exec (p.1 sw d a) s = .next t ∧ Becomes s t f' 1 0 ∧ Wrote f f' d v ∧ p.2 (f.readS a) v)

/-- R125, R127: the immediate forms write their result to D, which is also their source, and change nothing else. -/
def Obligations.ScalarImmediate : Prop :=
  (∀ p ∈ ([(Instr.addi, fun x m => BitVec.ofInt 64 (x.toInt + m.toInt)),
      (Instr.andi, fun x m => x &&& BitVec.ofNat 64 m.toNat),
      (Instr.ori, fun x m => x ||| BitVec.ofNat 64 m.toNat),
      (Instr.xori, fun x m => x ^^^ BitVec.ofNat 64 m.toNat),
      (Instr.muli, fun x m => BitVec.ofInt 64 (x.toInt * m.toInt)),
      (Instr.seqi, fun x m => if x.toInt = m.toInt then 1#64 else 0#64),
      (Instr.snei, fun x m => if x.toInt = m.toInt then 0#64 else 1#64),
      (Instr.slti, fun x m => if x.toInt < m.toInt then 1#64 else 0#64),
      (Instr.slei, fun x m => if x.toInt ≤ m.toInt then 1#64 else 0#64),
      (Instr.sltni, fun x m => if x.toNat < (BitVec.ofInt 64 m.toInt).toNat then 1#64 else 0#64),
      (Instr.sleni, fun x m => if x.toNat ≤ (BitVec.ofInt 64 m.toInt).toNat then 1#64 else 0#64)] :
      List ((Bool → BitVec 6 → BitVec 16 → Instr) × (Word → BitVec 16 → Word))),
    ∀ (s : State) f w sw d m, Runs s f w → Ready f [d] →
      ∃ (t : State) (f' : Fibre), exec (p.1 sw d m) s = .next t ∧ Becomes s t f' 1 0 ∧ Wrote f f' d (p.2 (f.readS d) m)) ∧
  (∀ p ∈ ([(Instr.shli, fun x k => BitVec.ofNat 64 (x.toNat * 2 ^ k)),
      (Instr.shri, fun x k => BitVec.ofNat 64 (x.toNat / 2 ^ k)),
      (Instr.sari, fun x k => BitVec.ofInt 64 (x.toInt / 2 ^ k))] :
      List ((Bool → BitVec 6 → BitVec 6 → Instr) × (Word → Nat → Word))),
    ∀ (s : State) f w sw d m, Runs s f w → Ready f [d] →
      ∃ (t : State) (f' : Fibre), exec (p.1 sw d m) s = .next t ∧ Becomes s t f' 1 0 ∧ Wrote f f' d (p.2 (f.readS d) m.toNat))

/-- R128 to R131: branches, calls and loops go to their target or to the next instruction, and write nothing but the link register
or the count. A branch on `em` first waits for the clauses enqueued before it. A jump to a misaligned address traps (R117, R131). -/
def Obligations.ScalarBranches : Prop :=
  (∀ (s : State) f w sw o, Runs s f w → ∃ (t : State) (f' : Fibre), exec (.br sw o) s = .next t ∧ Becomes s t f' 1 0 ∧
      WentTo f f' (BitVec.ofInt 64 (f.spc.toInt + o.toInt * 4))) ∧
  (∀ (s : State) f w sw o, Runs s f w → ∃ (t : State) (f' : Fibre), exec (.call sw o) s = .next t ∧ Becomes s t f' 1 0 ∧ f'.still = f.still ∧
      f'.spc = BitVec.ofInt 64 (f.spc.toInt + o.toInt * 4) ∧
      ∀ r, f'.readS r = if r = 61#6 then f.spc + 4#64 else f.readS r) ∧
  (∀ p ∈ ([(Instr.bz, true), (Instr.bnz, false)] : List ((Bool → BitVec 5 → BitVec 20 → Instr) × Bool)),
    ∀ (s : State) f w sw c o, Runs s f w → Ready f [c.setWidth 6] → ∃ (t : State) (f' : Fibre), exec (p.1 sw c o) s = .next t ∧ Becomes s t f' 1 0 ∧
      WentTo f f' (if decide (f.readS (c.setWidth 6) = 0#64) = p.2 then BitVec.ofInt 64 (f.spc.toInt + o.toInt * 4) else f.spc + 4#64)) ∧
  (∀ (s : State) f w sw c o, Runs s f w → Ready f [c.setWidth 6] → ∃ (t : State) (f' : Fibre), exec (.loop sw c o) s = .next t ∧ Becomes s t f' 1 0 ∧ f'.still = f.still ∧
      (∀ r, f'.readS r = if r = c.setWidth 6 ∧ r ≠ 0#6 then f.readS r - 1#64 else f.readS r) ∧
      f'.spc = if f.readS (c.setWidth 6) = 1#64 then f.spc + 4#64 else BitVec.ofInt 64 (f.spc.toInt + o.toInt * 4)) ∧
  (∀ p ∈ ([(Instr.bemz, true), (Instr.bemnz, false)] : List ((Bool → BitVec 20 → Instr) × Bool)),
    ∀ (s : State) f w sw o, Runs s f w →
      (f.clauses = [] → ∃ (t : State) (f' : Fibre), exec (p.1 sw o) s = .next t ∧ Becomes s t f' 1 0 ∧
        WentTo f f' (if decide (f.em = 0#32) = p.2 then BitVec.ofInt 64 (f.spc.toInt + o.toInt * 4) else f.spc + 4#64)) ∧
      (f.clauses ≠ [] → f.handler = none → exec (p.1 sw o) s = .next (stallScalar s sw .clauses))) ∧
  (∀ p ∈ ([(Instr.jr, false), (Instr.callr, true)] : List ((Bool → BitVec 6 → Instr) × Bool)),
    ∀ (s : State) f w sw a, Runs s f w → Ready f [a] →
      ((f.readS a).toNat % 4 = 0 → ∃ (t : State) (f' : Fibre), exec (p.1 sw a) s = .next t ∧ Becomes s t f' 1 0 ∧ f'.still = f.still ∧
        f'.spc = f.readS a ∧ ∀ r, f'.readS r = if p.2 = true ∧ r = 61#6 then f.spc + 4#64 else f.readS r) ∧
      ((f.readS a).toNat % 4 ≠ 0 → ∃ (u : State), Becomes s u f.issued 1 0 ∧
        exec (p.1 sw a) s = .next (takeTrap u false { cause := .pcAlign, addr := f.readS a })))

/-- R132: CLS appends an entry that holds the header address and the scalar registers as they are; CLSWAIT waits besides until that entry has
left the queue, FWAIT until every named flag is clear. An append stalls while the queue holds four entries (R21).
Where the rules leave a point open it follows the model's own choice (assumption 31: SPC lies past an FWAIT or CLSWAIT that waits). -/
def Obligations.ClauseIssue : Prop :=
  (∀ (s : State) f w sw k, Runs s f w → f.handler = none → f.clauses.length < 4 →
    ∃ (t : State) (f' : Fibre) (c : _), exec (.cls sw k) s = .next t ∧ Becomes s t f' 1 0 ∧ (∀ r, f'.readS r = f.readS r ∧ f'.due r = f.due r) ∧ f'.spc = f.spc + 4#64 ∧
      f'.clauses = f.clauses ++ [c] ∧ { f'.still with clauses := f.clauses } = f.still ∧
      c.header = f.lcbase + BitVec.ofNat 64 (k.toNat * 16) ∧ c.snapshot = f.sregs ∧
      ∀ r id, (r, id) ∈ c.awaiting ↔ ∃ p ∈ f.spend, p.live = true ∧ p.dest ≠ 0#6 ∧ p.dest.toNat = r ∧ p.id = id) ∧
  (∀ (s : State) f w sw k, Runs s f w → f.handler = none → f.clauses.length < 4 →
    ∃ (t : State) (f' : Fibre) (c : _), exec (.clswait sw k) s = .next t ∧ HandsOn s t f' 1 0 ∧ (∀ r, f'.readS r = f.readS r ∧ f'.due r = f.due r) ∧ f'.spc = f.spc + 4#64 ∧
      f'.clauses = f.clauses ++ [c] ∧ f'.sWait = some (.clause c.serial) ∧ { f'.still with clauses := f.clauses, sWait := f.sWait } = f.still ∧
      c.header = f.lcbase + BitVec.ofNat 64 (k.toNat * 16) ∧ c.snapshot = f.sregs) ∧
  (∀ (s : State) f w sw k, Runs s f w → f.handler = none → 4 ≤ f.clauses.length →
    exec (.cls sw k) s = .next (stallScalar s sw .clauseFull) ∧ exec (.clswait sw k) s = .next (stallScalar s sw .clauseFull)) ∧
  (∀ (s : State) f w sw m, Runs s f w →
    ((∀ k : Fin 12, m.getLsbD k = true → f.flags[k] = 0#4) →
      ∃ (t : State) (f' : Fibre), exec (.fwait sw m) s = .next t ∧ Becomes s t f' 1 0 ∧ WentTo f f' (f.spc + 4#64)) ∧
    ((∃ k : Fin 12, m.getLsbD k = true ∧ f.flags[k] ≠ 0#4) →
      ∃ (t : State) (f' : Fibre), exec (.fwait sw m) s = .next t ∧ HandsOn s t f' 1 0 ∧ (∀ r, f'.readS r = f.readS r ∧ f'.due r = f.due r) ∧ f'.spc = f.spc + 4#64 ∧
        f'.sWait = some (.flags m) ∧ { f'.still with sWait := f.sWait } = f.still))

/-- R144: the moves of predicates, of `em` and of the flag counts. Those of predicates and `em` wait for the clauses enqueued before them. -/
def Obligations.PredicateMoves : Prop :=
  (∀ (s : State) f w sw d p, Runs s f w → f.clauses = [] → ∃ (t : State) (f' : Fibre), exec (.mfp sw d p) s = .next t ∧ Becomes s t f' 1 0 ∧
    Wrote f f' d ((f.readP (p.setWidth 3)).setWidth 64)) ∧
  (∀ (s : State) f w sw d, Runs s f w → f.clauses = [] → ∃ (t : State) (f' : Fibre), exec (.mfem sw d) s = .next t ∧ Becomes s t f' 1 0 ∧ Wrote f f' d (f.em.setWidth 64)) ∧
  (∀ (s : State) f w sw p a, Runs s f w → Ready f [a] → f.clauses = [] → ∃ (t : State) (f' : Fibre), exec (.mtp sw p a) s = .next t ∧ Becomes s t f' 1 0 ∧
    (∀ r, f'.readS r = f.readS r ∧ f'.due r = f.due r) ∧ f'.spc = f.spc + 4#64 ∧ { f'.still with preds := f.preds } = f.still ∧
    ∀ n, f'.readP n = if n = p.setWidth 3 ∧ n ≠ 0#3 then (f.readS a).setWidth 32 else f.readP n) ∧
  (∀ (s : State) f w sw a, Runs s f w → Ready f [a] → f.clauses = [] → ∃ (t : State) (f' : Fibre), exec (.mtem sw a) s = .next t ∧ Becomes s t f' 1 0 ∧
    (∀ r, f'.readS r = f.readS r ∧ f'.due r = f.due r) ∧ f'.spc = f.spc + 4#64 ∧ { f'.still with em := f.em } = f.still ∧
    f'.em = (f.readS a).setWidth 32) ∧
  (∀ (s : State) f w sw d, Runs s f w → ∃ (t : State) (f' : Fibre) (v : _), exec (.mff sw d) s = .next t ∧ Becomes s t f' 1 0 ∧ Wrote f f' d v ∧ v.toNat < 2 ^ 48 ∧
    ∀ k : Fin 12, v.toNat / 16 ^ k.val % 16 = (f.flags[k]).toNat) ∧
  ∀ (s : State) f w sw d p a, Runs s f w → Ready f [a] → f.clauses ≠ [] → f.handler = none →
    exec (.mfp sw d p) s = .next (stallScalar s sw .clauses) ∧ exec (.mfem sw d) s = .next (stallScalar s sw .clauses) ∧
    exec (.mtp sw p a) s = .next (stallScalar s sw .clauses) ∧ exec (.mtem sw a) s = .next (stallScalar s sw .clauses)

/-- R134 to R138, R313: a load whose location translates reads the bytes of its spots, least significant first, and widens them; no byte
changes. The result is outstanding until it arrives (R115); an acquire writes it at once.
Where the rules leave a point open it follows the model's own choices (assumption 6). -/
def Obligations.ScalarLoads : Prop :=
  (∀ p ∈ ([(Instr.ldb, 1, true), (Instr.ldh, 2, true), (Instr.ldw, 4, true), (Instr.ldd, 8, false), (Instr.ldbn, 1, false),
      (Instr.ldhn, 2, false), (Instr.ldwn, 4, false)] : List ((Bool → BitVec 6 → BitVec 6 → BitVec 10 → Instr) × Nat × Bool)),
    ∀ (s : State) f w sw d b o l bytes, Runs s f w → Ready f [b] →
      Reaches s f w (f.readS b + BitVec.ofInt 64 (o.toInt * p.2.1)) p.2.1 .load l → Seen s l bytes →
      ∃ (t : State) (f' : Fibre), exec (p.1 sw d b o) s = .next t ∧
        LoadDone s t f' (memoryLines (f.readS b + BitVec.ofInt 64 (o.toInt * p.2.1)) p.2.1 (.ok l)) ∧
        Awaits f f' d (if p.2.2 then (BitVec.ofNat (8 * p.2.1) (leNat bytes)).signExtend 64 else BitVec.ofNat 64 (leNat bytes))) ∧
  (∀ p ∈ ([(Instr.sldb, 1, true), (Instr.sldh, 2, true), (Instr.sldw, 4, true), (Instr.sldd, 8, false), (Instr.sldbn, 1, false),
      (Instr.sldhn, 2, false), (Instr.sldwn, 4, false)] : List ((Bool → BitVec 6 → BitVec 6 → BitVec 10 → Instr) × Nat × Bool)),
    ∀ (s : State) f w sw d b o a l bytes, Runs s f w → Ready f [b] → a = (f.readS b + BitVec.ofInt 64 (o.toInt * p.2.1)).toNat % 2 ^ 24 →
      ReachesLocal s f a p.2.1 .load l → Seen s l bytes →
      ∃ (t : State) (f' : Fibre), exec (p.1 sw d b o) s = .next t ∧ LoadDone s t f' (peerLines a p.2.1) ∧
        Awaits f f' d (if p.2.2 then (BitVec.ofNat (8 * p.2.1) (leNat bytes)).signExtend 64 else BitVec.ofNat 64 (leNat bytes))) ∧
  (∀ p ∈ ([(Instr.ldacqw, 4), (Instr.ldacqd, 8)] : List ((Bool → BitVec 6 → BitVec 6 → BitVec 10 → Instr) × Nat)),
    ∀ (s : State) f w sw d b o l bytes, Runs s f w → Ready f [b] →
      Reaches s f w (f.readS b + BitVec.ofInt 64 (o.toInt * p.2)) p.2 .load l → Seen s l bytes →
      (f.readS b).toNat % p.2 = 0 →
      ∃ (t : State) (f' : Fibre), exec (p.1 sw d b o) s = .next t ∧
        LoadDone s t f' (memoryLines (f.readS b + BitVec.ofInt 64 (o.toInt * p.2)) p.2 (.ok l)) ∧
        Wrote f f' d ((BitVec.ofNat (8 * p.2) (leNat bytes)).signExtend 64))

/-- R134, R136, R138, R313: a store whose location translates leaves the low bytes of its register, least significant first, at its spots,
and every other place reads as before. A release first waits for all that a fence of crossing scope waits for.
Where the rules leave a point open it follows the model's own choices (assumption 6). -/
def Obligations.ScalarStores : Prop :=
  (∀ p ∈ ([(Instr.stb, 1), (Instr.sth, 2), (Instr.stw, 4), (Instr.std, 8)] :
      List ((Bool → BitVec 6 → BitVec 6 → BitVec 10 → Instr) × Nat)),
    ∀ (s : State) f w sw d b o l key, Runs s f w → Ready f [d, b] →
      Reaches s f w (f.readS b + BitVec.ofInt 64 (o.toInt * p.2)) p.2 (.store (f.readS d).toNat) l → Storable s l key →
      ∃ (t : State) (f' : Fibre), exec (p.1 sw d b o) s = .next t ∧ WentTo f f' (f.spc + 4#64) ∧
        StoreDone s t f' (memoryLines (f.readS b + BitVec.ofInt 64 (o.toInt * p.2)) p.2 (.ok l)) l
          ((List.range p.2).map (fun i => BitVec.ofNat 8 ((f.readS d).toNat / 256 ^ i))) key) ∧
  (∀ p ∈ ([(Instr.sstb, 1), (Instr.ssth, 2), (Instr.sstw, 4), (Instr.sstd, 8)] :
      List ((Bool → BitVec 6 → BitVec 6 → BitVec 10 → Instr) × Nat)),
    ∀ (s : State) f w sw d b o a l, Runs s f w → Ready f [d, b] → a = (f.readS b + BitVec.ofInt 64 (o.toInt * p.2)).toNat % 2 ^ 24 →
      ReachesLocal s f a p.2 (.store (f.readS d).toNat) l → Storable s l none →
      ∃ (t : State) (f' : Fibre), exec (p.1 sw d b o) s = .next t ∧ WentTo f f' (f.spc + 4#64) ∧
        StoreDone s t f' (peerLines a p.2) l ((List.range p.2).map (fun i => BitVec.ofNat 8 ((f.readS d).toNat / 256 ^ i))) none) ∧
  (∀ p ∈ ([(Instr.strelw, 4), (Instr.streld, 8)] : List ((Bool → BitVec 6 → BitVec 6 → BitVec 10 → Instr) × Nat)),
    ∀ (s : State) f w sw d b o l key, Runs s f w → Ready f [d, b] → Quiet s f 7 true true →
      Reaches s f w (f.readS b + BitVec.ofInt 64 (o.toInt * p.2)) p.2 (.store (f.readS d).toNat) l → Storable s l key →
      (f.readS b).toNat % p.2 = 0 →
      ∃ (t : State) (f' : Fibre), exec (p.1 sw d b o) s = .next t ∧ WentTo f f' (f.spc + 4#64) ∧
        StoreDone s t f' (memoryLines (f.readS b + BitVec.ofInt 64 (o.toInt * p.2)) p.2 (.ok l)) l
          ((List.range p.2).map (fun i => BitVec.ofNat 8 ((f.readS d).toNat / 256 ^ i))) key)

/-- R139, R140: an atomic reads its location, aligned to its width, and leaves there the new value of its operation; D receives the old
value, zero-extended. A CAS that finds another value than it expects leaves the location as it was.
Where the rules leave a point open it follows the model's own choices (assumption 6). -/
def Obligations.ScalarAtomics : Prop :=
  ∀ p ∈ ([(Instr.aaddw, Instr.aaddd, Instr.saaddw, Instr.saaddd, false, fun w m b _ => some ((m + b) % 2 ^ w)),
      (Instr.aswapw, Instr.aswapd, Instr.saswapw, Instr.saswapd, false, fun w _ b _ => some (b % 2 ^ w)),
      (Instr.acasw, Instr.acasd, Instr.sacasw, Instr.sacasd, true,
        fun w m b e => if m = e % 2 ^ w then some (b % 2 ^ w) else none),
      (Instr.aminw, Instr.amind, Instr.saminw, Instr.samind, false,
        fun w m b _ => if (BitVec.ofNat w m).toInt ≤ (BitVec.ofNat w b).toInt then some m else some (b % 2 ^ w)),
      (Instr.amaxw, Instr.amaxd, Instr.samaxw, Instr.samaxd, false,
        fun w m b _ => if (BitVec.ofNat w b).toInt ≤ (BitVec.ofNat w m).toInt then some m else some (b % 2 ^ w)),
      (Instr.aminnw, Instr.aminnd, Instr.saminnw, Instr.saminnd, false, fun w m b _ => some (min m (b % 2 ^ w))),
      (Instr.amaxnw, Instr.amaxnd, Instr.samaxnw, Instr.samaxnd, false, fun w m b _ => some (max m (b % 2 ^ w))),
      (Instr.aandw, Instr.aandd, Instr.saandw, Instr.saandd, false, fun w m b _ => some (m &&& (b % 2 ^ w))),
      (Instr.aorw, Instr.aord, Instr.saorw, Instr.saord, false, fun w m b _ => some (m ||| (b % 2 ^ w))),
      (Instr.axorw, Instr.axord, Instr.saxorw, Instr.saxord, false, fun w m b _ => some (m ^^^ (b % 2 ^ w)))] :
      List ((Bool → BitVec 6 → BitVec 6 → BitVec 6 → Instr) × (Bool → BitVec 6 → BitVec 6 → BitVec 6 → Instr) ×
        (Bool → BitVec 6 → BitVec 6 → BitVec 6 → Instr) × (Bool → BitVec 6 → BitVec 6 → BitVec 6 → Instr) × Bool ×
        (Nat → Nat → Nat → Nat → Option Nat))),
    let bytes := fun (n : Nat) (f : Fibre) (d b : BitVec 6) (old : List Byte) =>
      (p.2.2.2.2.2 (8 * n) (leNat old) (f.readS b).toNat (f.readS d).toNat).map (fun v => (List.range n).map (fun i => BitVec.ofNat 8 (v / 256 ^ i)))
    (∀ c ∈ [(p.1, 4), (p.2.1, 8)], ∀ (s : State) f w sw d a b l old key, Runs s f w → Ready f (if p.2.2.2.2.1 then [a, b, d] else [a, b]) →
      Reaches s f w (f.readS a) c.2 (.update fun m => some m) l → Seen s l old → Storable s l key → (f.readS a).toNat % c.2 = 0 →
      ∃ (t : State) (f' : Fibre), exec (c.1 sw d a b) s = .next t ∧ Awaits f f' d (BitVec.ofNat 64 (leNat old)) ∧
        UpdateDone s t f' (if inOwnScratch (bankOfFibre s.cur) (.ok l) then 0 else 1) l (bytes c.2 f d b old) key) ∧
    ∀ c ∈ [(p.2.2.1, 4), (p.2.2.2.1, 8)], ∀ (s : State) f w sw d a b x l old, Runs s f w → Ready f (if p.2.2.2.2.1 then [a, b, d] else [a, b]) →
      x = (f.readS a).toNat % 2 ^ 24 → ReachesLocal s f x c.2 (.update fun m => some m) l → Seen s l old → Storable s l none →
      x % c.2 = 0 →
      ∃ (t : State) (f' : Fibre), exec (c.1 sw d a b) s = .next t ∧ Awaits f f' d (BitVec.ofNat 64 (leNat old)) ∧
        UpdateDone s t f' (min 1 (peerLines x c.2)) l (bytes c.2 f d b old) none

/-- R307 to R311: FENCE issues at once and leaves a pending fence with a checkpoint of the fibre; FENCEN completes once nothing that it waits
for is outstanding, and stalls while an earlier clause is. A pending fence holds back another.
Where the rules leave a point open it follows the model's own choices (assumptions 28 and 30). -/
def Obligations.FenceIssue : Prop :=
  (∀ (s : State) f w sw r e k, Runs s f w → f.fence = none →
    ∃ (t : State) (f' : Fibre) (x : _), exec (.fence sw r e k) s = .next t ∧ Becomes s t f' 1 0 ∧ f'.fence = some x ∧ x.scope = k.toNat ∧
      (x.engines = true ↔ e = 1#1) ∧ (x.remote = true ↔ r = 1#1) ∧ x.limit ≤ 64 ∧ x.stores = [] ∧ x.heldTrap = none ∧ x.rolledBack = false ∧
      x.checkpoint.sregs = f.sregs ∧ x.checkpoint.preds = f.preds ∧ x.checkpoint.em = f.em ∧ x.checkpoint.flags = f.flags ∧
      x.checkpoint.clauses = f.clauses ∧ x.checkpoint.spc = f.spc + 4#64 ∧
      f'.spc = f.spc + 4#64 ∧ (∀ r, f'.readS r = f.readS r ∧ f'.due r = f.due r) ∧ { f'.still with fence := none } = f.still) ∧
  (∀ (s : State) f w sw r e k, Runs s f w → Quiet s f k.toNat (e == 1#1) (r == 1#1) →
    ∃ (t : State) (f' : Fibre), exec (.fencen sw r e k) s = .next t ∧ Becomes s t f' 1 0 ∧ WentTo f f' (f.spc + 4#64)) ∧
  (∀ (s : State) f w sw r e k, Runs s f w → f.fence = none → f.handler = none → f.clauses ≠ [] →
    exec (.fencen sw r e k) s = .next (stallScalar s sw (.drain k.toNat (e == 1#1) (r == 1#1)))) ∧
  ∀ (s : State) f w sw r e k, Runs s f w → f.fence ≠ none →
    exec (.fence sw r e k) s = .next (stallScalar s sw .fencePending) ∧ exec (.fencen sw r e k) s = .next (stallScalar s sw .fencePending)

/-- R228, R232: TDSET and FBSET check a descriptor and write it to the crew's register, TDGET reads one; a descriptor that fails its check,
or whose reserved bits are not zero, traps (R224, R227). -/
def Obligations.SharedRegisters : Prop :=
  (∀ (s : State) f w sw (i : BitVec 4) y, Runs s f w → Ready f [y] → f.fence = none →
    (tdOk (f.readS y) = true → (f.readS y).toNat < 2 ^ 20 → ∃ (t : State) (f' : Fibre) (w' : Crew), exec (.tdset sw i y) s = .next t ∧
      lookup t.fibres s.cur = some f' ∧ WentTo f f' (f.spc + 4#64) ∧ (∀ k, k ≠ s.cur → lookup t.fibres k = lookup s.fibres k) ∧
      lookup t.crews (bankOfFibre s.cur) = some w' ∧ w'.calm = { w.calm with td := w.td.set i.toNat (f.readS y) i.isLt } ∧
      (∀ k, k ≠ bankOfFibre s.cur → (lookup t.crews k).map Crew.calm = (lookup s.crews k).map Crew.calm) ∧
      { t with fibres := s.fibres, crews := s.crews, counters := s.counters } = s) ∧
    (tdOk (f.readS y) = false ∨ 2 ^ 20 ≤ (f.readS y).toNat → ∃ (u : State), Becomes s u f.issued 1 0 ∧
      exec (.tdset sw i y) s = .next (takeTrap u false { cause := .tileShape }))) ∧
  (∀ (s : State) f w sw (i : BitVec 4) y, Runs s f w → f.fence = none → ∃ (t : State) (f' : Fibre), exec (.tdget sw i y) s = .next t ∧ Becomes s t f' 1 0 ∧
    Wrote f f' y (w.td[i.toNat]'i.isLt)) ∧
  ∀ (s : State) f w sw (j : BitVec 2) y, Runs s f w → Ready f [y] → f.fence = none →
    (fbOk (f.readS y) = true → (f.readS y).toNat % 2 = 0 → ∃ (t : State) (f' : Fibre) (w' : Crew), exec (.fbset sw j y) s = .next t ∧
      lookup t.fibres s.cur = some f' ∧ WentTo f f' (f.spc + 4#64) ∧ (∀ k, k ≠ s.cur → lookup t.fibres k = lookup s.fibres k) ∧
      lookup t.crews (bankOfFibre s.cur) = some w' ∧ w'.calm = { w.calm with fb := w.fb.set j.toNat (f.readS y) j.isLt } ∧
      (∀ k, k ≠ bankOfFibre s.cur → (lookup t.crews k).map Crew.calm = (lookup s.crews k).map Crew.calm) ∧
      { t with fibres := s.fibres, crews := s.crews, counters := s.counters } = s) ∧
    (fbOk (f.readS y) = false ∨ (f.readS y).toNat % 2 = 1 → ∃ (u : State), Becomes s u f.issued 1 0 ∧
      exec (.fbset sw j y) s = .next (takeTrap u false { cause := .formatBlock }))

/-- R225, R229, R233 to R238: an instruction of the matrix unit whose checks pass issues: its operation joins the unit's queue with the operands
it names, and its flag is raised.
Where the rules leave a point open it follows the model's own choices (assumption 7). -/
def Obligations.MatrixIssue : Prop :=
  ∀ (s : State) f w sw flag, Runs s f w → Free f flag → matrixFull s (bankOfFibre s.cur) = false →
    (∀ i, ∃ (t : State), exec (.tzero sw i flag) s = .next t ∧ Started s t f flag (.tzero i.toNat) 1 0) ∧
    (∀ i y, Ready f [y] → ∃ (t : State), exec (.accz sw i y flag) s = .next t ∧ Started s t f flag (.accz i.toNat ((f.readS y).setWidth 32)) 1 0) ∧
    (∀ x y, ∃ (t : State), exec (.accmv sw x y flag) s = .next t ∧ Started s t f flag (.accMove x.toNat y.toNat) 1 0) ∧
    (∀ i y z a n, Ready f [y, z] → a = (f.readS y).toNat % 2 ^ 24 → n = (f.readS z).toNat → 1 ≤ n → n ≤ 8192 → a % 4 = 0 → LocalRange s a (4 * n) →
      (∃ (t : State), exec (.accld sw i y flag z) s = .next t ∧ Started s t f flag (.accLoad i.toNat a n) 1 (peerLines a (4 * n))) ∧
      ∃ (t : State), exec (.accst sw i y flag z) s = .next t ∧ Started s t f flag (.accStore i.toNat a n) 1 (peerLines a (4 * n))) ∧
    (∀ (j : BitVec 2) i y z b a m n, Ready f [y, z] → b = w.fb[j.toNat]'j.isLt → a = (f.readS y).toNat % 2 ^ 24 →
      (f.readS z).toNat = m * 2 ^ 16 + n → 1 ≤ m → m < 2 ^ 16 → 1 ≤ n → n < 2 ^ 16 → m * n ≤ 8192 → cvtBlockOk b = true →
      n % (if fbSCA b then fbBLA b else 16) = 0 → (∀ x ∈ convertDests b a (m * n), LocalRange s x.1 x.2) →
      ∃ (t : State), exec (.acccvt sw j i y flag z) s = .next t ∧ Started s t f flag (.accConvert i.toNat a m n b) 1
        (linesTouched (((convertDests b a (m * n)).flatMap (fun x => (List.range x.2).map (x.1 + ·))).filter isPeer))) ∧
    ∀ (j : BitVec 2) i (y z : BitVec 4) b ta tb, b = w.fb[j.toNat]'j.isLt → ta = w.td[y.toNat]'y.isLt → tb = w.td[z.toNat]'z.isLt →
      fbOk b = true → fbAccepted b = true → tdOk ta = true → tdOk tb = true → tdRows ta * tdCols tb ≤ 8192 →
      ewWidth ta = packedWidth (fbFA b) (fbI4A b) → ewWidth tb = packedWidth (fbFB b) (fbI4B b) →
      (∀ k, k = tdCols ta → tdRows tb = k → (wfld b 57 1 = 0 ∧ wfld b 58 1 = 0 ∨ k % 32 = 0) →
        LocalRange s (fbSADA b) (if fbSCA b then 2 * (tdRows ta * (k / fbBLA b)) else 0) →
        LocalRange s (fbSADB b) (if fbSCB b then 2 * (k / fbBLB b * tdCols tb) else 0) →
        ∃ (t : State), exec (.mma sw j i y flag z) s = .next t ∧
          Started s t f flag (.mma i.toNat y.toNat z.toNat (tdRows ta) (tdCols tb) k b none) (k / 16) 0) ∧
      ∀ d k, fbSparse b = true → k = tdCols ta * 8 / (if d = 0#1 then 2 else 4) → tdRows tb = k →
        (wfld b 57 1 = 0 ∧ wfld b 58 1 = 0 ∨ k % 32 = 0) → tdRows ta * k / 8 * 2 ≤ 16384 →
        LocalRange s (fbSADA b) (if fbSCA b then 2 * (tdRows ta * (k / fbBLA b)) else 0) →
        LocalRange s (fbSADB b) (if fbSCB b then 2 * (k / fbBLB b * tdCols tb) else 0) →
        ∃ (t : State), exec (.mmas sw d j i y flag z) s = .next t ∧
          Started s t f flag (.mma i.toNat y.toNat z.toNat (tdRows ta) (tdCols tb) k b (some (if d = 0#1 then 2 else 4))) (k / 16) 0

/-- R230, R246: a tile transfer or a PUBLISH whose ranges translate issues: its operation is outstanding, with the first byte of every row,
its flag is raised, and the lines of memory or of deck-peer windows that it touches are charged, each once (R224); nothing has moved yet.
Where the rules leave a point open it follows the model's own choices (assumption 7). -/
def Obligations.TileIssue : Prop :=
  ∀ (s : State) f w sw flag, Runs s f w → Free f flag → f.sReplay = none →
    (∀ (i : BitVec 4) y z d stride, Ready f [y, z] → tilePathFull s (coreOfFibre s.cur) = false → d = w.td[i.toNat]'i.isLt → tdOk d = true →
      stride = (if z = 0#6 then BitVec.ofNat 64 (tdRowBytes d) else f.readS z) →
      (∀ e want starts (L : Word → List Spot), starts = rowStarts (f.readS y) stride (tdRows d) → envOf s w = some e → (want = .read ∨ want = .write) →
        (∀ v ∈ starts, engineSpots s e v (tdRowBytes d) want = .ok (L v)) → walkedRanges s e starts (tdRowBytes d) = s →
        ∃ (t : State), exec (if want = .read then .tld sw i y flag z else .tst sw i y flag z) s = .next t ∧
          Started s t f flag (if want = .read then .tileLoad i.toNat (tdRowBytes d) (starts.map (·.toNat)) false
            else .tileStore i.toNat (tdRowBytes d) (starts.map (·.toNat)) false) 1
            (linesTouched (starts.flatMap (fun v => ((L v).filter (fun x => !inWindow x.phys)).map (·.phys))))) ∧
      ∀ rows, rows = (rowStarts (f.readS y) stride (tdRows d)).map (fun v => v.toNat % 2 ^ 24) →
        (∀ a ∈ rows, LocalRange s a (tdRowBytes d) ∧ localRegion a = localRegion (rows.headD 0)) →
        (∃ (t : State), exec (.tldl sw i y flag z) s = .next t ∧ Started s t f flag (.tileLoad i.toNat (tdRowBytes d) rows true) 1
          (linesTouched ((rows.flatMap (fun a => (List.range (tdRowBytes d)).map (a + ·))).filter isPeer))) ∧
        ∃ (t : State), exec (.tstl sw i y flag z) s = .next t ∧ Started s t f flag (.tileStore i.toNat (tdRowBytes d) rows true) 1
          (linesTouched ((rows.flatMap (fun a => (List.range (tdRowBytes d)).map (a + ·))).filter isPeer))) ∧
    ∀ x y e, Ready f [x, y] → envOf s w = some e → f.readS y ≠ 0#64 → (f.readS x).toNat % 2 ^ 19 = 0 → (f.readS y).toNat % 2 ^ 19 = 0 →
      (f.readS y).toNat ≤ 2 ^ 55 →
      (∀ p ∈ publishPages (f.readS x) (f.readS y), ∃ l, engineSpots s e p 1 .write = .ok l ∧ ∀ q ∈ l, q.page.shadowed = true) →
      walkedRanges s e (publishPages (f.readS x) (f.readS y)) 1 = s →
      ∃ (t : State), exec (.publish sw x y flag) s = .next t ∧ Started s t f flag (.publish (f.readS x) (f.readS y) false) 1 0

/-- R261, R286, R290, R292: cache control, TLB invalidation, SWAPF and NRED, whose checks pass, issue: the operation is outstanding and its flag
raised. The system instructions trap in a crew of a context that is not privileged (R62).
Where the rules leave a point open it follows the model's own choices (assumptions 7 and 56). -/
def Obligations.SystemEngineIssue : Prop :=
  ∀ (s : State) f w sw flag, Runs s f w → Free f flag →
    (∀ x y n, Ready f [x, y] → n = (f.readS y).toNat % 2 ^ 32 →
      (∃ (t : State), exec (.cwb sw x y flag) s = .next t ∧ Started s t f flag (.cache 2 (f.readS x) n) 1 0) ∧
      (∃ (t : State), exec (.cinv sw x y flag) s = .next t ∧ Started s t f flag (.cache 3 (f.readS x) n) 1 0) ∧
      ∃ (t : State), exec (.cpf sw x y flag) s = .next t ∧ Started s t f flag (.cache 4 (f.readS x) n) 1 (rangeBlocks (f.readS x) n 6).length) ∧
    (∀ x y n, Ready f [x, y] → n = (if y = 0#6 then w.ctx else (f.readS y).toNat % 2 ^ 32) →
      (w.own.priv = true → (∃ (t : State), exec (.tlbinv sw x y flag) s = .next t ∧ Started s t f flag (.tlbInvalidate n (some (f.readS x)) false) 1 0) ∧
        ∃ (t : State), exec (.tlbinva sw y flag) s = .next t ∧ Started s t f flag (.tlbInvalidate n none true) 1 0) ∧
      (w.own.priv = false → ∃ (u : State), Becomes s u f.issued 1 0 ∧
        exec (.tlbinv sw x y flag) s = .next (takeTrap u false { cause := .privileged }) ∧
        exec (.tlbinva sw y flag) s = .next (takeTrap u false { cause := .privileged }) ∧
        exec (.swapf sw x y flag) s = .next (takeTrap u false { cause := .privileged }))) ∧
    (∀ x y, Ready f [x, y] → w.own.priv = true → swapFull s (coreOfFibre s.cur / 128) = false → swapOk s (f.readS x) (f.readS y) = true →
      (∀ i < 8, Clean s ((f.readS x).toNat + i) ∧ Clean s ((f.readS y).toNat + i)) →
      ∃ (t : State), exec (.swapf sw x y flag) s = .next t ∧ Started s t f flag (.swap (f.readS x).toNat (f.readS y).toNat
        (BitVec.ofNat 64 (numberAt s (f.readS x).toNat 8)) (BitVec.ofNat 64 (numberAt s (f.readS y).toNat 8))) 1 0) ∧
    ∀ x y z e a v k n l, Ready f [x, y, z] → f.sReplay = none → envOf s w = some e → v = f.readS x → a = (f.readS y).toNat % 2 ^ 24 →
      k = f.readS z → n = k.toNat % 2 ^ 18 →
      nredFull s s.cur = false → walkedRange s e v (n * nredWidth k) = s →
      nredOk k = true → v.toNat % nredWidth k = 0 → LocalRange s a (n * nredWidth k) →
      spots s e v (n * nredWidth k) .write true = .ok l → nredRefused l = false →
      ∃ (t : State), exec (.nred sw x y flag z) s = .next t ∧ Started s t f flag (.nred v a k (List.range n)) 1
        (linesTouched ((rangeBlocks v (n * nredWidth k) 6).map (·.toNat)))

/-- R105, R225, R229, R230, R234 to R238, R246, R261, R286, R291, R293, R344: what an outstanding operation does at its completion: tiles and
accumulators are filled, moved, multiplied and converted with their flags, a launch is held, the leaves of a PUBLISH change their visible frame, cached
translations go, two frames and their entries are exchanged, an element is reduced; then the operation is gone and its flag has fallen, in the image of
its crew where that is saved.
Where the rules leave a point open it follows the model's own choices (assumptions 7 and 44). -/
def Obligations.EngineCompletion : Prop :=
  ∀ (s : State) id e, lookup s.engines id = some e → NoErrors s →
    ((bankOfSerial s e.serial).isSome = true →
      (mustWait s id e = false →
        (∀ k, e.op = .tzero k → ∃ (t : State), exec (.engineInstructionComplete id) s = .next t ∧
          OpDone s t id e 0 ((bankSpots e.bank (0x100000 + 0x4000 * k) 0x4000).map (fun x => (x, 0#8))) none) ∧
        (∀ k v, e.op = .accz k v → ∃ (t : State), exec (.engineInstructionComplete id) s = .next t ∧
          OpDone s t id e 0 ((bankSpots e.bank (0x200000 + 0x8000 * k) 0x8000).zip
            ((List.range 0x8000).map (fun i => BitVec.ofNat 8 (v.toNat / 256 ^ (i % 4))))) none) ∧
        (∀ src dst bytes key, Moves s e src dst key → src.map (e.seen s) = bytes.map some →
          ∃ (t : State), exec (.engineInstructionComplete id) s = .next t ∧ OpDone s t id e 0 (dst.zip bytes) key) ∧
        (∀ d, e.op = .accMove d d → ∃ (t : State), exec (.engineInstructionComplete id) s = .next t ∧ OpDone s t id e 0 [] none) ∧
        (∀ acc a b m n k fb density x y words, e.op = .mma acc a b m n k fb density →
          localSpots s e.bank (fbSADA fb) (2 * (if fbSCA fb then m * (k / fbBLA fb) else 0)) = some x →
          localSpots s e.bank (fbSADB fb) (2 * (if fbSCB fb then k / fbBLB fb * n else 0)) = some y →
          words = (List.range (m * n)).map (Product.word { m := m, n := n, k := k, fb := fb, density := density }
            { bytes := e.bytes s (bankSpots e.bank (0x100000 + 0x4000 * a) (m * (productRows n k fb density).1)),
              rowBytes := (productRows n k fb density).1, code := fbFA fb, i4 := fbI4A fb }
            { bytes := e.bytes s (bankSpots e.bank (0x100000 + 0x4000 * b) (k * (productRows n k fb density).2)),
              rowBytes := (productRows n k fb density).2, code := fbFB fb, i4 := fbI4B fb }
            (e.bytes s (bankSpots e.bank (0x100000 + 0x4000 * (a + 1)) (if density.isSome then 2 * (m * k / 8) else 0)))
            (fun i g => halfAt (e.bytes s x) (i * (k / fbBLA fb) + g)) (fun g j => halfAt (e.bytes s y) (g * n + j))
            (e.bytes s (bankSpots e.bank (0x200000 + 0x8000 * acc) (4 * (m * n))))) →
          ∃ (t : State), exec (.engineInstructionComplete id) s = .next t ∧
            OpDone s t id e ((words.map (·.2)).foldl (· ||| ·) 0#6)
              ((bankSpots e.bank (0x200000 + 0x8000 * acc) (4 * (m * n))).zip (words.flatMap (fun v => leBytes 4 v.1))) none) ∧
        (∀ acc a m n fb o x y, e.op = .accConvert acc a m n fb →
          o = convertAcc fb ((List.range (m * n)).map (fun i =>
            bitsAt (e.bytes s (bankSpots e.bank (0x200000 + 0x8000 * acc) (4 * (m * n)))) (32 * i) 32)) →
          localSpots s e.bank a o.1.length = some x → localSpots s e.bank (fbSADA fb) o.2.1.length = some y →
          ∃ (t : State), exec (.engineInstructionComplete id) s = .next t ∧ OpDone s t id e o.2.2 (x.zip o.1 ++ y.zip o.2.1) none) ∧
        (∀ l, e.op = .launch l → (∀ x ∈ s.launches ++ [l], x.place = l.place →
            satisfies (readWord s l.place (if inStore l.place then none else lookup s.ciphered (l.place / 64))).gen x.gen = false) →
          ∃ (t : State), exec (.engineInstructionComplete id) s = .next t ∧ Finished s t id e 0 ∧ t.launches = s.launches ++ [l] ∧
            ∀ p, byteAt t p = byteAt s p) ∧
        ∀ v n, e.op = .publish v n true → ∃ (t : State), exec (.engineInstructionComplete id) s = .next t ∧ Finished s t id e 0 ∧
          ∀ p, byteAt t p = byteAt s p) ∧
      (∀ n a every, e.op = .tlbInvalidate n a every → (∀ x ∈ s.engines, x.2.uses (removedEntries s n a) = false) →
        ∃ (t : State), exec (.tlbinvComplete id) s = .next t ∧ Finished s t id e 0 ∧ (∀ p, byteAt t p = byteAt s p) ∧
          ∀ x, x ∈ t.tlb ↔ x ∈ s.tlb ∧ ¬ ((lookup s.contexts n).isSome = true ∧ x.ctx = n ∧
            ∀ v, a = some v → canonical v = true ∧ x.tag = tlbTag v x.level)) ∧
      (∀ x y a b, e.op = .swap x y a b → inDevice (x + 7) = true → inDevice (y + 7) = true → x + 8 ≤ y ∨ y + 8 ≤ x →
        (∀ i < 8, ∀ p ∈ [x, y], ∀ q ∈ [entryFrame a, entryFrame b], (p + i) / 2 ^ 19 ≠ q / 2 ^ 19) → inWindow (entryFrame a) = false → inWindow (entryFrame b) = false →
        (∀ o ∈ s.engines, o.1 < id → o.2.bank % 1024 / 128 = e.bank % 1024 / 128 → o.2.op.isSwap = false) →
        (∀ o ∈ s.engines, o.2.inFrames [wfld a 19 33, wfld b 19 33] = false) →
        ∃ (t : State), exec (.swapfExchange id) s = .next t ∧ Finished s t id e 0 ∧
          numberAt t x 8 = a.toNat - entryFrame a + entryFrame b ∧ numberAt t y 8 = b.toNat - entryFrame b + entryFrame a ∧
          ∀ z ∈ t.tlb, z.place ≠ x ∧ z.place ≠ y) ∧
      (∀ v a c left i l old src key, e.op = .nred v a c left → i ∈ left → l = e.spots s (v + BitVec.ofNat 64 (i * nredWidth c)) (nredWidth c) →
        (∀ x ∈ l, publishing s e.serial x.phys = false) → Seen s l old → Storable s l key →
        Seen s (localSpotsD s e.bank (a + i * nredWidth c) (nredWidth c)) src → src.length = nredWidth c →
        ∃ (t : State), exec (.nredElement id i) s = .next t ∧
          (if left.filter (fun j => j != i) = [] then Finished s t id e 0
            else lookup t.engines id = some { e with op := .nred v a c (left.filter (fun j => j != i)) }) ∧
          ∀ k x p, l[k]? = some x → x.place = some p →
            byteAt t p = BitVec.ofNat 8 (nearOp (c.toNat / 2 ^ 61) (c.toNat / 2 ^ 56 % 16) (leNat old) (leNat src) / 256 ^ k)) ∧
      ∀ k v n, e.op = .cache k v n → ∃ (t : State), exec (.cacheRangeComplete id) s = .next t ∧ Finished s t id e 0 ∧ ∀ p, byteAt t p = byteAt s p) ∧
    (∀ v env p l, e.op = .publish v (BitVec.ofNat 64 (2 ^ 19)) false → e.env s = some env → leafOf s v 4 env.root = some (p, l) → l.getLsbD 7 = true →
      (∀ x ∈ s.engines, ¬ (x.1 < id ∧ x.2.serial = e.serial ∧ x.2.op.writesMemory = true)) →
      (∀ x ∈ s.fabricOps, ¬ (x.1 < id ∧ x.2.serial = e.serial)) →
      ∃ (t : State), exec (.publishExchange id) s = .next t ∧ lookup t.engines id = some { e with op := .publish v (BitVec.ofNat 64 (2 ^ 19)) true } ∧
        numberAt t p 8 = (l ^^^ BitVec.twoPow 64 16).toNat ∧ ∀ z ∈ t.tlb, z.place ≠ p) ∧
    ∀ k, bankOfSerial s e.serial = none → e.op = .tzero k → mustWait s id e = false →
      ∃ (t : State), exec (.engineInstructionComplete id) s = .next t ∧ lookup t.engines id = none ∧
        ∀ n x fk f, lookup s.saved n = some x → x.crew.serial = e.serial → lookup x.fibres fk = some f →
          fibreNumber fk % 64 = fibreNumber e.fibre % 64 → ∃ x' f', lookup t.saved n = some x' ∧ lookup x'.fibres fk = some f' ∧
            ∀ j : Fin 12, f'.flags[j] = if e.flag = some j.val then f.flags[j] - 1#4 else f.flags[j]

/-- R206, R207, R209, R249 to R252: what the landing-word instructions leave. LWTEST reads bytes 4 to 11; LWAIT completes where GEN satisfies its
generation, and waits otherwise; LWADD adds to COUNT, and one that reaches TARGET of an armed word completes the generation; LWARM sets
TARGET and ARMED and answers the word's second half; LWINIT lays out a word and its manifest.
Where the rules leave a point open it follows the model's own choices (assumptions 38 to 40). -/
def Obligations.LandingWords : Prop :=
  ∀ (s : State) f w sw x p key, Runs s f w →
    (∀ W, Names s f w x .read p key → W = readWord s p key → W.ok = true →
      (∀ y, Ready f [x] → ∃ (t : State) (f' : Fibre), exec (.lwtest sw x y) s = .next t ∧ Becomes s t f' 1 (landingToll (f.readS x) p) ∧
        Wrote f f' y (BitVec.ofNat 64 (viewNumber s (p + 4) 8 key))) ∧
      ∀ y, Ready f [x, y] → (f.readS y).toNat < 2 ^ 16 →
        ((W.gen.toNat + 2 ^ 16 - (f.readS y).toNat) % 2 ^ 16 < 2 ^ 15 → ∃ (t : State) (f' : Fibre), exec (.lwait sw x y) s = .next t ∧
          Becomes s t f' 1 (landingToll (f.readS x) p) ∧ WentTo f f' (f.spc + 4#64)) ∧
        (2 ^ 15 ≤ (W.gen.toNat + 2 ^ 16 - (f.readS y).toNat) % 2 ^ 16 → ∃ (t : State) (f' : Fibre), exec (.lwait sw x y) s = .next t ∧
          HandsOn s t f' 1 (landingToll (f.readS x) p) ∧ WaitsFor f f' (.landing p ((f.readS y).setWidth 16)))) ∧
    (∀ W, Names s f w x .write p key → W = readWord s p key → W.ok = true → Unheld s p →
      (∀ y z n, Ready f [x, y, z] → (f.readS y).toNat = n → n < 2 ^ 32 → (f.readS z).toNat = W.gen.toNat → W.moff = 0#32 →
        ownerKilled s p = false → W.count.toNat + n < 2 ^ 32 →
        ((W.armed = false ∨ W.count.toNat + n < W.target.toNat) → ∃ (t : State) (f' : Fibre), exec (.lwadd sw x y z) s = .next t ∧ WentTo f f' (f.spc + 4#64) ∧
          WordDone s t f' (landingToll (f.readS x) p) p key { W with count := BitVec.ofNat 32 (W.count.toNat + n) }) ∧
        (W.armed = true → W.target.toNat ≤ W.count.toNat + n → ∃ (t : State) (f' : Fibre) (v : _), exec (.lwadd sw x y z) s = .next t ∧ WentTo f f' (f.spc + 4#64) ∧
          WordDone s t f' (landingToll (f.readS x) p) p key v ∧ v.gen = W.gen + 1#16 ∧ v.count = 0#32 ∧ v.target = 0#32 ∧ v.armed = false ∧
          (∀ k g a, k ≠ s.cur → lookup s.fibres k = some g → g.fence = none → g.sWait = some (.landing p a) →
            satisfies (W.gen + 1#16) a = true → ∃ g', lookup t.fibres k = some g' ∧ g'.sWait = none ∧ g'.spc = g.spc + 4#64))) ∧
      ∀ y z n, Ready f [x, y] → (f.readS y).toNat = n → W.count.toNat < n → n < 2 ^ 32 →
        ∃ (t : State) (f' : Fibre), exec (.lwarm sw x y z) s = .next t ∧ Wrote f f' z (BitVec.ofNat 64 (viewNumber s (p + 8) 8 key)) ∧
          WordDone s t f' (landingToll (f.readS x) p) p key { W with target := BitVec.ofNat 32 n, flags := 1#8 }) ∧
    (Names s f w x .write p key → (∀ l ∈ s.launches, l.place ≠ p) →
      ∀ y z gen logc moff n, Ready f [x, y, z] → gen < 2 ^ 16 → logc ≤ 12 → moff < 2 ^ 32 → (f.readS y).toNat = moff * 2 ^ 32 + logc * 2 ^ 16 + gen →
        (f.readS z).toNat = n →
        (n = 0 → moff = 0 → ∃ (t : State) (f' : Fibre), exec (.lwinit sw x y z) s = .next t ∧ WentTo f f' (f.spc + 4#64) ∧
          WordDone s t f' (landingToll (f.readS x) p) p key
            { target := 0, count := 0, gen := BitVec.ofNat 16 gen, flags := 0, logc := BitVec.ofNat 8 logc, moff := 0 }) ∧
        (16 ≤ moff → 16 ≤ n → n % 16 = 0 → n ≤ 65536 → manifestInside p moff n = true →
          ∃ (t : State) (f' : Fibre), exec (.lwinit sw x y z) s = .next t ∧ lookup t.fibres s.cur = some f' ∧ WentTo f f' (f.spc + 4#64) ∧
            readWord t p key = { target := 0, count := 0, gen := BitVec.ofNat 16 gen, flags := 0, logc := BitVec.ofNat 8 logc, moff := BitVec.ofNat 32 moff } ∧
            ∀ i < n, byteAt t (p + moff + i) = if 8 ≤ i ∧ i < 12 then BitVec.ofNat 8 (n / 256 ^ (i - 8)) else 0#8))

/-- R211, R253, R264, R265: an arrival at a barrier counts, and the one that reaches the expected count completes the generation; CBARA and
DBARA answer the generation that completes, CBAR waits for it, CBARW and DBARW complete where it is reached and wait otherwise. -/
def Obligations.Barriers : Prop :=
  ∀ (s : State) f w sw, Runs s f w → f.fence = none → f.clauses = [] → f.handler = none → f.sWait = none →
    (∀ (b : BitVec 3) y (B B' : Barrier) n, Ready f [y] → B = w.barriers[b.toNat]'b.isLt → f.cbarDone = none →
      n = (if y = 0#6 then B.expected else (f.readS y).toNat) → (y = 0#6 ∨ 1 ≤ n ∧ n ≤ 64 ∧ (B.arrived = 0 ∨ n = B.expected)) →
      B' = (if n ≤ B.arrived + 1 then { expected := n, arrived := 0, gen := B.gen + 1#16 } else { B with expected := n, arrived := B.arrived + 1 }) →
      (∀ z, ∃ (t : State) (f' : Fibre) (w' : Crew), exec (.cbara sw b y z) s = .next t ∧ lookup t.fibres s.cur = some f' ∧ Wrote f f' z ((B.gen + 1#16).setWidth 64) ∧
        lookup t.crews (bankOfFibre s.cur) = some w' ∧ w'.calm = { w.calm with barriers := w.barriers.set b.toNat B' b.isLt } ∧
        (∀ p, byteAt t p = byteAt s p) ∧ (B.arrived + 1 < n → ∀ k, k ≠ s.cur → lookup t.fibres k = lookup s.fibres k)) ∧
      ∃ (t : State) (f' : Fibre) (w' : Crew), exec (.cbar sw b y) s = .next t ∧ lookup t.fibres s.cur = some f' ∧ lookup t.crews (bankOfFibre s.cur) = some w' ∧
        w'.calm = { w.calm with barriers := w.barriers.set b.toNat B' b.isLt } ∧
        if n ≤ B.arrived + 1 then WentTo f { f' with waitWord := f.waitWord } (f.spc + 4#64)
        else WaitsFor f f' (.cbar b.toNat (B.gen + 1#16))) ∧
    (∀ (b : BitVec 3) y g, Ready f [y] → (f.readS y).toNat = g → g < 2 ^ 16 →
      (((w.barriers[b.toNat]'b.isLt).gen.toNat + 2 ^ 16 - g) % 2 ^ 16 < 2 ^ 15 →
        ∃ (t : State) (f' : Fibre), exec (.cbarw sw b y) s = .next t ∧ Becomes s t f' 1 0 ∧ WentTo f f' (f.spc + 4#64)) ∧
      (2 ^ 15 ≤ ((w.barriers[b.toNat]'b.isLt).gen.toNat + 2 ^ 16 - g) % 2 ^ 16 →
        ∃ (t : State) (f' : Fibre), exec (.cbarw sw b y) s = .next t ∧ HandsOn s t f' 1 0 ∧ WaitsFor f f' (.cbar b.toNat (BitVec.ofNat 16 g)))) ∧
    ∀ (b : BitVec 4) y D B, Ready f [y] → lookup s.decks w.deck = some D → b.toNat < 2 * D.width → D.barriers[b.toNat]? = some B →
      (∀ z n (B' : Barrier), n = (if y = 0#6 then B.expected else (f.readS y).toNat) → (y = 0#6 ∨ 1 ≤ n ∧ n ≤ 512 ∧ (B.arrived = 0 ∨ n = B.expected)) →
        B' = (if n ≤ B.arrived + 1 then { expected := n, arrived := 0, gen := B.gen + 1#16 } else { B with expected := n, arrived := B.arrived + 1 }) →
        ∃ (t : State) (f' : Fibre) (D' : _), exec (.dbara sw b y z) s = .next t ∧ lookup t.fibres s.cur = some f' ∧ Wrote f f' z ((B.gen + 1#16).setWidth 64) ∧
          lookup t.decks w.deck = some D' ∧ D'.members = D.members ∧ D'.barriers = D.barriers.set b.toNat B' ∧
          (∀ p, byteAt t p = byteAt s p) ∧ (B.arrived + 1 < n → ∀ k, k ≠ s.cur → lookup t.fibres k = lookup s.fibres k)) ∧
      ∀ g, (f.readS y).toNat = g → g < 2 ^ 16 →
        ((B.gen.toNat + 2 ^ 16 - g) % 2 ^ 16 < 2 ^ 15 →
          ∃ (t : State) (f' : Fibre), exec (.dbarw sw b y) s = .next t ∧ Becomes s t f' 1 0 ∧ WentTo f f' (f.spc + 4#64)) ∧
        (2 ^ 15 ≤ (B.gen.toNat + 2 ^ 16 - g) % 2 ^ 16 →
          ∃ (t : State) (f' : Fibre), exec (.dbarw sw b y) s = .next t ∧ HandsOn s t f' 1 0 ∧ WaitsFor f f' (.dbar b.toNat (BitVec.ofNat 16 g)))

/-- R26, R141: QPUSH appends a word to a command queue that has room, QPOP takes the oldest word of a result queue, and a queue that a
direction does not serve traps. A pop of an empty queue stalls.
Where the rules leave a point open it follows the model's own choices (assumption 48). -/
def Obligations.Queues : Prop :=
  ∀ (s : State) f w c sw, Runs s f w → f.fence = none → lookup s.contexts w.ctx = some c →
    (∀ a (f0 : Fibre → Fibre), Ready f [a] →
      (copyUntaken s s.cur f < 32 → copyHeld s (coreOfFibre s.cur) < 256 →
        f.q0.length < copyWords ((f.q0 ++ [f.readS a]).headD 0) → f0 = (fun g => { g with q0 := f.q0 ++ [f.readS a] }) →
        ∃ (t : State) (f' : Fibre), exec (.qpush sw 0#6 a) s = .next t ∧ Becomes s t (f0 f') 1 0 ∧ WentTo f f' (f.spc + 4#64)) ∧
      (f.q2.length < 3 → (let k := ((f.q2 ++ [f.readS a]).headD 0).toNat / 2 ^ 60; 1 ≤ k ∧ k ≤ 3) →
        f0 = (fun g => { g with q2 := f.q2 ++ [f.readS a] }) →
        ∃ (t : State) (f' : Fibre), exec (.qpush sw 2#6 a) s = .next t ∧ Becomes s t (f0 f') 1 0 ∧ WentTo f f' (f.spc + 4#64)) ∧
      (f0 = (fun g => { g with q4 := f.q4 ++ [f.readS a] }) →
        ∃ (t : State) (f' : Fibre), exec (.qpush sw 4#6 a) s = .next t ∧ Becomes s t (f0 f') 1 0 ∧ WentTo f f' (f.spc + 4#64)) ∧
      ∀ q ∈ [1#6, 3#6, 5#6, 6#6, 7#6], ∃ (u : State), Becomes s u f.issued 1 0 ∧
        exec (.qpush sw q a) s = .next (takeTrap u false { cause := .queueAccess })) ∧
    (∀ d x r, (f.q1 = x :: r → ∃ (t : State) (f' : Fibre), exec (.qpop sw d 1#6) s = .next t ∧ Becomes s t { f' with q1 := r } 1 0 ∧ Awaits f f' d x) ∧
      (f.q3 = x :: r → ∃ (t : State) (f' : Fibre), exec (.qpop sw d 3#6) s = .next t ∧ Becomes s t { f' with q3 := r } 1 0 ∧ Awaits f f' d x) ∧
      (f.q5 = x :: r → ∃ (t : State) (f' : Fibre), exec (.qpop sw d 5#6) s = .next t ∧ Becomes s t { f' with q5 := r } 1 0 ∧ Awaits f f' d x)) ∧
    (∀ d, (f.q1 = [] → exec (.qpop sw d 1#6) s = .next (stallScalar s sw (.queueEmpty 1))) ∧
      (f.q3 = [] → exec (.qpop sw d 3#6) s = .next (stallScalar s sw (.queueEmpty 3))) ∧
      (f.q5 = [] → exec (.qpop sw d 5#6) s = .next (stallScalar s sw (.queueEmpty 5))) ∧
      (isSupervisor w s.cur f = true → w.notices = [] → exec (.qpop sw d 6#6) s = .next (stallScalar s sw (.queueEmpty 6)))) ∧
    ∀ d, ∀ q ∈ [0#6, 2#6, 4#6, 6#6, 7#6], (q = 6#6 → isSupervisor w s.cur f = false) → ∃ (u : State), Becomes s u f.issued 1 0 ∧
      exec (.qpop sw d q) s = .next (takeTrap u false { cause := .queueAccess })

/-- R10, R48, R143, R277, R278, R387: MFSR answers the value of a system register, MTSR writes one field by field, keeps a read-only one such as
WINDOW as it is, and checks the heap window; a register that the crew may not read or write traps with PRIVILEGED.
Where the rules leave a point open it follows the model's own choices (assumptions 49, 50, 52 and 131). -/
def Obligations.SystemRegisters : Prop :=
  ∀ (s : State) f w c sw, Runs s f w → lookup s.contexts w.ctx = some c →
    (f.clauses = [] → ∀ p ∈ ([(0x0001, f.aflags &&& 63#64), (0x0002, f.window), (0x0003, BitVec.ofNat 64 (s.cur % 65536)),
        (0x0004, f.lcbase &&& 0x007F_FFFF_FFFF_FFF0#64), (0x0008, BitVec.ofNat 64 w.own.tenant.toNat), (0x000B, s.ptp),
        (0x0018, BitVec.ofNat 64 (w.bi.toNat - 1)), (0x0019, BitVec.ofNat 64 w.bm.toNat),
        (0x0020, w.td[0]), (0x002F, w.td[15]), (0x0030, w.fb[0]), (0x0033, w.fb[3]), (0x8000, w.trapbase),
        (0x8010, w.heapBase), (0x8011, w.heapLimit), (0x8012, w.heapOffset)] : List (Nat × Word)),
      ∀ d, ∃ (t : State) (f' : Fibre), exec (.mfsr sw d (BitVec.ofNat 16 p.1)) s = .next t ∧ Becomes s t f' 1 0 ∧ Wrote f f' d p.2) ∧
    (f.clauses = [] → w.own.priv = true → ∀ d, ∃ (t : State) (f' : Fibre), exec (.mfsr sw d 0xC001#16) s = .next t ∧ Becomes s t f' 1 0 ∧ Wrote f f' d (bootStat s.boot)) ∧
    (∀ d n, 0xC000 ≤ n.toNat → w.own.priv = false → ∃ (u : State), Becomes s u f.issued 1 0 ∧
      exec (.mfsr sw d n) s = .next (takeTrap u false { cause := .privileged })) ∧
    ∀ d v, Ready f [d] → v = f.readS d → f.fence = none →
      (∀ n, 0x8000 ≤ n.toNat → w.own.priv = false → ∃ (u : State), Becomes s u f.issued 1 0 ∧
        exec (.mtsr sw d n) s = .next (takeTrap u false { cause := .privileged })) ∧
      (f.clauses = [] → ∃ (t : State) (f' : Fibre), exec (.mtsr sw d 0x0001#16) s = .next t ∧ Becomes s t { f' with aflags := v &&& 63#64 } 1 0 ∧ WentTo f f' (f.spc + 4#64)) ∧
      (f.clauses = [] → ∀ k : Fin 16, ∃ (t : State) (f' : Fibre) (w' : Crew), exec (.mtsr sw d (BitVec.ofNat 16 (0x20 + k.val))) s = .next t ∧ lookup t.fibres s.cur = some f' ∧
        WentTo f f' (f.spc + 4#64) ∧ lookup t.crews (bankOfFibre s.cur) = some w' ∧ w'.calm = { w.calm with td := w.td.set k (v &&& 0xF_FFFF#64) } ∧
        { t with fibres := s.fibres, crews := s.crews, counters := s.counters } = s) ∧
      (f.clauses = [] → w.own.priv = true → ∃ (t : State) (f' : Fibre) (w' : Crew), exec (.mtsr sw d 0x8000#16) s = .next t ∧ lookup t.fibres s.cur = some f' ∧
        WentTo f f' (f.spc + 4#64) ∧ lookup t.crews (bankOfFibre s.cur) = some w' ∧
        w'.calm = { w.calm with trapbase := v &&& 0x007F_FFFF_FFFF_FFFD#64 } ∧
        { t with fibres := s.fibres, crews := s.crews, counters := s.counters } = s) ∧
      (f.clauses = [] → ∀ n ∈ ([0x0002, 0x0003, 0x0004, 0x0005, 0x0006, 0x0007, 0x0008, 0x0009, 0x000A, 0x000B, 0x0018, 0x0019, 0x001A] : List Nat),
        ∃ (t : State) (f' : Fibre), exec (.mtsr sw d (BitVec.ofNat 16 n)) s = .next t ∧ Becomes s t f' 1 0 ∧ WentTo f f' (f.spc + 4#64)) ∧
      (f.clauses = [] → ∀ k : Fin 4, ∃ (t : State) (f' : Fibre) (w' : Crew), exec (.mtsr sw d (BitVec.ofNat 16 (0x30 + k.val))) s = .next t ∧
        lookup t.fibres s.cur = some f' ∧ WentTo f f' (f.spc + 4#64) ∧ lookup t.crews (bankOfFibre s.cur) = some w' ∧
        w'.calm = { w.calm with fb := w.fb.set k (v &&& 0xFFFF_FFFF_FFFF_FFFE#64) } ∧
        { t with fibres := s.fibres, crews := s.crews, counters := s.counters } = s) ∧
      (f.clauses = [] → ∀ k : Fin 64, ∃ (t : State) (f' : Fibre) (c' : _), exec (.mtsr sw d (BitVec.ofNat 16 (0x40 + k.val))) s = .next t ∧
        lookup t.fibres s.cur = some f' ∧ WentTo f f' (f.spc + 4#64) ∧ lookup t.contexts w.ctx = some c' ∧ { c' with patterns := c.patterns } = c ∧
        { t with fibres := s.fibres, crews := s.crews, counters := s.counters, contexts := s.contexts } = s ∧
        (∀ j, j ≠ k.val → patternOf c' j = patternOf c j) ∧
        patternOf c' k.val = { axis := [bits v 0 16, bits v 16 16, bits v 32 16, bits v 48 16, 0#16], control := 0#16 }) ∧
      (f.clauses = [] → w.own.priv = true → ∀ P, lookup s.partitions c.partition = some P →
        ∀ x ∈ ([(0x8010, v &&& 0x007F_FFFF_FFF8_0001#64, w.heapLimit, w.heapOffset), (0x8011, w.heapBase, v &&& 0x007F_FFFF_FFF8_0000#64, w.heapOffset),
          (0x8012, w.heapBase, w.heapLimit, v &&& 0xFFFF_FFFF_FFF8_0000#64)] : List (Nat × Word × Word × Word)),
        ∃ (t : State) (f' : Fibre) (w' : Crew), exec (.mtsr sw d (BitVec.ofNat 16 x.1)) s = .next t ∧ lookup t.fibres s.cur = some f' ∧
          WentTo f f' (f.spc + 4#64) ∧ lookup t.crews (bankOfFibre s.cur) = some w' ∧
          w'.calm = { w.calm with heapBase := x.2.1, heapLimit := x.2.2.1, heapOffset := x.2.2.2,
                                  heapRejected := heapRejects P.dies x.2.1 x.2.2.1 x.2.2.2 } ∧
          { t with fibres := s.fibres, crews := s.crews, counters := s.counters } = s)

/-- R390 to R394, R400, R404: a remote store, copy, reducing store or atomic whose words and pattern pass is accepted: it is outstanding with its
words and the member set that its pattern names, and its flag is raised. The result of an atomic is outstanding until its reply.
Where the rules leave a point open it follows the model's own choices (assumptions 56 and 61). -/
def Obligations.FabricIssue : Prop :=
  ∀ (s : State) f w c sw x flag, Runs s f w → Free f flag → lookup s.contexts w.ctx = some c → Ready f [x, x + 1#6, x + 2#6, x + 3#6] →
    fabricOutstanding s s.cur < 16 →
    (∀ p ∈ ([(Instr.rst, 1, 0), (Instr.rcpy, 2, 0), (Instr.rredf, 3, 0), (Instr.rredb, 3, 1), (Instr.rredi, 3, 2), (Instr.rredx, 3, 3),
        (Instr.rredn, 3, 4)] : List ((Bool → BitVec 6 → BitVec 4 → Instr) × Nat × Nat)),
      (∀ a, fabricCheck s c (bankOfFibre s.cur) p.2.1 p.2.2 (decide ((f.readS x).toNat < 2 ^ 52)) (fourWords f x) = .ok a →
        ∃ (t : State) (f' : Fibre), exec (p.1 sw x flag) s = .next t ∧ lookup t.fibres s.cur = some f' ∧ RaisedFlag f f' flag ∧
          OpAccepted s t p.2.1 p.2.2 (fourWords f x) flag a) ∧
      ∀ cause, fabricCheck s c (bankOfFibre s.cur) p.2.1 p.2.2 (decide ((f.readS x).toNat < 2 ^ 52)) (fourWords f x) = .error cause →
        ∃ (u : State), Becomes s u f.issued 1 (fabricCharge p.2.1 (fourWords f x)) ∧ exec (p.1 sw x flag) s = .next (takeTrap u false { cause := cause })) ∧
    ∀ p ∈ ([(Instr.raadd, 0), (Instr.raswap, 1), (Instr.racas, 2), (Instr.ramin, 3), (Instr.ramax, 4), (Instr.raand, 5), (Instr.raor, 6),
        (Instr.raxor, 7)] : List ((Bool → BitVec 6 → BitVec 4 → BitVec 6 → Instr) × Nat)),
      ∀ z, (∀ a, fabricCheck s c (bankOfFibre s.cur) 4 p.2 (decide ((f.readS x).toNat < 2 ^ 52)) (fourWords f x) = .ok a →
        ∃ (t : State) (f' : Fibre), exec (p.1 sw x flag z) s = .next t ∧ lookup t.fibres s.cur = some f' ∧ OpAccepted s t 4 p.2 (fourWords f x) flag a ∧
          (∀ r, f'.readS r = f.readS r) ∧ f'.spc = f.spc + 4#64 ∧ (∀ r, r ≠ z → f'.due r = f.due r) ∧
          (z ≠ 0#6 → (f'.due z).map (fun p => p.value) = [none]) ∧ { f'.still with flags := f.flags } = f.still ∧
          (∀ k : Fin 12, f'.flags[k] = if flag.toNat = k.val then f.flags[k] + 1#4 else f.flags[k])) ∧
        ∀ cause, fabricCheck s c (bankOfFibre s.cur) 4 p.2 (decide ((f.readS x).toNat < 2 ^ 52)) (fourWords f x) = .error cause →
          ∃ (u : State), Becomes s u f.issued 1 1 ∧ exec (p.1 sw x flag z) s = .next (takeTrap u false { cause := cause })

/-- R387, R405, R413 to R415: RFLUSH waits for the operations that share a member with its pattern; TSARM leaves a send with the unit of its
landing word, TSCAN cancels the sends of the context there and counts them; GPSET and GPGET write and read a pattern-table entry; GPAUSE
starts a gang pause at the pause coordinate, and traps elsewhere.
Where the rules leave a point open it follows the model's own choices (assumptions 39, 41, 60, 70 and 71). -/
def Obligations.FabricControl : Prop :=
  ∀ (s : State) f w c sw, Runs s f w → f.fence = none → lookup s.contexts w.ctx = some c →
    (∀ x v, f.sWait = none → patternValues (gridOf c) (patternOf c x.toNat) = some v →
      ((∀ o ∈ s.fabricOps, ownedBy s s.cur o.2.serial o.2.fibre = false) → ∃ (t : State) (f' : Fibre), exec (.rflush sw x 0xF#4) s = .next t ∧ Becomes s t f' 1 0 ∧ WentTo f f' (f.spc + 4#64)) ∧
      ∀ flag waits, Free f flag → flag.toNat < 12 → s.flushes = [] → waits = flushWaits s (gridOf c) s.cur v → waits ≠ [] →
        ∃ (t : State) (f' : Fibre), exec (.rflush sw x flag) s = .next t ∧ lookup t.fibres s.cur = some f' ∧ RaisedFlag f f' flag ∧
          t.flushes = [{ id := s.nextSerial, fibre := s.cur, serial := w.serial, flag := some flag.toNat, waits := waits }] ∧
          ∀ p, byteAt t p = byteAt s p) ∧
    (∀ x y z flag p key a g A, Free f flag → Ready f [x, x + 1#6, x + 2#6, x + 3#6, y, z] → Names s f w y .read p key →
      (readWord s p key).ok = true → (f.readS z).toNat = g → g < 2 ^ 16 → armFieldsOk (fourWords f x) = true →
      fabricCheck s c (bankOfFibre s.cur) (armedKind (fourWords f x)) (armedRed (fourWords f x)) true (fourWords f x) = .ok a →
      2 ^ 15 ≤ ((readWord s p key).gen.toNat + 2 ^ 16 - g) % 2 ^ 16 → unitFullAt s p = false → A.id = s.nextSerial → A.place = p → A.gen = BitVec.ofNat 16 g → A.op = fourWords f x → A.ctx = w.ctx →
      A.fibre = s.cur → A.serial = w.serial → A.flag = (if flag.toNat < 12 then some flag.toNat else none) →
      ∃ (t : State) (f' : Fibre), exec (.tsarm sw x y flag z) s = .next t ∧ lookup t.fibres s.cur = some f' ∧ RaisedFlag f f' flag ∧
        armedAt t p = armedAt s p ++ [A] ∧ CrewsCharged s t (bankOfFibre s.cur) 1 (fabricCharge (armedKind (fourWords f x)) (fourWords f x)) ∧ ∀ q, byteAt t q = byteAt s q) ∧
    (∀ y d p key, Ready f [y] → Names s f w y .read p key → (readWord s p key).ok = true →
      ∃ (t : State) (f' : Fibre), exec (.tscan sw y d) s = .next t ∧ lookup t.fibres s.cur = some f' ∧ f'.spc = f.spc + 4#64 ∧
        (d ≠ 0#6 → f'.readS d = BitVec.ofNat 64 ((armedAt s p).filter (fun a => a.place == p && a.ctx == w.ctx)).length) ∧
        ∀ a ∈ armedAt t p, ¬ (a.place = p ∧ a.ctx = w.ctx)) ∧
    (∀ (i : BitVec 6) y z, Ready f [y, z] → (f.readS z).toNat < 2 ^ 32 → (controlFields (bits (f.readS z) 16 16)).isSome = true →
      ∃ (t : State) (f' : Fibre) (c' : _), exec (.gpset sw i y z) s = .next t ∧ lookup t.fibres s.cur = some f' ∧ WentTo f f' (f.spc + 4#64) ∧
        lookup t.contexts w.ctx = some c' ∧ { t with fibres := s.fibres, crews := s.crews, counters := s.counters, contexts := s.contexts } = s ∧
        { c' with patterns := c.patterns } = c ∧ (∀ j, j ≠ i.toNat → patternOf c' j = patternOf c j) ∧
        patternOf c' i.toNat = { axis := [bits (f.readS y) 0 16, bits (f.readS y) 16 16, bits (f.readS y) 32 16, bits (f.readS y) 48 16,
          bits (f.readS z) 0 16], control := bits (f.readS z) 16 16 }) ∧
    (∀ (i : BitVec 6) y z, ∃ (t : State) (f' : Fibre), exec (.gpget sw i y z) s = .next t ∧ Becomes s t f' 1 0 ∧ f'.spc = f.spc + 4#64 ∧ f'.still = f.still ∧
      ∀ r, f'.readS r = if r = z ∧ r ≠ 0#6 then BitVec.ofNat 64
          (((patternOf c i.toNat).axis.getD 4 0#16).toNat + (patternOf c i.toNat).control.toNat * 2 ^ 16)
        else if r = y ∧ r ≠ 0#6 then patternWord (patternOf c i.toNat) else f.readS r) ∧
    ∀ y, Ready f [y] → (f.readS y).toNat < 2 ^ 32 →
      ((gridOf c).coord = pausePlace c → lookup s.pauses (crossingKey w.ctx c) = none →
        ∃ (t : State) (f' : Fibre), exec (.gpause sw y) s = .next t ∧ lookup t.fibres s.cur = some f' ∧ WentTo f f' (f.spc + 4#64) ∧
          t.wire = s.wire ++ [.pause (crossingKey w.ctx c) (f.readS y).toNat] ∧ lookup t.pauses (crossingKey w.ctx c) =
            some { stop := (f.readS y).toNat, begun := false, initiator := true, pausedFrom := [], drained := false, switched := false, resuming := false } ∧
          ∀ p, byteAt t p = byteAt s p) ∧
      ((gridOf c).coord ≠ pausePlace c → ∃ (u : State), Becomes s u f.issued 1 0 ∧
        exec (.gpause sw y) s = .next (takeTrap u false { cause := .fabricPause }))

/-- R183, R336, R341 to R343, R345: a drained fibre arrives at JOIN, PHASE or a yield point with grace running; EXIT ends it, and a fibre that waits at a berth barrier for it traps; where no grace runs, a yield
point only goes on. A fibre that is not drained waits at the instruction. A PHASE or JOIN in handler mode is illegal.
Where the rules leave a point open it follows the model's own choices (assumption 57). -/
def Obligations.Arriving : Prop :=
  ∀ (s : State) f w sw, Runs s f w → f.fence = none → f.sWait = none →
    (f.handler = none →
      (∀ x y a, Ready f [x, y] → a = (f.readS x, f.readS y) →
        (drained s s.cur f = true → (∀ k ∈ deckMembers s w, ∀ m, lookup s.crews k = some m → m.phaseArgs = none ∨ m.phaseArgs = some a) →
          ∃ (t : State) (f' : Fibre) (w' : Crew), exec (.phase sw x y) s = .next t ∧ Passes s t f' ∧ f'.arrived = some .phase ∧ { f' with arrived := f.arrived } = f.issued ∧
            lookup t.crews (bankOfFibre s.cur) = some w' ∧ w'.phaseArgs = some a) ∧
        (drained s s.cur f = false → ∃ (t : State) (f' : Fibre), exec (.phase sw x y) s = .next t ∧ HandsOn s t f' 1 0 ∧ WaitsFor f f' (.phase a.1 a.2))) ∧
      (∀ x v e bytes, Ready f [x] → f.sReplay = none → v = f.readS x → v.toNat % 32 = 0 → envOf s w = some e → Holds s e v 32 .write bytes →
        (recordOf bytes).kind = 3 → drained s s.cur f = true → (w.joinArg = none ∨ w.joinArg = some v) →
          ∃ (t : State) (f' : Fibre) (w' : Crew), exec (.join sw x) s = .next t ∧ Passes s t f' ∧ f'.arrived = some .join ∧ { f' with arrived := f.arrived } = f.issued ∧
            lookup t.crews (bankOfFibre s.cur) = some w' ∧ w'.joinArg = some v) ∧
      (∀ D, lookup s.decks w.deck = some D → bankOfFibre s.cur ∈ D.members →
        (drained s s.cur f = true → ∃ (t : State) (f' : Fibre) (w' : Crew), exec (.yield sw) s = .next t ∧ Passes s t f' ∧ f'.arrived = some .yieldPoint ∧
          WentTo f { f' with arrived := f.arrived } (f.spc + 4#64) ∧ lookup t.crews (bankOfFibre s.cur) = some w' ∧ w'.g = true) ∧
        (drained s s.cur f = false → ∃ (t : State) (f' : Fibre), exec (.yield sw) s = .next t ∧ HandsOn s t f' 1 0 ∧ WaitsFor f f' .yieldPoint))) ∧
    (∀ x y, Ready f [x, y] → f.handler.isSome = true →
      exec (.phase sw x y) s = .next (illegalRange s) ∧ exec (.join sw x) s = .next (illegalRange s)) ∧
    (f.handler.isSome = true ∨ w.g = false ∧ w.bi ≠ 1#32 → ∃ (t : State) (f' : Fibre), exec (.yieldpt sw) s = .next t ∧ Becomes s t f' 1 0 ∧ WentTo f f' (f.spc + 4#64)) ∧
    (f.clausesIssued = true →
      (∀ j g p, slotOfFibre j = slotOfFibre s.cur → lookup s.fibres j = some g → g.sWait = some (.fbar p) → p.getLsbD (s.cur % 4) = false) →
      ∃ (t : State) (f' : Fibre), exec (.exit sw) s = .next t ∧ Passes s t f' ∧ f'.ended = true ∧ f'.clauses = [] ∧ f'.spc = f.spc ∧ (∀ r, f'.readS r = f.readS r) ∧
        ((∀ e ∈ fibresOf t (bankOfFibre s.cur), e.2.ended = true ∧ e.2.frozen = false) → w.state = .running → w.ending = none →
          (lookup t.crews (bankOfFibre s.cur)).map (fun w => (w.state, w.ending)) = some (.draining, some .exit))) ∧
    (f.clausesIssued = true → bits w.trapbase 0 1 = 1#1 → ∀ j g p, slotOfFibre j = slotOfFibre s.cur → lookup s.fibres j = some g →
      g.sWait = some (.fbar p) → p.getLsbD (s.cur % 4) = true → g.fence = none → g.handler = none →
      ∃ (t : State) (g' : Fibre), exec (.exit sw) s = .next t ∧ lookup t.fibres j = some g' ∧ g'.handler.map (·.trap.cause) = some .fbarMismatch)

/-- R323, R327, R340, R344, R346: SPAWN queues its record with the partition of its context and takes the carve W times; LAUNCHI hands its launch to the
scheduler and takes the carve for every crew; BGRANT raises both budgets; QPRIO sets or ends the override of a sailing. What a context may not do traps.
Where the rules leave a point open it follows the model's own choices (assumptions 55 and 124). -/
def Obligations.Scheduling : Prop :=
  ∀ (s : State) f w c e sw, Runs s f w → f.fence = none → lookup s.contexts w.ctx = some c → envOf s w = some e →
    (∀ x y z flag r bytes k (bi bm : Nat), Free f flag → Ready f [x, y, z] → f.sReplay = none → (f.readS x).toNat % 32 = 0 →
      Holds s e (f.readS x) 32 .read bytes → r = recordOf bytes → childOk s r = true →
      (f.readS z = 0#64 ∨ (f.readS z).toNat % 32 = 0 ∧ Translates s e (f.readS z) 32 .write) →
      bi = r.width * ((f.readS y).toNat % 2 ^ 32) → bm = r.width * ((f.readS y).toNat / 2 ^ 32) → bi ≤ w.bi.toNat - 1 → bm ≤ w.bm.toNat - 1 →
      c.crossingReady = true →
      placeOn s (diesOf s c) { r with w3 := stampPartition c r.w3 } = some k →
      ∃ (t : State) (f' : Fibre) (q : _), exec (.spawn sw x y flag z) s = .next t ∧ lookup t.fibres s.cur = some f' ∧ WentTo f f' (f.spc + 4#64) ∧
        (∀ k, k ≠ s.cur → lookup t.fibres k = lookup s.fibres k) ∧ CrewsCharged s t (bankOfFibre s.cur) (1 + bi) (1 + bm) ∧
        t.queue = s.queue ++ [q] ∧ q.record = { r with w3 := stampPartition c r.w3 } ∧ q.ctx = w.ctx ∧ q.cluster = k ∧ q.held = false ∧
        q.time = s.clock ∧ (∀ y ∈ s.queue, q.addr ≠ y.addr) ∧
        q.joinLink = (if f.readS z = 0#64 then none else some { addr := f.readS z, view := w.view }) ∧ q.carve = (bits (f.readS y) 0 32, bits (f.readS y) 32 32) ∧
        { t with fibres := s.fibres, crews := s.crews, counters := s.counters, tlb := s.tlb, l2 := s.l2, queue := s.queue } = s ∧ ∀ p, byteAt t p = byteAt s p) ∧
    (∀ x y z flag d p key bytes (l : Launch), Free f flag → Ready f [x, y, z] → f.sReplay = none → launchesFull s = false →
      (f.readS x).toNat % 64 = 0 → Holds s e (f.readS x) 64 .read bytes → d = launchFields bytes → childOk s (recordOf bytes) = true → d.join = 0#64 →
      1 ≤ d.most → d.most ≤ 2 ^ 24 → d.reserved = 0 → (∀ T, Refilled s e T → resolveLanding { s with tlb := T } e (bankOfFibre s.cur) (f.readS y) .read = .word p key ∧
        (localForm (f.readS y) = false → walkedRange { s with tlb := T } e (f.readS y) 16 = { s with tlb := T })) →
      (∃ word, Sound s (wordSpots p key) word) → (readWord s p key).ok = true → (f.readS z).toNat < 2 ^ 16 →
      d.most * (recordOf bytes).width * (d.carve.toNat % 2 ^ 32) ≤ w.bi.toNat - 1 →
      d.most * (recordOf bytes).width * (d.carve.toNat / 2 ^ 32) ≤ w.bm.toNat - 1 →
      l = { ctx := w.ctx, template := recordOf bytes, view := w.view, extent := d.extent, carve := carveOf d.carve, joinLink := none, most := d.most, place := p, gen := bits (f.readS z) 0 16 } →
      ∃ (t : State) (f' : Fibre) (E : _), exec (.launchi sw x y flag z) s = .next t ∧ lookup t.fibres s.cur = some f' ∧ RaisedFlag f f' flag ∧
        (∀ k, k ≠ s.cur → lookup t.fibres k = lookup s.fibres k) ∧
        CrewsCharged s t (bankOfFibre s.cur) (1 + d.most * (recordOf bytes).width * (d.carve.toNat % 2 ^ 32))
          (1 + d.most * (recordOf bytes).width * (d.carve.toNat / 2 ^ 32)) ∧
        lookup t.engines s.nextSerial = some E ∧ E.op = .launch l ∧ (∀ k, k ≠ s.nextSerial → lookup t.engines k = lookup s.engines k) ∧
        { t with fibres := s.fibres, crews := s.crews, counters := s.counters, tlb := s.tlb, l2 := s.l2, engines := s.engines, nextSerial := s.nextSerial } = s ∧
        ∀ p, byteAt t p = byteAt s p) ∧
    (∀ x y (a b : Nat), Ready f [x, y] → a = (f.readS x).toNat → b = (f.readS y).toNat →
      (w.own.topUp = true → a < 2 ^ 32 → b < 2 ^ 32 → ∃ (t : State) (f' : Fibre) (w' : Crew), exec (.bgrant sw x y) s = .next t ∧ lookup t.fibres s.cur = some f' ∧
        WentTo f f' (f.spc + 4#64) ∧ lookup t.crews (bankOfFibre s.cur) = some w' ∧ w'.calm = w.calm ∧
        w'.bi.toNat = min (w.bi.toNat - 1 + a) (2 ^ 32 - 1) ∧ w'.bm.toNat = min (w.bm.toNat + b) (2 ^ 32 - 1) ∧
        (w'.bi ≠ 0#32 → w'.bm ≠ 0#32 → w'.g = false) ∧ { t with fibres := s.fibres, crews := s.crews, counters := s.counters } = s ∧
        (∀ k, k ≠ s.cur → lookup t.fibres k = lookup s.fibres k) ∧
        ∀ k, k ≠ bankOfFibre s.cur → (lookup t.crews k).map Crew.calm = (lookup s.crews k).map Crew.calm) ∧
      (w.own.topUp = false → ∃ (u : State), Becomes s u f.issued 1 0 ∧ exec (.bgrant sw x y) s = .next (takeTrap u false { cause := .budgetRight }))) ∧
    ∀ x y (a b : Nat), Ready f [x, y] → a = (f.readS x).toNat → b = (f.readS y).toNat →
      (∀ n d, w.own.priv = true → a < 2 ^ 11 → a / 64 % 4 = 0 → b ≤ 16 → contextOf s (a / 256) (a % 64) = some (n, d) →
        ∃ (t : State) (f' : Fibre), exec (.qprio sw x y) s = .next t ∧ lookup t.fibres s.cur = some f' ∧ WentTo f f' (f.spc + 4#64) ∧
          (∀ k, lookup t.contexts k =
            (lookup s.contexts k).map (fun c => if k = n then { c with override := if b = 16 then none else some b } else c)) ∧
          { t with fibres := s.fibres, crews := s.crews, counters := s.counters, contexts := s.contexts } = s ∧
          CrewsCharged s t (bankOfFibre s.cur) 1 0 ∧ ∀ k, k ≠ s.cur → lookup t.fibres k = lookup s.fibres k) ∧
      (w.own.priv = false → ∃ (u : State), Becomes s u f.issued 1 0 ∧ exec (.qprio sw x y) s = .next (takeTrap u false { cause := .privileged }))

/-- R181 to R185, R188: FBAR waits until every fibre of its set has arrived with that set, and the last arrival releases them all; ROLE waits for the
drain, and ROLE_SWITCH then enters the role; TFENCE completes with the named flags clear and traps with ARITH otherwise.
Where the rules leave a point open it follows the model's own choices (assumptions 116, 117 and 126). -/
def Obligations.BerthBarriers : Prop :=
  (∀ (s : State) f w sw (m p : BitVec 4), Runs s f w → f.fence = none → f.sWait = none → f.handler = none → f.clauses = [] → f.ended = false →
    p = (if m = 0#4 then presentMask s (slotOfFibre s.cur) else m) → p &&& ~~~(presentMask s (slotOfFibre s.cur)) = 0#4 →
    p.getLsbD (s.cur % 4) = true →
    (∀ j < 4, j ≠ s.cur % 4 → p.getLsbD j = true →
      arrivedWith s (slotOfFibre s.cur) j = some p ∨ arrivedWith s (slotOfFibre s.cur) j = none) →
    ((∀ j < 4, j ≠ s.cur % 4 → p.getLsbD j = true → arrivedWith s (slotOfFibre s.cur) j = some p) →
      ∃ (t : State) (f' : Fibre), exec (.fbar sw m) s = .next t ∧ lookup t.fibres s.cur = some f' ∧ WentTo f f' (f.spc + 4#64) ∧
        (∀ k, k ≠ s.cur → lookup t.fibres k =
          (lookup s.fibres k).map (fun g => if k / 4 = s.cur / 4 ∧ p.getLsbD (k % 4) = true then g.completeWait else g)) ∧
        CrewsCharged s t (bankOfFibre s.cur) 1 0 ∧ { t with fibres := s.fibres, crews := s.crews, counters := s.counters } = s) ∧
    ((∃ j < 4, j ≠ s.cur % 4 ∧ p.getLsbD j = true ∧ arrivedWith s (slotOfFibre s.cur) j = none) →
      ∃ (t : State) (f' : Fibre), exec (.fbar sw m) s = .next t ∧ HandsOn s t f' 1 0 ∧ WaitsFor f f' (.fbar p))) ∧
  (∀ (s : State) f w sw (n k : BitVec 6), Runs s f w → f.fence = none → f.sWait = none → f.handler = none →
    (roleRefused s s.cur n.toNat k.toNat w = none →
      ∃ (t : State) (f' : Fibre), exec (.role sw n k) s = .next t ∧ HandsOn s t f' 1 0 ∧ WaitsFor f f' (.role n.toNat k.toNat)) ∧
    ∀ sub, roleRefused s s.cur n.toNat k.toNat w = some sub → ∃ (u : State), Becomes s u f.issued 1 0 ∧
      exec (.role sw n k) s = .next (takeTrap u false { cause := .roleInvalid, sub := sub })) ∧
  (∀ (s : State) g f w r d n k, lookup s.fibres g = some f → lookup s.crews (bankOfFibre g) = some w → f.sWait = some (.role n k) → drained s g f = true →
    roleRefused s g n k w = none → w.block.roles[n]? = some r → roleWindow r.window k = some d → w.g = false →
    ∃ (f' : Fibre), exec (.roleSwitch g) s = .next { s with fibres := put s.fibres g f' } ∧ f'.window = d ∧ f'.lcbase = laneBaseOf r.laneBase ∧ f'.spc = codeAddress r.entry ∧
      f'.role = n ∧ f'.index = k ∧ f'.sWait = none ∧ ∀ q, f'.readS q = if q = 2#6 then BitVec.ofNat 64 k else f.readS q) ∧
  ∀ (s : State) f w sw (m : BitVec 6), Runs s f w → f.fence = none → f.sWait = none → f.handler = none → f.clauses = [] → f.lpend = [] →
    (∀ e ∈ s.engines, ownedBy s s.cur e.2.serial e.2.fibre = false) →
    (f.aflags.setWidth 6 &&& m = 0#6 → ∃ (t : State) (f' : Fibre), exec (.tfence sw m) s = .next t ∧ Becomes s t f' 1 0 ∧ WentTo f f' (f.spc + 4#64)) ∧
    (f.aflags.setWidth 6 &&& m ≠ 0#6 → ∃ (u : State), Becomes s u f.issued 1 0 ∧ exec (.tfence sw m) s = .next (takeTrap u false { cause := .arith }))

/-- R190 to R192, R195, R196, R60: TRAP, BRK with a lane in its mask, and a word that is no instruction trap; where the crew has a handler the frame is
written, `s1` holds its address and SPC is the handler's; where it has none, or the fibre is in its handler, the fibre is frozen (R194). BRK with no such
lane only goes on.
Where the rules leave a point open it follows the model's own choices (assumptions 115 and 130). -/
def Obligations.TrapEntry : Prop :=
  ∀ (s : State) f w sw, Runs s f w → f.fence = none →
    (∀ x k, Ready f [x] →
      (f.handler = none → w.trapbase.getLsbD 0 = true → ∃ (u : State) (t : State), Becomes s u f.issued 1 0 ∧ exec (.trap sw x k) s = .next t ∧
        Entered u t f.issued w false s.latch { cause := .soft, code := k.toNat, addr := f.readS x }) ∧
      (f.handler.isSome = true ∨ w.trapbase.getLsbD 0 = false → ∃ (u : State) (t : State), Becomes s u f.issued 1 0 ∧ exec (.trap sw x k) s = .next t ∧ Froze u t f.issued)) ∧
    (∀ (p : BitVec 6) k, f.laneOpsDone = true →
      (f.em &&& f.readP (p.setWidth 3) = 0#32 → ∃ (t : State) (f' : Fibre), exec (.brk sw p k) s = .next t ∧ Becomes s t f' 1 0 ∧ WentTo f f' (f.spc + 4#64)) ∧
      (f.em &&& f.readP (p.setWidth 3) ≠ 0#32 → f.handler = none → w.trapbase.getLsbD 0 = true → ∃ (u : State) (t : State), Becomes s u f.issued 1 0 ∧ exec (.brk sw p k) s = .next t ∧
        Entered u t f.issued w false s.latch
          { cause := .brk, code := k.toNat, mask := f.em &&& f.readP (p.setWidth 3), pred := f.readP (p.setWidth 3) }) ∧
      (f.em &&& f.readP (p.setWidth 3) ≠ 0#32 → f.handler.isSome = true ∨ w.trapbase.getLsbD 0 = false →
        ∃ (u : State) (t : State), Becomes s u f.issued 1 0 ∧ exec (.brk sw p k) s = .next t ∧ Froze u t f.issued)) ∧
    ∀ (word : BitVec 96) lane sub tr, f.handler = none → tr.cause = .illegalInstr → tr.sub = Subcause.code sub → tr.code = 0 → tr.addr = 0#64 →
      tr.pred = 0#32 →
      tr.mask = (if lane = false then 0#32 else if sub = .header then f.em else
        f.em &&& (if word.getLsbD 84 = true then ~~~(f.readP (bits word 81 3)) else f.readP (bits word 81 3))) →
      (w.trapbase.getLsbD 0 = true → ∃ (t : State), exec (.illegalInstr word lane sub) s = .next t ∧ Entered s t f w lane word tr) ∧
      (w.trapbase.getLsbD 0 = false → ∃ (t : State), exec (.illegalInstr word lane sub) s = .next t ∧ Froze s t f)

/-- R193: TRET leaves the handler: `s1` is as it was before the trap, and the stream that trapped goes on at its instruction, past it where K is 1 or
the cause resumes after it, or at `s`X where X is not 0; a lane word that is passed leaves its marks unapplied and its raised flag lowered, and the next
word is next. A misaligned target traps in the handler, which freezes the fibre; outside a handler TRET
is illegal.
Where the rules leave a point open it follows the model's own choices (assumptions 115, 121 and 122). -/
def Obligations.TrapReturn : Prop :=
  ∀ (s : State) f w sw x (k : BitVec 6), Runs s f w → f.fence = none → Ready f [x] →
    (f.handler = none → exec (.tret sw x k) s = .next (illegalRange s)) ∧
    ∀ fr, f.handler = some fr →
      (x ≠ 0#6 → (f.readS x).toNat % 4 ≠ 0 → ∃ (u : State) (t : State), Becomes s u f.issued 1 0 ∧ exec (.tret sw x k) s = .next t ∧ Froze u t f.issued) ∧
      (x = 0#6 ∨ (f.readS x).toNat % 4 = 0 →
        ∃ (t : State) (f' : Fibre), exec (.tret sw x k) s = .next t ∧ Becomes s t f' 1 0 ∧ f'.handler = none ∧ f'.sWait = fr.wait ∧
          (∀ r, f'.readS r = if r = 1#6 then fr.oldS1 else f.readS r) ∧
          f'.spc = (if x ≠ 0#6 then f.readS x else if fr.trap.cause.resumesAfter = true ∨ k = 1#6 ∧ fr.lane = false then fr.spc + 4#64 else fr.spc) ∧
          (¬ (k = 1#6 ∧ fr.lane = true ∧ fr.trap.cause.resumesAfter = false) →
            f'.lReplay = f.lReplay ∧ f'.flags = f.flags ∧ f'.clauses = f.clauses ∧ f'.running = f.running) ∧
          (k = 1#6 → fr.lane = true → fr.trap.cause.resumesAfter = false → f'.lReplay = none ∧ f'.lRaised = none ∧
            (f.running = none → f'.clauses = f.clauses.drop 1 ∧ f'.flags = f.flags) ∧
            ∀ run c rest, f.running = some run → f.clauses = c :: rest →
              (∀ j : Fin 12, f'.flags[j] = if f.lRaised = some j.val then f.flags[j] - 1#4 else f.flags[j]) ∧
              (run.pos < run.len → f'.clauses = f.clauses ∧ f'.lpc = f.lpc + 12#64) ∧
              (run.pos = run.len → f'.lpc = (if f'.clauses = f.clauses then 0#64 else (rest.head?.map (·.header)).getD 0#64) ∧
                f'.clauses = if run.fa ≠ 15#4 ∨ run.fb ≠ 15#4 ∨ ∀ p ∈ f.lpend, p.clause ≠ c.serial then rest else f.clauses)) ∧
          f'.cbarDone = (if f'.spc = fr.spc then fr.cbarDone else none) ∧
          f'.em = f.em ∧ f'.preds = f.preds ∧ f'.aflags = f.aflags ∧ f'.gens = f.gens ∧ f'.lcbase = f.lcbase ∧ f'.window = f.window)

/-- R27, R32, R53 to R55, R149, R150, R153 to R157, R164 to R167: a short element-wise lane word runs its segments in order; in each, every active lane computes
its result from operands read before any write, then register lanes, scratchpad, generators and flags are written. Nothing else changes.
Where the rules leave a point open it follows the model's own choices (assumption 33). -/
def Obligations.LaneElementwise : Prop :=
  ∀ i op w e, laneFields i = some (op, w) → laneSpec op w = some (false, e) → wellFormed i = true →
    ∀ (s : State) f cr c run, LaneRuns s f cr c run w false → SweepsHold s f c w → ∀ F, F = sweepRun s f c w e →
      ∃ (t : State), exec i s = .next t ∧
        lookup t.fibres s.cur = some (Fibre.nextLane { f with
          lStall := none, aflags := f.aflags ||| F.fl.setWidth 64, gens := Vector.ofFn (fun k : Fin 32 => F.gens k.val) }) ∧
        (∀ k g, k ≠ s.cur → lookup s.fibres k = some g → g.fence = none → lookup t.fibres k = some g) ∧
        CrewsCharged s t (bankOfFibre s.cur) (max w.count.toNat 1) (sweepToll f c w) ∧ (∀ p, byteAt t p = F.mem p) ∧
        ((w.d.isSweep = true → ∀ k g x, k ≠ s.cur → lookup s.fibres k = some g → g.fence = some x → x.shadows = []) →
          (∀ r l, l < 32 → berthLane t r l =
          if berthOf f w.d = some r ∧ (activeLanes f w).getLsbD l = true then
            (if r ∈ marksOf f w then F.reg l &&& selectorMask (selectorOf w.d) else F.reg l)
          else if r ∈ marksOf f w then 0#32 else berthLane s r l) ∧
          ∀ k, k ≠ slotOfFibre s.cur → slotOf t k = slotOf s k) ∧ StoredOnly s t

/-- R23, R147, R156, R158: FDIV, FSQRT and the functions are long-latency: at issue their flag rises and the operation is outstanding with the results of all
its segments; no register, byte or arithmetic flag has changed. LANE_OP_COMPLETE then writes them. -/
def Obligations.LaneLongLatency : Prop :=
  ∀ i op w e, laneFields i = some (op, w) → laneSpec op w = some (true, e) → wellFormed i = true →
    ∀ (s : State) f cr c run, LaneRuns s f cr c run w false → SweepsHold s f c w → (∀ k, run.flagFor false = some k → f.flag k < 15) →
      ∀ F, F = sweepRun s f c w e →
        ∃ (t : State) (f' : Fibre) (P : _), exec i s = .next t ∧ lookup t.fibres s.cur = some f' ∧
          LanePends f f' c run w false P (Vector.ofFn (fun k : Fin 32 => F.gens k.val)) ∧ P.aflags = F.fl ∧
          (∀ r l, berthOf f w.d = some r → (activeLanes f w).getLsbD l = true →
            laneAt P.value l = if r ∈ marksOf f w then F.reg l &&& selectorMask (selectorOf w.d) else F.reg l) ∧
          (∀ p, (lookup P.cells p).getD (byteAt s p) = F.mem p) ∧
          (∀ k, k ≠ s.cur → lookup t.fibres k = lookup s.fibres k) ∧
          CrewsCharged s t (bankOfFibre s.cur) (max w.count.toNat 1) (sweepToll f c w) ∧
          { t with fibres := s.fibres, crews := s.crews, counters := s.counters } = s ∧ ∀ p, byteAt t p = byteAt s p

/-- R159, R160: a compare writes the active bits of its predicate with the relation and leaves the others; a floating-point compare sets invalid as its row says. -/
def Obligations.LaneCompares : Prop :=
  ∀ i op w C, laneFields i = some (op, w) → compareSpec op w = some C → wellFormed i = true →
    ∀ (s : State) f cr c run, LaneRuns s f cr c run w false →
      ∀ (a b : Nat → Lane) m, m = activeLanes f w → a = operandLane s f c C.imm w.a → b = operandLane s f c C.imm w.b →
        ∃ (t : State) (v : _) (fl : _), exec i s = .next t ∧
          LaneDone s t (Fibre.nextLane (Fibre.writeP { f with lStall := none, aflags := f.aflags ||| fl.setWidth 64 } (predOf w.d) v)) 1 (marksOf f w)
            (fun _ _ => none) ∧
          (∀ l, l < 32 → (v.getLsbD l = true ↔ if m.getLsbD l = true then C.holds (a l) (b l) else (f.readP (predOf w.d)).getLsbD l = true)) ∧
          (fl = 0#6 ∨ fl = 1#6) ∧ (fl = 1#6 ↔ ∃ l, l < 32 ∧ m.getLsbD l = true ∧ C.invalid (a l) (b l))

/-- R161, R162, R174: predicate logic, the moves of `em` and the votes into a predicate change the active bits of their destination and nothing else; the lanes of
EMSET and EMGET are selected by the guard alone. -/
def Obligations.LanePredicates : Prop :=
  ∀ i op w s f cr c run, laneFields i = some (op, w) → wellFormed i = true → LaneRuns s f cr c run w false →
    ∀ (m g n a b : Mask), m = activeLanes f w → g = (if w.pn then ~~~(f.readP w.pi) else f.readP w.pi) →
      a = f.readP (predOf w.a) → b = f.readP (predOf w.b) →
      n = (match w.a with | .pred p => f.readP p | .scalar r => (c.scalar r).setWidth 32 | .imm v => BitVec.ofInt 32 v.toInt | _ => 0#32) →
      (∀ x ∈ ([(LaneOp.pand, a &&& b), (LaneOp.por, a ||| b), (LaneOp.pxor, a ^^^ b), (LaneOp.pandn, a &&& ~~~b), (LaneOp.pnot, ~~~a),
          (LaneOp.vany, if a &&& m = 0#32 then 0#32 else BitVec.allOnes 32), (LaneOp.vall, if m &&& ~~~a = 0#32 then BitVec.allOnes 32 else 0#32)] :
          List (LaneOp × Mask)),
        op = x.1 → ∃ (t : State) (v : _), exec i s = .next t ∧
          LaneDone s t (Fibre.nextLane (Fibre.writeP { f with lStall := none } (predOf w.d) v)) 1 [] (fun _ _ => none) ∧
          ∀ l, l < 32 → v.getLsbD l = if m.getLsbD l then x.2.getLsbD l else (f.readP (predOf w.d)).getLsbD l) ∧
      (op = .emget → ∃ (t : State) (v : _), exec i s = .next t ∧
          LaneDone s t (Fibre.nextLane (Fibre.writeP { f with lStall := none } (predOf w.d) v)) 1 [] (fun _ _ => none) ∧
          ∀ l, l < 32 → v.getLsbD l = if g.getLsbD l then f.em.getLsbD l else (f.readP (predOf w.d)).getLsbD l) ∧
      (op = .emand → ∃ (t : State) (v : _), exec i s = .next t ∧ LaneDone s t (Fibre.nextLane { f with lStall := none, em := v }) 1 [] (fun _ _ => none) ∧
          ∀ l, l < 32 → v.getLsbD l = if m.getLsbD l then f.em.getLsbD l && n.getLsbD l else f.em.getLsbD l) ∧
      (op = .emset → ∃ (t : State) (v : _), exec i s = .next t ∧ LaneDone s t (Fibre.nextLane { f with lStall := none, em := v }) 1 [] (fun _ _ => none) ∧
          ∀ l, l < 32 → v.getLsbD l = if g.getLsbD l then n.getLsbD l else f.em.getLsbD l)

/-- R155, R163, R168, R173 to R176: SEL, the shuffles, BALLOT, the scans and reductions, and TOPK write their register lanes, SEED writes the generators of the
active lanes, and LNOP changes nothing. -/
def Obligations.LaneCrossing : Prop :=
  ∀ i op w s f cr c run, laneFields i = some (op, w) → wellFormed i = true → LaneRuns s f cr c run w (op == .topk) →
    ∀ (imm : BitVec 13 → Lane) (a b : Nat → Lane) (m : Mask) f0 n,
      imm = (if w.ty = 2#3 ∧ op ∈ [LaneOp.scanadd, .scanmin, .scanmax, .redadd, .redmin, .redmax, .topk] then
        (fun v => BitVec.ofNat 32 (intToFloat .fp32 v.toInt .rne false 0).1) else fun v => BitVec.ofInt 32 v.toInt) →
      a = operandLane s f c imm w.a → b = operandLane s f c imm w.b → m = activeLanes f w → f0 = { f with lStall := none } →
      n = (fun l => (b l).toNat % 32) →
      (∀ x ∈ ([(LaneOp.laneSel, fun l => if (f.readP (predOf w.c)).getLsbD l then a l else b l), (LaneOp.shfl, fun l => a (n l)),
          (LaneOp.shflu, fun l => a (if n l ≤ l then l - n l else l)), (LaneOp.shfld, fun l => a (if l + n l ≤ 31 then l + n l else l)),
          (LaneOp.shflx, fun l => a (l ^^^ n l)), (LaneOp.ballot, fun _ => f.readP (predOf w.a) &&& m)] : List (LaneOp × (Nat → Lane))),
        op = x.1 → ∃ (t : State), exec i s = .next t ∧
          LaneDone s t (Fibre.nextLane f0) 1 (marksOf f w) (fun r l => if berthOf f w.d = some r ∧ m.getLsbD l = true then some (x.2 l) else none)) ∧
      (∀ x ∈ ([(LaneOp.scanadd, false), (LaneOp.scanmin, false), (LaneOp.scanmax, false), (LaneOp.redadd, true), (LaneOp.redmin, true),
          (LaneOp.redmax, true)] : List (LaneOp × Bool)),
        op = x.1 → ∃ (t : State) (gens : _), exec i s = .next t ∧
          LaneDone s t (Fibre.nextLane { f0 with aflags := f.aflags ||| (scanUpTo op w m a (laneAt f.gens) 32).2.setWidth 64, gens := gens }) 1 (marksOf f w)
            (fun r l => if berthOf f w.d = some r ∧ m.getLsbD l = true then (scanUpTo op w m a (laneAt f.gens) (if x.2 then 32 else l + 1)).1 else none) ∧
          ∀ l, l < 32 → laneAt gens l =
            if w.rm = 4#3 ∧ w.ty = 2#3 ∧ m.getLsbD l = true ∧ (∃ j, j < l ∧ m.getLsbD j = true) then xorshift (laneAt f.gens l) else laneAt f.gens l) ∧
      (op = .topk → ∀ d lst sel k, w.d = .reg d lst sel →
        k = (match w.b with | .imm v => v.toNat | .scalar r => min ((c.scalar r).toNat % 2 ^ 32) 16 | _ => 0) →
        ∃ (t : State) (V I : Nat → Lane), exec i s = .next t ∧
          LaneDone s t (Fibre.nextLane f0) 1 (marksOf f w) (fun r l => if m.getLsbD l = true ∧ l < k then
            (if berthReg f (d.toNat + 1) = r then some (I l) else if berthReg f d.toNat = r then some (V l) else none) else none) ∧
          ∀ r, r < k → (∀ j ∈ lanesOf m, ∀ B : List Nat, B.Nodup → (∀ q, q ∈ B ↔ q ∈ lanesOf m ∧ topBefore w.ty a q j) → B.length = r →
              V r = a j ∧ I r = BitVec.ofNat 32 j) ∧
            ((lanesOf m).length ≤ r → I r = 0xFFFF_FFFF#32 ∧
              V r = if w.ty = 0#3 then 0x8000_0000#32 else if w.ty = 1#3 then 0#32 else 0xFF80_0000#32)) ∧
      (op = .seed → ∃ (t : State) (gens : _), exec i s = .next t ∧ LaneDone s t (Fibre.nextLane { f0 with gens := gens }) 1 (marksOf f w) (fun _ _ => none) ∧
        ∀ l, l < 32 → laneAt gens l = if m.getLsbD l then (if a l = 0#32 then 0x6D2B_79F5#32 else a l) else laneAt f.gens l) ∧
      (op = .lnop → ∃ (t : State), exec i s = .next t ∧ LaneDone s t (Fibre.nextLane f0) 1 [] (fun _ _ => none))

/-- R147, R150, R169, R170: LDG and LDS issue with the widened values of their lanes, which they write when they complete, and change no byte; STG and STS leave the low bytes
of each active lane at its address, the highest lane last, and every other place as it was.
Where the rules leave a point open it follows the model's own choices (assumptions 6 and 44). -/
def Obligations.LaneMemory : Prop :=
  ∀ i op w s f cr c run, laneFields i = some (op, w) → wellFormed i = true → LaneRuns s f cr c run w false →
    (∀ k, run.flagFor true = some k → f.flag k < 15) → ∀ (L : Nat → List Spot) (m : Mask) (n : Nat) (sg : Bool),
      m = activeLanes f w → (n, sg) = accessType w.ty →
      (∀ x ∈ ([(LaneOp.ldg, false), (LaneOp.lds, true)] : List (LaneOp × Bool)), ∀ bytes : Nat → List Byte,
        op = x.1 → LanesReach s f cr c w x.2 n .load L → (∀ l ∈ lanesOf m, Seen s (L l) (bytes l)) →
        ∃ (t : State) (f' : Fibre) (P : _), exec i s = .next t ∧ LoadDone s t f' (lanesToll s f c w x.2 n L) ∧ LanePends f f' c run w true P f.gens ∧ P.aflags = 0#6 ∧ P.cells = [] ∧
          ∀ l ∈ lanesOf m, laneAt P.value l =
            if sg then (BitVec.ofNat (8 * n) (leNat (bytes l))).signExtend 32 else BitVec.ofNat 32 (leNat (bytes l))) ∧
      (∀ x ∈ ([(LaneOp.stg, false), (LaneOp.sts, true)] : List (LaneOp × Bool)), ∀ (v : Nat → Lane) (key : Option Nat),
        op = x.1 → LanesReach s f cr c w x.2 n (.store 0) L → (∀ l ∈ lanesOf m, Storable s (L l) key) →
        v = operandLane s f c (fun v => BitVec.ofInt 32 v.toInt) w.c →
        ∃ (t : State) (f' : Fibre) (P : _), exec i s = .next t ∧ lookup t.fibres s.cur = some f' ∧ LanePends f f' c run w true P f.gens ∧ P.aflags = 0#6 ∧ P.cells = [] ∧
          P.reg = none ∧ (∀ k g, k ≠ s.cur → lookup s.fibres k = some g → g.fence = none → lookup t.fibres k = some g) ∧
          CrewsCharged s t (bankOfFibre s.cur) 1 (lanesToll s f c w x.2 n L) ∧ StoredOnly s t ∧
          (∀ l ∈ lanesOf m, ∀ (j : Nat) (y : Spot) (p : Nat), (L l)[j]? = some y → y.place = some p →
            (∀ l' ∈ lanesOf m, l < l' → ∀ z ∈ L l', z.place ≠ some p) → byteAt t p = BitVec.ofNat 8 ((v l).toNat / 256 ^ j)) ∧
          ∀ p, (∀ l ∈ lanesOf m, ∀ y ∈ L l, y.place ≠ some p) → viewByte t p key = viewByte s p key)

/-- R140, R150, R171: the lane atomics update their locations one lane after the other, in ascending order, each indivisibly; the operation that is outstanding holds the old values,
which the register lanes receive. A CAS whose expected value is another leaves the location. No other place changes.
Where the rules leave a point open it follows the model's own choices (assumptions 6 and 44). -/
def Obligations.LaneAtomics : Prop :=
  ∀ i op w isLocal g s f cr c run, laneFields i = some (op, w) → wellFormed i = true → laneAtomicSpec op = some (isLocal, g) →
    LaneRuns s f cr c run w false → (∀ k, run.flagFor true = some k → f.flag k < 15) →
    ∀ (L : Nat → List Spot) (m : Mask) (key : Option Nat) (init : Nat → Lane) (C D : Nat → Lane) (step : List Nat → Lane → Lane),
      m = activeLanes f w → LanesReach s f cr c w isLocal 4 (.update some) L →
      (∀ l ∈ lanesOf m, Storable s (L l) key ∧ (accessAddress s f c w isLocal l).toNat % 4 = 0 ∧ Seen s (L l) (leBytes 4 (init l).toNat)) →
      (∀ l ∈ lanesOf m, ∀ j ∈ lanesOf m, (L l).map (·.place) = (L j).map (·.place) ∨ ∀ x ∈ L l, ∀ y ∈ L j, x.place ≠ y.place) →
      C = operandLane s f c (fun v => BitVec.ofInt 32 v.toInt) w.c → D = operandLane s f c (fun v => BitVec.ofInt 32 v.toInt) w.d →
      ((∀ l ∈ lanesOf m, ∀ x ∈ L l, ∀ p, x.place = some p → inTileFile p = false ∧ openByte s p = false) ∨
        (lanesOf m).length ≤ 1 ∧ ∀ l ∈ lanesOf m, (g (init l) (C l) (D l)).isSome = true) →
      step = (fun ls v => ls.foldl (fun x j => (g x (C j) (D j)).getD x) v) →
      ∃ (t : State) (f' : Fibre) (P : _), exec i s = .next t ∧ lookup t.fibres s.cur = some f' ∧ LanePends f f' c run w true P f.gens ∧ P.aflags = 0#6 ∧ P.cells = [] ∧
        (∀ l ∈ lanesOf m,
          laneAt P.value l = step ((lanesOf m).filter (fun j => j < l ∧ (L j).map (·.place) = (L l).map (·.place))) (init l)) ∧
        (∀ l ∈ lanesOf m, ∀ (j : Nat) (y : Spot) (p : Nat), (L l)[j]? = some y → y.place = some p →
          viewByte t p key =
            some (BitVec.ofNat 8 ((step ((lanesOf m).filter (fun j => (L j).map (·.place) = (L l).map (·.place))) (init l)).toNat / 256 ^ j))) ∧
        (∀ k h, k ≠ s.cur → lookup s.fibres k = some h → h.fence = none → lookup t.fibres k = some h) ∧
        CrewsCharged s t (bankOfFibre s.cur) 1 (lanesToll s f c w isLocal 4 L) ∧ StoredOnly s t ∧
        ∀ p, (∀ l ∈ lanesOf m, ∀ y ∈ L l, y.place ≠ some p) → viewByte t p key = viewByte s p key

/-- R35, R55, R150, R151, R169: a lane word that names an unmapped register or writes a read-only one, a sweep or a scratchpad lane outside every region, and a misaligned
atomic trap exactly at issue: `bi` is charged and nothing is written.
Where the rules leave a point open it follows the model's own choices (assumptions 24 and 32). -/
def Obligations.LaneTraps : Prop :=
  ∀ i op w s f cr c run, laneFields i = some (op, w) → wellFormed i = true → Runs s f cr → f.clauses.head? = some c → f.running = some run →
    f.fence = none → ∀ (m : Mask), m = activeLanes f w →
      (op ≠ .emset → op ≠ .emget → ∀ cause, windowCause f w (op == .topk) = some cause →
        (cause = .regUnmapped ∨ cause = .regReadonly) ∧ ∃ (u : State), Becomes s u { f with lStall := none } (max w.count.toNat 1) 0 ∧
          exec i s = .next (takeTrap u true { cause := cause, mask := m })) ∧
      (LaneRuns s f cr c run w false →
        (∀ long e a, laneSpec op w = some (long, e) → (long = true → ∀ k, run.flagFor false = some k → f.flag k < 15) →
          (sweepsNamed c w).findSome? (fun y => sweepFails s (bankOfFibre s.cur) y.1 y.2 (max w.count.toNat 1) m) = some a →
          ∃ (u : State), Becomes s u { f with lStall := none } (max w.count.toNat 1) 0 ∧
            exec i s = .next (takeTrap u true { cause := .scratchRange, addr := BitVec.ofInt 64 (a % 2 ^ 24), mask := m })) ∧
        (f.lReplay = none → (∀ k, run.flagFor true = some k → f.flag k < 15) → w.count = 0#12 →
          (op = .lds ∨ op = .sts ∨ (∃ g, laneAtomicSpec op = some (true, g)) →
            ∀ l, (lanesOf m).find? (fun l => (localSpots s (bankOfFibre s.cur) (accessAddress s f c w true l).toNat (accessType w.ty).1).isNone) = some l →
              ∃ (u : State), Becomes s u { f with lStall := none } 1 0 ∧
                exec i s = .next (takeTrap u true { cause := .scratchRange, addr := accessAddress s f c w true l, mask := m })) ∧
          ∀ isLocal g, laneAtomicSpec op = some (isLocal, g) →
            (isLocal = true → ∀ l ∈ lanesOf m, (localSpots s (bankOfFibre s.cur) (accessAddress s f c w true l).toNat 4).isSome = true) →
            (isLocal = false → ∀ e, envOf s cr = some e → walkedRanges s e ((lanesOf m).map (accessAddress s f c w false)) 4 = s) →
            ∀ l, (lanesOf m).find? (fun l => (accessAddress s f c w isLocal l).toNat % 4 != 0) = some l →
              ∃ (u : State), Becomes s u { f with lStall := none } 1 0 ∧
                exec i s = .next (takeTrap u true { cause := .memAlign, addr := accessAddress s f c w isLocal l, mask := m })))

/-- R21, R51: CLAUSE_TAKE takes the oldest clause of a ready lane stream, whose header decodes; a header that does not decode traps as ILLEGAL_INSTR HEADER.
R31: LINE_FILL_COMPLETE writes a changed line's live registers back and reads the missing line.
Where the rules leave a point open it follows the model's own choices (assumptions 130, 132 and 133). -/
def Obligations.ClauseTakeAndLineFill : Prop :=
  (∀ (s : State) g f w c rest e bytes l, Runs { s with cur := g } f w → f.clauses = c :: rest → f.running = none → laneReady s g f = true → envOf s w = some e →
    walkedRange s e c.header 12 = s → spots s e c.header 12 .fetch false = .ok l → Seen { s with cur := g, latch := 0#96 } l bytes →
    (∀ old, w.fetched c.header ((l.head?.bind (·.place)).getD 0) = some old → old = bytes) →
    (∀ d, decodeHeader (BitVec.ofNat 96 (leNat bytes)) = some d →
      ∃ (t : State) (f' : Fibre), exec (.clauseTake g) s = .next t ∧ lookup t.fibres g = some f' ∧
        f'.running = some { len := d.len, fa := d.fa, fb := d.fb, wait := d.wait, started := false, pos := 1 } ∧
        { f' with running := f.running, fetchOf := f.fetchOf } = f ∧ (∀ k, k ≠ g → lookup t.fibres k = lookup s.fibres k) ∧
        (∀ k, (lookup t.crews k).map (fun w => { w with code := [] }) = (lookup s.crews k).map (fun w => { w with code := [] })) ∧
        (∀ p, byteAt t p = byteAt s p) ∧
        (∀ k, { slotOf t k with current := 0 } = { slotOf s k with current := 0 }) ∧ (waitDone s g f (.flags d.wait) = true → t.slots = s.slots) ∧
        { t with cur := s.cur, latch := s.latch, fibres := s.fibres, crews := s.crews, counters := s.counters, tlb := s.tlb, l2 := s.l2,
                 slots := s.slots } = s) ∧
    (decodeHeader (BitVec.ofNat 96 (leNat bytes)) = none → ∃ (v : _) (f' : Fibre), lookup v.fibres g = some f' ∧ { f' with fetchOf := f.fetchOf } = f ∧ v.cur = g ∧
      v.latch = BitVec.ofNat 96 (leNat bytes) ∧ (∀ p, byteAt v p = byteAt s p) ∧ exec (.clauseTake g) s = .next (takeTrap v true { cause := .illegalInstr, sub := 6, mask := f.em }))) ∧
  ∀ (s : State) slot m w fk ref, fk = 4 * slot → lookup s.crews (bankOfFibre fk) = some w → slotOfFibre fk = slot →
    (∃ i f sw, i ∈ slotFibres s slot ∧ lookup s.fibres i = some f ∧ f.lStall = some (.lineMiss m, sw)) → lineHeld s fk m = false →
    ref = lineTag w fk m → ref + 512 ≤ 2 ^ 40 →
    (∀ ln : Line, lookup (slotOf s slot).lines m = some ln → ln.unsaved = true → (∀ u, u / 64 = m → (slotOf s slot).marked u = false) → ∃ (t : State), exec (.lineFillComplete slot m) s = .next t ∧
      ∀ i l j, i < 4 → l < 32 → j < 4 →
        (match ln.state with | .evictable _ => ln.dead.getLsbD i | _ => (slotOf s slot).dead.getLsbD (4 * m + i)) = false →
        byteAt t (ln.tag + 128 * i + 4 * l + j) = BitVec.ofNat 8 ((laneAt (ln.data[i]?.getD zeroVec) l).toNat / 256 ^ j)) ∧
    ((∀ ln : Line, lookup (slotOf s slot).lines m = some ln → ln.state = .clean ∨ ln.state = .evictable false) → ∀ bytes : Nat → Byte,
      (∀ i, i < 512 → seenByte s (ref + i) (areaKey s w) = some (bytes i) ∧ Clean s (ref + i)) →
      ∃ (t : State) (ln : _), exec (.lineFillComplete slot m) s = .next t ∧ lookup (slotOf t slot).lines m = some ln ∧ ln.tag = ref ∧ ln.state = .clean ∧
        (∀ i l, i < 4 → l < 32 → laneAt (ln.data[i]?.getD zeroVec) l =
          BitVec.ofNat 32 (leNat [bytes (128 * i + 4 * l), bytes (128 * i + 4 * l + 1), bytes (128 * i + 4 * l + 2), bytes (128 * i + 4 * l + 3)])) ∧
        (∀ k, k ≠ m → lookup (slotOf t slot).lines k = lookup (slotOf s slot).lines k) ∧ (∀ k, k ≠ slot → slotOf t k = slotOf s k) ∧
        { t with slots := s.slots } = s)

/-- R115, R147, R179, R310 to R312: a scalar result that arrives writes its register unless a newer write has made it void, and every clause snapshot that awaits it; a lane
operation that completes writes its lanes, ORs its flags and lowers its flag; a fence whose waits have ended performs its held stores in order and is no longer pending, and then a
trap held past it is taken.
Where the rules leave a point open it follows the model's own choices (assumptions 6, 25 and 132). -/
def Obligations.Completions : Prop :=
  (∀ (s : State) g f id p v, lookup s.fibres g = some f → f.spend.find? (fun q => q.id == id) = some p → p.value = some v →
    ∃ (f' : Fibre), exec (.scalarResultArrival g id) s = .next { s with fibres := put s.fibres g f' } ∧
      (∀ r, f'.readS r = if p.live = true ∧ r = p.dest ∧ r ≠ 0#6 then v else f.readS r) ∧ f'.spend = f.spend.filter (fun q => q.id != id) ∧
      { f' with spend := f.spend, sregs := f.sregs, clauses := f.clauses, fence := f.fence } = f ∧
      ∀ (i : Nat) c, f.clauses[i]? = some c → ∃ c', f'.clauses[i]? = some c' ∧ c'.header = c.header ∧ c'.serial = c.serial ∧
        (∀ r, c'.scalar r = if r = p.dest ∧ r ≠ 0#6 ∧ (∃ a ∈ c.awaiting, a.2 = id) then v else c.scalar r) ∧
        ∀ a, a ∈ c'.awaiting ↔ a ∈ c.awaiting ∧ a.2 ≠ id) ∧
  (∀ (s : State) g f id p, lookup s.fibres g = some f → f.fence = none → f.lpend.find? (fun q => q.id == id) = some p →
    (∀ r, p.reg = some r → r < 256 ∧ (lookup (slotOf s (slotOfFibre g)).lines (r / 4)).isSome = true) → (∀ r ∈ p.marks, r < 256) →
    (∀ r, p.reg = some r → RegisterClean { s with cur := g } r) → (p.cells ≠ [] → NoErrors s) → (p.cells.map (·.1)).Nodup → (∀ c ∈ p.cells, inStore c.1 = true) →
    ∃ (t : State) (f' : Fibre) (l : _), exec (.laneOpComplete g id) s = .next t ∧ lookup t.fibres g = some f' ∧
      f' = Fibre.retireClause { f with lpend := l, aflags := f.aflags ||| p.aflags.setWidth 64, flags := (f.lower p.flag).flags } ∧
      (∀ q, q ∈ l ↔ ∃ q0 ∈ f.lpend, q0.id ≠ id ∧
        q = (if q0.reg = p.reg ∧ q0.reg ≠ none ∧ q0.id < id then { q0 with mask := q0.mask &&& ~~~p.mask } else q0)) ∧
      ((p.cells ≠ [] → ∀ k h x, k ≠ g → lookup s.fibres k = some h → h.fence = some x → x.shadows = []) →
        (∀ r n, n < 32 → berthLane { t with cur := g } r n =
        if p.reg = some r ∧ p.mask.getLsbD n = true then laneAt p.value n else if r ∈ p.marks then 0#32 else berthLane { s with cur := g } r n) ∧
        ∀ k, k ≠ slotOfFibre g → slotOf t k = slotOf s k) ∧ (∀ q, byteAt t q = (lookup p.cells q).getD (byteAt s q)) ∧
      (∀ k h, k ≠ g → lookup s.fibres k = some h → h.fence = none → lookup t.fibres k = some h) ∧ t.crews = s.crews ∧ StoredOnly s t) ∧
  ∀ (s : State) g f x, lookup s.fibres g = some f → f.fence = some x → f.prefenceDone x = true → enginesDone s g x.scope x.engines x.remote = true →
    (x.heldTrap = none → x.partials s = [] → ∃ (t : State), exec (.fenceComplete g) s = .next t ∧ lookup t.fibres g = some { f with fence := none } ∧
      (s.ciphered = [] → (∀ y ∈ x.stores, y.key = none) →
        ∀ p, byteAt t p = (((x.stores.flatMap (·.cells)).reverse.find? (fun c => c.1 == p)).map (·.2)).getD (byteAt s p))) ∧
    ∀ lane tr word, x.heldTrap = some (lane, tr, word) → x.stores = [] →
      exec (.fenceComplete g) s = .next (takeTrapOf { s with fibres := put s.fibres g { f with fence := none } } g word lane tr)

/-- R187, R287, R288, R360: a waiting page request is written to the ring of its die while there is room; a reply for it ends it and every waiter learns the outcome; a reply of no
request is counted and discarded; a request with no reply ends as refused after 100 ms. A parked fibre whose request succeeded replays for its unfinished lanes, and traps where
it was refused; one whose crew is being saved keeps the outcome.
Where the rules leave a point open it follows the model's own choices (assumptions 8, 22 and 52). -/
def Obligations.PageRequests : Prop :=
  (∀ (s : State) die d r (i : Nat), d = dieState s die → d.requests.find? (fun r => r.posted.isNone) = some r → d.prqBase ≠ 0#64 → (d.prqTail + 1) % 512 ≠ d.prqHead →
    (d.requests.filter (fun r => r.posted.isSome)).length < 512 → d.prqBase.toNat + 16384 ≤ 2 ^ 52 - 2 ^ 45 → d.prqTail < 512 →
    ∃ (t : State) (d' : Die), exec (.pageRequestPost die) s = .next t ∧ lookup t.dies die = some d' ∧ d'.prqTail = (d.prqTail + 1) % 512 ∧ d'.prqHead = d.prqHead ∧
      d'.prqBase = d.prqBase ∧ d'.requests = d.requests.map (fun q => if q.number = r.number then { q with posted := some s.time } else q) ∧
      (∀ x ∈ [(0, 8, r.addr.toNat), (8, 4, r.ctx), (12, 2, r.gen.toNat), (14, 2, r.number), (16, 1, r.kind), (17, 1, r.access), (18, 1, r.level), (19, 1, die),
          (20, 12, 0)], numberAt t (hostPlace (d.prqBase.toNat + 32 * d.prqTail) + x.1) x.2.1 = x.2.2 % 256 ^ x.2.1) ∧
      t.msix = (9 + die) :: s.msix ∧ (∀ k, k ≠ die → lookup t.dies k = lookup s.dies k) ∧
      (i < hostPlace (d.prqBase.toNat + 32 * d.prqTail) ∨ hostPlace (d.prqBase.toNat + 32 * d.prqTail) + 32 ≤ i → viewByte t i none = viewByte s i none)) ∧
  (∀ (s : State) die d r (data : List Byte) (n : Nat), d = dieState s die → n = leNat data → data.length = 16 → n / 2 ^ 64 % 256 < 2 → n / 2 ^ 72 = 0 →
    (d.requests.find? (fun q => q.number == n % 2 ^ 16 && q.gen.toNat == n / 2 ^ 16 % 2 ^ 16 && q.ctx == n / 2 ^ 32 % 2 ^ 32 && q.posted.isSome) = some r →
      ∃ (t : State) (d' : Die), exec (.pageRequestReply die data) s = .next t ∧ lookup t.dies die = some d' ∧ (∀ q, q ∈ d'.requests ↔ q ∈ d.requests ∧ q.number ≠ r.number) ∧
        ∀ k f p, lookup s.fibres k = some f → f.parked = some p → ∃ (f' : Fibre) (p' : _), lookup t.fibres k = some f' ∧ f'.parked = some p' ∧
          p'.outcome = (if p.die = die ∧ p.request = r.number ∧ p.outcome = none then some (decide (n / 2 ^ 64 % 256 = 0)) else p.outcome)) ∧
    (d.requests.find? (fun q => q.number == n % 2 ^ 16 && q.gen.toNat == n / 2 ^ 16 % 2 ^ 16 && q.ctx == n / 2 ^ 32 % 2 ^ 32 && q.posted.isSome) = none →
      ∃ c, exec (.pageRequestReply die data) s = .next { s with counters := c })) ∧
  (∀ (s : State) die d n r at0, d = dieState s die → d.requests.find? (fun q => q.number == n) = some r → r.posted = some at0 → at0 + 100000000 ≤ s.time →
    ∃ (t : State) (d' : Die), exec (.pageRequestTimeout die n) s = .next t ∧ lookup t.dies die = some d' ∧ (∀ q, q ∈ d'.requests ↔ q ∈ d.requests ∧ q.number ≠ n) ∧
      ∀ k f p, lookup s.fibres k = some f → f.parked = some p → p.die = die → p.request = n → p.outcome = none →
        ∃ (f' : Fibre) (p' : _), lookup t.fibres k = some f' ∧ f'.parked = some p' ∧ p'.outcome = some false) ∧
  (∀ (s : State) g f p w, lookup s.fibres g = some f → f.parked = some p → lookup s.crews (bankOfFibre g) = some w →
    (w.state ≠ .running → exec (.parkedReplay g) s = .next s) ∧ (w.state = .running → crewRuns s (bankOfFibre g) w = true →
    (p.outcome = some true → ∃ (f' : Fibre), exec (.parkedReplay g) s = .next { s with fibres := put s.fibres g f' } ∧ f'.parked = none ∧
      (p.fetch = false → p.lane = true → f'.lReplay = some p.mask ∧ f'.sReplay = f.sReplay ∧ f'.replayOf = some (p.level, p.addr)) ∧
      (p.fetch = false → p.lane = false → f'.sReplay = some p.mask ∧ f'.lReplay = f.lReplay ∧ f'.replayOf = some (p.level, p.addr)) ∧
      (p.fetch = true → f'.fetchOf = some (p.lane, p.level, p.addr)) ∧
      { f' with parked := f.parked, lReplay := f.lReplay, sReplay := f.sReplay, replayOf := f.replayOf, fetchOf := f.fetchOf } = f) ∧
    (p.outcome = some false → exec (.parkedReplay g) s = .next (takeTrapOf { s with fibres := put s.fibres g { f with parked := none } } g p.word p.lane
      { cause := .memTranslate, addr := p.first, mask := p.mask })))) ∧
  ∀ (s : State) die v, (∃ (d' : Die), exec (.prqbaseWrite die v) s = .next { s with dies := put s.dies die d' } ∧ d'.prqBase.toNat = v.toNat / 2 ^ 14 * 2 ^ 14 ∧
      { d' with prqBase := (dieState s die).prqBase } = dieState s die) ∧
    ∃ (d' : Die), exec (.prqheadWrite die v) s = .next { s with dies := put s.dies die d' } ∧ d'.prqHead = v.toNat % 512 ∧
      { d' with prqHead := (dieState s die).prqHead } = dieState s die

/-- R206, R241, R243 to R245: what a piece of a copy command places, or sends to its landing word, for each OPC, every source and destination and every conversion; what an
arrival does at its landing word; and the completion of a command, with its completion word.
Where the rules leave a point open it follows the model's own choices (assumptions 7, 44, 58, 59, 128 and 129). -/
def Obligations.CopyCommands : Prop :=
  (∀ (s : State) id e h w k env key, lookup s.engines id = some e → e.op = .copy h w k → e.ready = false → e.asked = none → e.env s = some env → NoErrors s →
    copyOk h w = true →
    let moved (n : Nat) (fl : Fl) : Engine :=
      { e with op := .copy h w (k + 1), aflags := e.aflags ||| fl, placed := e.placed + (if copyLW h then 0 else n), ready := decide (copyPieces h w ≤ k + 1) }
    let Moves (i : Instr) (n : Nat) (fl : Fl) (parts : List (List Spot × List Byte)) : Prop :=
      (copyLW h = false → ∃ (t : State), exec i s = .next t ∧ CopyMoved s t id (moved n fl) (parts.flatMap (fun x => x.1.zip x.2)) key) ∧
      ∀ land, copyLW h = true → copyLanding s e env h w = .ok (some land) →
        ∃ (t : State), exec i s = .next t ∧ CopyWaits s t id e (moved n fl) k land parts
    let Reads (c off n : Nat) (data : List Byte) : Prop :=
      ∃ l, (∀ T, Refilled s env T → (copyReach { s with tlb := T } e env (copySS h) (copyWord w c) off n .read).2 = .ok l) ∧ Seen s l data
    let Writes (c off n : Nat) (dst : List Spot) : Prop :=
      (∀ T, Refilled s env T → (copyReach { s with tlb := T } e env (copyDS h) (copyWord w c) off n .write).2 = .ok dst) ∧ Storable s dst key
    let n := min 512 (copyBytes h w - 512 * k)
    (∀ data dst, copyOpc h = 0 → 512 * k < copyBytes h w → Reads 2 (512 * k) n data → Writes 1 (512 * k) n dst → Moves (.copy id) n 0 [(dst, data)]) ∧
    (∀ (x : Nat → Nat) (data : Nat → List Byte) idx dst, copyOpc h = 1 → 512 * k < copyBytes h w → Reads 4 (4 * (512 / copySize h * k)) (4 * (n / copySize h)) idx →
      (∀ i < n / copySize h, x i = leNat ((idx.drop (4 * i)).take 4) ∧ Reads 2 (x i * copySize h) (copySize h) (data i)) → Writes 1 (512 * k) n dst →
      Moves (.gather id) n 0 [(dst, (List.range (n / copySize h)).flatMap data)]) ∧
    (∀ idx data dst, copyOpc h = 2 → k < copyCount w → Reads 4 (4 * k) 4 idx → Reads 2 (k * copySize h) (copySize h) data →
      Writes 1 (leNat idx * copySize h) (copySize h) dst → Moves (.scatter id) (copySize h) 0 [(dst, data)]) ∧
    (∀ dst, copyOpc h = 3 → 512 * k < copyBytes h w → Writes 1 (512 * k) n dst →
      Moves (.fill id) n 0 [(dst, (List.range n).map (fun i => BitVec.ofNat 8 ((copyWord w 2).toNat / 256 ^ (i % copySize h))))]) ∧
    ∀ src dst data sc scales i0 i1 ws wd b0 b1 blocks (x : Nat → Nat), copyOpc h = 4 → 512 * k < copyBytes h w → ws = packedWidth (copySrc h) false →
      wd = packedWidth (copyDst h) false → b0 = 4096 * k → b1 = min (b0 + 4096) (copyCount w * wd) → i0 = b0 / wd / 32 * 32 →
      i1 = min (copyCount w) ((b1 + 32 * wd - 1) / (32 * wd) * 32) → Reads 2 (i0 * ws / 8) ((i1 - i0) * ws / 8) src →
      (∀ i, i0 ≤ i → i < i1 → x i = leNat src / 2 ^ (ws * (i - i0)) % 2 ^ ws) → Writes 1 (512 * k) n dst → data.length = n →
      (∀ (j b : Nat) (y : Byte), b < 8 → data[j]? = some y →
        y.getLsbD b = (convertedElement h x i0 ((b0 + 8 * j + b) / wd)).1.testBit ((b0 + 8 * j + b) % wd)) →
      blocks = (List.range (if copyBSC h then copyCount w / copyBlock h else 0)).filter (fun q => decide (b0 ≤ q * copyBlock h * wd) && decide (q * copyBlock h * wd < b1)) →
      (blocks ≠ [] → Writes 4 (2 * blocks.headD 0) (2 * blocks.length) sc ∧ (dst ++ sc |>.map (·.place)).Nodup) →
      scales = blocks.flatMap (fun q => match fmtOf (copyDst h) with
        | some f => leBytes 2 (chooseScale ((List.range (copyBlock h)).map (fun j => x (q * copyBlock h + j))) f).1
        | none => []) →
      ∃ fl, (fl : Fl) = (List.range (i1 - i0)).foldl (fun y i => y ||| (convertedElement h x i0 (i0 + i)).2) 0#6 ∧
        Moves (.convert id) (n + scales.length) fl ((dst, data) :: if blocks = [] then [] else [(sc, scales)])) ∧
  (∀ (s : State) id e a rest h w k W bytes, lookup s.engines id = some e → e.op = .copy h w k → e.arrivals = a :: rest → NoErrors s →
    Sound s (wordSpots a.place a.key) bytes → W = readWord s a.place a.key → W.ok = true → W.moff = 0#32 → ownerKilled s a.place = false → a.place % 16 = 0 →
    (W.gen.toNat = h.toNat % 2 ^ 16 → W.count.toNat + a.stores.length < 2 ^ 32 → W.armed = false ∨ W.count.toNat + a.stores.length < W.target.toNat →
      (a.stores.map (·.1.place)).Nodup → (∀ x ∈ a.stores, ∀ y ∈ a.stores, x.1.page.key = y.1.page.key) →
      (∀ x ∈ a.stores, ∀ p, x.1.place = some p → p / 64 ≠ a.place / 64) →
      ∃ (t : State), exec (.lwArrival id a.k) s = .next t ∧ lookup t.engines id = some { e with arrivals := rest, placed := e.placed + a.stores.length } ∧
        (∀ x ∈ a.stores, ∀ p, x.1.place = some p → p ∉ e.lost → byteAt t p = x.2) ∧
        readWord t a.place a.key = { W with count := BitVec.ofNat 32 (W.count.toNat + a.stores.length) }) ∧
    (W.gen.toNat ≠ h.toNat % 2 ^ 16 → ∃ (t : State), exec (.lwArrival id a.k) s = .next t ∧ (∀ p, byteAt t p = byteAt s p) ∧
      lookup t.engines id = some { e with arrivals := rest, status := if e.status = 0 then 7 else e.status })) ∧
  ∀ (s : State) id e h w k, lookup s.engines id = some e → e.op = .copy h w k →
    let word (status : Nat) : Word := BitVec.ofNat 64 (h.toNat / 2 ^ 16 % 2 ^ 16 * 2 ^ 48 + status * 2 ^ 40 + min e.placed (2 ^ 32 - 1))
    (4 < copyOpc h → ∃ (u : State), Finished s u id e e.aflags ∧
      exec (.copyInvalidOpc id) s = .next (onOwner u e.serial e.fibre (fun f => { f with q1 := f.q1 ++ [word 1] }))) ∧
    (e.ready = true → e.arrivals = [] → ∃ (u : State), Finished s u id e e.aflags ∧ exec (.copyCommandComplete id) s = .next
      (if e.status = 0 ∧ h.getLsbD 57 = false then u else onOwner u e.serial e.fibre (fun f => { f with q1 := f.q1 ++ [word e.status] })))

/-- R41, R200, R219, R254, R255, R321, R326, R329 to R332, R336 to R338, R342: an admission takes of each descriptor field that has changed the old value or the new one, and admission starts every member of the deck at the head of a cluster's queues; grace that ends stops a
crew for a save in full; a save writes the fibre records, the dead masks and, in full, the stores, and the crew then drains; a deck whose members have all drained gives up its cores,
and is queued again to resume, for its next phase or to run again, or ends with a status entry.
Where the rules leave a point open it follows the model's own choices (assumptions 84 to 89, 116, 117, 124). -/
def Obligations.SchedulerEvents : Prop :=
  (∀ (s : State) n c x d, x = readFresh s n c → d = (readDescriptor s c.descriptor).ctx →
    (x.own.gen = c.gen ∨ x.own.gen = d.gen) ∧ (x.own.tenant = c.tenant ∨ x.own.tenant = d.tenant) ∧ (x.own.priv = c.priv ∨ x.own.priv = d.priv) ∧
      (x.own.prot = c.prot ∨ x.own.prot = d.prot) ∧ (x.own.root = c.root ∨ x.own.root = d.root) ∧ (x.areas = c.areas ∨ x.areas = d.areas) ∧
      (x.own.stackTop = c.stackTop ∨ x.own.stackTop = d.stackTop) ∧ (x.own.stackBytes = c.stackBytes ∨ x.own.stackBytes = d.stackBytes) ∧
      (x.trapbase = trapbaseOf c.trapbase ∨ x.trapbase = trapbaseOf d.trapbase) ∧ (d.admitted = c.admitted → x.own = c.admitted)) ∧
  (∀ (s : State) cl q c x env l b a0 cores (F : Nat → List Nat), cl < 128 → isReady s = true → s.health.stop = false → headRecord s cl = some q → q.record.kind = 0 →
    lookup s.contexts q.ctx = some c → x = readFresh s q.ctx c → env = x.env s q.ctx c → (∀ w ∈ s.crews, w.2.deck ≠ s.nextSerial) →
    q.record.w0.toNat % 64 = 0 → Holds s env q.record.w0 576 .read l → blockOk l = true → b = blockOfBytes l → freeRun c x.areas q.record.width = some a0 →
    cores = (idleCores s cl).take q.record.width → cores.length = q.record.width →
    x.own.root % 4096 = 0 → inDevice x.own.root = true →
    (∀ T, Refilled s env T → ∀ k < q.record.width, areaFrames { s with tlb := T } x.own env (a0 + k) = some (F k)) →
    ∃ (t : State), exec (.deckAdmission cl) s = .next t ∧ t.queue = s.queue.filter (fun y => y.addr != q.addr) ∧ (∀ p, inStore p = false → byteAt t p = byteAt s p) ∧
      (∃ d, lookup t.decks s.nextSerial = some d ∧ d.members = cores.map (activeBank s) ∧ d.width = q.record.width ∧ d.ctx = q.ctx ∧
        ∀ y ∈ d.barriers, y = { expected := q.record.width * fibreCount b, arrived := 0, gen := 0#16 }) ∧
      (lookup t.contexts q.ctx).map (fun c => c.inUse) =
        some (c.inUse.filter (fun k => !decide (k ∈ (List.range q.record.width).map (a0 + ·))) ++ (List.range q.record.width).map (a0 + ·)) ∧
      ∀ k g bk, cores[k]? = some g → bk = activeBank s g →
        (coreOf t g).serial = (coreOf s g).serial + 1#16 ∧ (bankOf t bk).state = .running ∧ (∀ o < 2 ^ 22, byteAt t (bankPlace bk o) = 0#8) ∧
        (∃ w, lookup t.crews bk = some w ∧ w.ctx = q.ctx ∧ w.own = x.own ∧ w.record = q.record ∧ w.block = b ∧ w.deck = s.nextSerial ∧ w.index = k ∧ w.area = a0 + k ∧
          w.frames = F k ∧ w.state = .running ∧ w.ending = none ∧ w.gen = (coreOf s g).serial + 1#16 ∧ w.g = false ∧ w.trapbase = x.trapbase ∧ w.heapBase = x.heapBase ∧ w.heapLimit = x.heapLimit ∧ w.heapOffset = x.heapOffset ∧
          w.bi = (if q.carve.1 = 0#32 then b.bi else q.carve.1) ∧ w.bm = (if q.carve.2 = 0#32 then b.bm else q.carve.2)) ∧
        ∀ j < b.berths, (slotOf t (slotKey bk j)).dead = BitVec.allOnes 256 ∧ ∀ i role index r, (berthFibres b)[i]? = some (role, index, r) →
          ∃ f, lookup t.fibres (fibreKey bk j i) = some f ∧ f.spc = codeAddress r.entry ∧ some f.window = roleWindow r.window index ∧ f.lcbase = laneBaseOf r.laneBase ∧
            f.em = BitVec.allOnes 32 ∧ (∀ p, f.readP p = if p = 0#3 then BitVec.allOnes 32 else 0#32) ∧ f.aflags = 0#64 ∧ f.clauses = [] ∧
            (∀ z, f.readS z = if z = 1#6 then q.record.w1 else if z = 2#6 then BitVec.ofNat 64 index
              else if z = 62#6 ∨ z = 63#6 then x.own.stackTop - BitVec.ofNat 64 ((a0 + k) * 64 + 4 * j + i) * x.own.stackBytes else 0#64)) ∧
  (∀ (s : State) g w, lookup s.crews (activeBank s g) = some w → w.state = .running →
    (w.g = true → w.grace = 0#9 ∨ 16384 ≤ s.clock - w.graceClock → crewRuns s (activeBank s g) w = true →
      ∃ (t : State), exec (.graceExpiry g) s = .next t ∧ lookup t.crews (activeBank s g) = some { w with state := .saving true } ∧ (∀ p, byteAt t p = byteAt s p) ∧
        ∀ k f, lookup s.fibres k = some f → f.fence = none → ∃ (f' : Fibre), lookup t.fibres k = some f' ∧ f'.spc = f.spc ∧ (∀ r, f'.readS r = f.readS r) ∧
          (bankOfFibre k ≠ activeBank s g → f' = f) ∧ (bankOfFibre k = activeBank s g → f'.sWait = f.issuedWait)) ∧
    (w.g = false → exec (.graceExpiry g) s = .next s)) ∧
  (∀ (s : State) g w bk full, bk = activeBank s g → lookup s.crews bk = some w → w.state = .saving full → saveReady s bk w = true → NoErrors s → s.ciphered = [] →
    w.own.prot = false → bk ∈ deckMembers s w → AreaApart w → w.block.berths ≤ 16 → w.block.footprint ≤ 192 → (bankOf s bk).armed = [] →
    (∀ k f, lookup s.fibres k = some f → bankOfFibre k = bk → f.fence = none) →
    ∃ (t : State), exec (.saveComplete g) s = .next t ∧ lookup t.crews bk = some { w with state := .draining, ending := some .resume, saved := true, yields := w.yields + 1#32 } ∧
      (∀ k f r, lookup s.fibres k = some f → bankOfFibre k = bk → f.ended = false → roleOf w f = some r → ∀ stack, stack = stackOf w k →
        (∀ x : BitVec 6, numberAt t (areaPlace w (recordOffset k + 8 * x.toNat)) 8 =
          (if full then f.readS x else carriedReg r f w.record.w1 stack x).toNat) ∧
        numberAt t (areaPlace w (recordOffset k + 0x220)) 4 = (if full then f.em.toNat else 2 ^ 32 - 1) ∧
        numberAt t (areaPlace w (recordOffset k + 0x230)) 8 = (if full then (recordSpc f).toNat else f.spc.toNat)) ∧
      (full = true → ∀ j < w.block.berths, numberAt t (areaPlace w (0x1000 + 0xA000 * j + 0x1000)) 32 = (slotOf s (slotKey bk j)).dead.toNat) ∧
      (full = true → ∀ x ∈ saveBlocks w.block, ∀ i < 0x1000, byteAt t (areaPlace w (x.2 + i)) = byteAt s (bankPlace bk (x.1 + i)))) ∧
  ∀ (s : State) id d m w c e n, lookup s.decks id = some d → d.members.head? = some m → d.members.Nodup → lookup s.crews m = some w → n = w.ctx → lookup s.contexts n = some c →
    NoErrors s → CleanSlots s → (∀ k ∈ d.members, ∃ w, lookup s.crews k = some w ∧ w.state = .draining ∧ w.ending = some e ∧ drainDone s k w = true) →
    ∃ (t : State), exec (.drainComplete id) s = .next t ∧ lookup t.decks id = none ∧
      (∀ k ∈ d.members, lookup t.crews k = none ∧ (bankOf t k).state = .empty ∧ ∀ f ∈ t.fibres, bankOfFibre f.1 ≠ k) ∧
      (∀ (r : Record) (k : Nat), c.crossingReady = true → placeOn s (diesOf s c) r = some k →
        ((e = .resume ∧ (∀ k ∈ d.members, ∀ w, lookup s.crews k = some w → w.saved = true) ∧ r = nextRecord w 2 w.record.w0 w.record.w1) ∨
          (∃ x y, e = .phase x y ∧ r = nextRecord w 1 x y) ∨ (e = .killed ∧ w.block.idempotent = true ∧ w.relaunches < 3 ∧ r = w.record)) →
        ∃ q, t.queue = s.queue ++ [q] ∧ q.record = r ∧ q.ctx = n ∧ q.cluster = k ∧ q.held = false ∧ q.joinLink = w.joinLink) ∧
      ∀ status l, (e = .faulted ∧ status = 1 ∨ e = .lost ∧ status = 5 ∨ e = .killed ∧ (w.block.idempotent = false ∨ 3 ≤ w.relaunches) ∧ status = 2) →
        w.joinLink = none → s.ciphered = [] → inDevice w.own.root = true → w.own.root % 4096 = 0 →
        contextPlaces s (envOfAdmitted s n w.own) w.own.statusArea 4096 .write = some l → (l.map (·.1)).Nodup →
        (∀ x ∈ l, x.2 = none ∧ inDevice x.1 = true) → StatusPosted s t l w.record status (m % 1024) ∧ (1 + c.partition) ∈ t.msix

/-- R215, R217, R220, R295, R348: the scrubbers correct single errors and poison the rest; a flip exchanges a core's banks, and a halted crew that becomes active runs; the bank transfer
engine writes a halted crew to its context image and brings it back with its registers and stores.
Where the rules leave a point open it follows the model's own choices (assumptions 72 and 88). -/
def Obligations.BanksAndScrubbers : Prop :=
  (∀ (s : State) g, g < 1024 → (coreOf s g).errors = [] → (∀ bk ∈ [g, 1024 + g], (∀ x ∈ (bankOf s bk).latent, x.1 < 2 ^ 19) ∧
      ∀ j < 16, ∀ x ∈ (slotOf s (slotKey bk j)).latent, x.1 < 4096) →
    ∃ (t : State), exec (.coreScrub g) s = .next t ∧ (∀ p, byteAt t p = byteAt s p) ∧ ∀ bk ∈ [g, 1024 + g], (bankOf t bk).latent = [] ∧
      (∀ u, u ∈ (bankOf t bk).poison ↔ u ∈ (bankOf s bk).poison ∨ ∃ n, lookup (bankOf s bk).latent u = some n ∧ 1 < n) ∧
      ∀ j < 16, (slotOf t (slotKey bk j)).latent = [] ∧
        ∀ u, u ∈ (slotOf t (slotKey bk j)).poison ↔ u ∈ (slotOf s (slotKey bk j)).poison ∨ ∃ n, lookup (slotOf s (slotKey bk j)).latent u = some n ∧ 1 < n) ∧
  (∀ (s : State) sector, inDevice (sector * 64) = true →
    (lookup s.memLatent sector = none → exec (.memoryPatrolScrub sector) s = .next s) ∧
    ∀ bits, lookup s.memLatent sector = some bits → ∃ (t : State), exec (.memoryPatrolScrub sector) s = .next t ∧ t.memLatent = del s.memLatent sector ∧
      (∀ q, q ∈ t.poison ↔ q ∈ s.poison ∨ q = sector ∧ oneSymbol bits = false) ∧
      (oneSymbol bits = false → t.msix = 17 :: s.msix ∧ t.reports = .memory (sector * 64) :: s.reports) ∧ (oneSymbol bits = true → t.msix = s.msix ∧ t.reports = s.reports) ∧
      { t with memLatent := s.memLatent, poison := s.poison, counters := s.counters, msix := s.msix, reports := s.reports } = s) ∧
  (∀ (s : State) g, (coreOf s g).retired = true → exec (.bankFlip g) s = .next s) ∧
  (∀ (s : State) g, g < 1024 → (coreOf s g).flipWanted = true → (coreOf s g).retired = false → (coreOf s g).staging = false → (bankOf s (activeBank s g)).state ≠ .running → (coreOf s g).side < 2 →
    (∀ x ∈ s.pauses, x.2.resuming = false) → ∃ (t : State), exec (.bankFlip g) s = .next t ∧ coreOf t g = { coreOf s g with side := 1 - (coreOf s g).side, flipWanted := false } ∧
      (∀ k, k ≠ g → coreOf t k = coreOf s k) ∧ (∀ p, byteAt t p = byteAt s p) ∧ t.crews = s.crews ∧ t.fibres = s.fibres ∧
      (∀ k, k ≠ activeBank t g → bankOf t k = bankOf s k) ∧
      (∀ (run : Prop) k, k = activeBank t g →
        (run ↔ (bankOf s k).state = .halted ∧ s.health.stop = false ∧ ∃ w, lookup s.crews k = some w ∧ partitionActive s w.ctx = true ∧ pausedContext s w.ctx = false) →
        (run → bankOf t k = { bankOf s k with state := .running }) ∧ (¬ run → bankOf t k = bankOf s k))) ∧
  ∀ (s : State) g bk, bk = (1 - (coreOf s g).side) * 1024 + g →
    (∀ w, lookup s.crews bk = some w → (bankOf s bk).state = .halted → saveReady s bk w = true → (∀ e ∈ s.engines, e.2.bank ≠ bk) →
      ∃ (t : State) (v : _), exec (.bankTransfer g) s = .next t ∧ lookup t.crews bk = none ∧ (bankOf t bk).state = .empty ∧ (coreOf t g).staging = true ∧
        lookup t.saved (areaId w) = some v ∧ v.full = true ∧ v.home = some bk ∧
        (NoErrors s → CleanSlots s → v.crew = { w with written := true }) ∧ ∀ f ∈ t.fibres, bankOfFibre f.1 ≠ bk) ∧
    ∀ k v, lookup s.crews bk = none → s.saved.find? (fun x => x.2.home == some bk) = some (k, v) → v.crew.own.prot = false →
      ∃ (t : State), exec (.bankTransfer g) s = .next t ∧ lookup t.saved (areaId v.crew) = none ∧ (coreOf t g).staging = false ∧ (bankOf t bk).state = .halted ∧
        (bankOf t bk).armed = v.armed ∧
        (NoErrors s → CleanSlots s → s.ciphered = [] → AreaApart v.crew → v.crew.written = true → v.crew.block.footprint ≤ 192 → v.crew.block.berths ≤ 16 →
          (∀ y ∈ s.slots, ∀ l ∈ y.2.lines, l.1 < 64) → lookup t.crews bk = some v.crew ∧
          (∀ j < v.crew.block.berths, (slotOf t (slotKey bk j)).dead.toNat = numberAt s (areaPlace v.crew (0x1000 + 0xA000 * j + 0x1000)) 32) ∧
          ((v.fibres.map (·.1)).Nodup → ∀ y ∈ v.fibres, bankOfFibre y.1 = bk → ∀ o, o = recordOffset y.1 → ∃ (f : Fibre), lookup t.fibres y.1 = some f ∧
            f.role = y.2.role ∧ f.index = y.2.index ∧ f.ended = y.2.ended ∧ f.frozen = y.2.frozen ∧ f.arrived = y.2.arrived ∧
            (∀ x : BitVec 6, x ≠ 0#6 → (f.readS x).toNat = numberAt s (areaPlace v.crew (o + 8 * x.toNat)) 8) ∧
            (∀ x : BitVec 3, x ≠ 0#3 → (f.readP x).toNat = numberAt s (areaPlace v.crew (o + 0x200 + 4 * x.toNat)) 4) ∧
            f.em.toNat = numberAt s (areaPlace v.crew (o + 0x220)) 4 ∧ f.window.toNat = numberAt s (areaPlace v.crew (o + 0x260)) 8 ∧
            (∀ k : Fin 12, (f.flags[k]).toNat = numberAt s (areaPlace v.crew (o + 0x224)) 6 / 16 ^ k.val % 16) ∧
            f.aflags.toNat = numberAt s (areaPlace v.crew (o + 0x268)) 8 % 64) ∧
          ((∀ x ∈ saveBlocks v.crew.block, ∀ i < 0x1000, openByte s (areaPlace v.crew (x.2 + i)) = false) →
            ∀ x ∈ saveBlocks v.crew.block, ∀ i < 0x1000, byteAt t (bankPlace bk (x.1 + i)) = byteAt s (areaPlace v.crew (x.2 + i))))

/-- R304, R319, R354 to R358, R362, R371: a record that passes is queued for its sailing, or held until its crossing is ready, and one that fails is counted with its cause;
SUBMITSTAT is read and its count cleared; a registration that passes makes its context live, a release removes it; the host reads and writes memory; what a write to the other
registers of the BAR does, and what they read.
Where the rules leave a point open it follows the model's own choices (assumptions 75 to 78). -/
def Obligations.HostPorts : Prop :=
  (∀ (s : State) p data n c r, data.length = 32 → r = recordOf data → isReady s = true → r.kind = 0 → wfld r.w2 43 20 = 0 → wfld r.w3 54 2 = 0 → wfld r.w3 59 5 = 0 →
    r.w0.toNat % 64 = 0 → wfld r.w3 56 3 = p → (lookup s.partitions p).isSome = true →
    s.contexts.find? (fun c => c.2.partition == p && c.2.sailing == wfld r.w3 48 6) = some (n, c) → lookup s.contexts n = some c →
    (c.crossingReady = false ∨ (placeOn s (diesOf s c) r).isSome = true) →
    ∃ (t : State) (q : _), exec (.submitRecord p 0 data) s = .next t ∧ t.queue = s.queue ++ [q] ∧ q.record = r ∧ q.ctx = n ∧ q.time = s.clock ∧ q.joinLink = none ∧
      q.held = !c.crossingReady ∧ (c.crossingReady = true → some q.cluster = placeOn s (diesOf s c) r) ∧
      lookup t.contexts n = some { c with started := true } ∧ { t with queue := s.queue, contexts := s.contexts, counters := s.counters } = s) ∧
  (∀ (s : State) p offset data cause, p < 8 → (cause = if offset ≠ 0 ∨ data.length ≠ 32 then 6 else recordCause s p (recordOf data)) → cause ≠ 0 →
    ∃ (t : State) (x : _) (y : _), exec (.submitRecord p offset data) s = .next t ∧ s.submissions[p]? = some x ∧ t.submissions[p]? = some y ∧ y.rcause = BitVec.ofNat 8 cause ∧
      y.refused.toNat = min (x.refused.toNat + 1) 65535 ∧ (∀ k, k ≠ p → t.submissions[k]? = s.submissions[k]?) ∧
      { t with submissions := s.submissions, counters := s.counters } = s) ∧
  (∀ (s : State) p x, s.submissions[p]? = some x → ∃ (t : State), exec (.submitstatRead p) s = .next t ∧ t.submissions[p]? = some { x with refused := 0#16 } ∧
    leNat t.hostRead = x.refused.toNat * 2 ^ 32 + x.rcause.toNat * 2 ^ 24 + x.dcause.toNat * 2 ^ 16 + (if x.dbusy then 2 ^ 15 else 0) ∧
    (∀ k, k ≠ p → t.submissions[k]? = s.submissions[k]?) ∧ { t with submissions := s.submissions, hostRead := s.hostRead } = s) ∧
  (∀ (s : State) p x v d, s.submissions[p]? = some x → x.dbusy = false → d = readDescriptor s v.toNat →
    (registerCause s p v.toNat d = 0 → exec (.registerContext p v) s = .next { s with
      contexts := put s.contexts d.number d.ctx, sealCounters := s.sealCounters.filter (fun x => x.1 / 4096 != d.number)
      submissions := s.submissions.set! p { x with dbusy := true, outcome := 0#8 } }) ∧
    (∀ cause, registerCause s p v.toNat d = cause → cause ≠ 0 → exec (.registerContext p v) s = .next { s with
      submissions := s.submissions.set! p { x with dbusy := true, outcome := BitVec.ofNat 8 cause } }) ∧
    (∀ c, isReady s = true → lookup s.contexts v.toNat = some c → c.partition = p →
      (busyContext { s with queue := s.queue.filter (fun q => !q.held) } v.toNat = false → ∃ (t : State), exec (.releaseContext p v) s = .next t ∧
        t.submissions[p]? = some { x with dbusy := true, outcome := 0#8 } ∧ lookup t.contexts v.toNat = none ∧ ∀ q, q ∈ t.queue ↔ q ∈ s.queue ∧ q.ctx ≠ v.toNat) ∧
      (busyContext { s with queue := s.queue.filter (fun q => !q.held) } v.toNat = true → exec (.releaseContext p v) s = .next { s with
        submissions := s.submissions.set! p { x with dbusy := true, outcome := 7#8 } }))) ∧
  (∀ (s : State) p x, s.submissions[p]? = some x → x.dbusy = true →
    exec (.registrationComplete p) s = .next { s with submissions := s.submissions.set! p { x with dbusy := false, dcause := x.outcome } }) ∧
  (∀ (s : State) (x : HostAccess) p n, p = (if x.device then x.addr - s.rangeBase else hostPlace x.addr) → n = (if x.write then x.data.length else x.len) → s.ciphered = [] →
    (x.device = true → s.rangeBase ≤ x.addr ∧ p + n ≤ 2 ^ 40 ∧ 5 ≤ s.boot.stage ∧ s.boot.harbour = false ∧ ∀ i < n, Clean s (p + i)) → (x.device = false → p + n ≤ 2 ^ 52) →
    (x.write = true → ∃ (t : State), exec (.hostCxlAccess x) s = .next t ∧ (∀ i b, x.data[i]? = some b → byteAt t (p + i) = b) ∧
      ∀ q, q < p ∨ p + n ≤ q → byteAt t q = byteAt s q) ∧
    (x.write = false → exec (.hostCxlAccess x) s = .next { s with hostRead := (List.range n).map (fun i => byteAt s (p + i)) })) ∧
  (∀ s : State, leNat (readBar s 0x102000 8).hostRead = s.mailbox.status.toNat * 2 ^ 16 + s.mailbox.opc.toNat * 2 ^ 8 + (if s.mailbox.busy then 2 else 0) ∧
    leNat (readBar s 0x400000 8).hostRead = (bootStat s.boot).toNat ∧
    (∀ p < 8, (∀ o, o + 8 ≤ 0x20 → ∀ b ∈ (readBar s (0x1000 * p + o) 8).hostRead, b = 0#8) ∧
      (∀ i < 64, Nat.testBit (leNat (readBar s (0x1000 * p + 0x50) 8).hostRead) i = s.contexts.any (fun c => c.2.partition == p && c.2.sailing == i)) ∧
      ∀ x, s.submissions[p]? = some x → (readBar s (0x1000 * p + 0x20) 8).submissions[p]? = some { x with refused := 0#16 } ∧
        leNat (readBar s (0x1000 * p + 0x20) 8).hostRead = submitStat x) ∧
    (∀ d < 8, leNat (readBar s (0x200000 + 0x1000 * d) 8).hostRead = (dieState s d).prqBase.toNat ∧
      ((dieState s d).prqTail < 2 ^ 64 → leNat (readBar s (0x200000 + 0x1000 * d + 8) 8).hostRead = (dieState s d).prqTail)) ∧
    (∀ i c, s.counters[i]? = some c → leNat (readBar s (0x300000 + 16 * i) 8).hostRead = c.select.toNat ∧
      leNat (readBar s (0x300000 + 16 * i + 8) 8).hostRead = c.value.toNat) ∧
    (∀ i < 0x1000, (readBar s (0x101000 + i) 1).hostRead = [byteOf s.mailbox.response i]) ∧ ∀ o n, 0x8000 ≤ o → { readBar s o n with hostRead := s.hostRead } = s) ∧
  ∀ (s : State) offset data, data ≠ [] →
    (0x100000 ≤ offset → offset + data.length ≤ 0x101000 → ∃ R, exec (.barRegisterWrite offset data) s = .next { s with mailbox := { s.mailbox with request := R } } ∧
      ∀ i, byteOf R i = if offset ≤ 0x100000 + i ∧ 0x100000 + i < offset + data.length then data.getD (0x100000 + i - offset) 0#8 else byteOf s.mailbox.request i) ∧
    (offset = 0x102000 → data.length = 8 → ∀ opc go, data[1]? = some opc → data[0]? = some go →
      (go.getLsbD 0 = false → exec (.barRegisterWrite offset data) s = .next { s with mailbox := { s.mailbox with opc := opc } }) ∧
      (go.getLsbD 0 = true → s.mailbox.busy = true →
        exec (.barRegisterWrite offset data) s = .next { s with mailbox := { s.mailbox with opc := opc, status := 4#8 } }) ∧
      (go.getLsbD 0 = true → s.mailbox.busy = false → ∃ C, exec (.barRegisterWrite offset data) s = .next { s with
        mailbox := { s.mailbox with opc := opc, busy := true, running := opc, switching := false, finished := none }, counters := C })) ∧
    (offset < 0x8000 → offset % 0x1000 < 0x20 → exec (.barRegisterWrite offset data) s = exec (.submitRecord (offset / 0x1000) (offset % 0x1000) data) s) ∧
    ((0x101000 ≤ offset ∧ offset < 0x102000) → exec (.barRegisterWrite offset data) s = .next s)

/-- R362 to R366, R368, R372 to R375, R379: what each mailbox command does and answers, and how a command ends.
Where the rules leave a point open it follows the model's own choices (assumptions 72, 79 to 83, 93 and 95). -/
def Obligations.MailboxCommands : Prop :=
  (∀ (s : State) h, h = s.health → Commanded s 1 true [] → ∃ (t : State), exec .getStatus s = .next t ∧ { t with mailbox := s.mailbox } = s ∧
    Responds s t 0 ([(0, 8, (bootStat s.boot).toNat), (0x38, 4, h.power), (0x3C, 4, h.clockLimit), (0xE0, 1, (if h.stop then 1 else 0) + (if s.boot.harbour then 2 else 0))] ++
      (List.range 8).flatMap (fun d => [(8 + 2 * d, 2, ((h.junction[d]?.getD 0) % 65536).toNat), (0x40 + 2 * d, 2, h.dieClock[d]?.getD 0)]) ++
      (List.range 16).map (fun k => (0x18 + 2 * k, 2, ((h.stack[k]?.getD 0) % 65536).toNat))) ∧
    (∀ g < 1024, (byteOf t.mailbox.response (0x50 + g / 8)).getLsbD (g % 8) = (coreOf s g).retired) ∧
    ∀ c < 128, (byteOf t.mailbox.response (0xD0 + c / 8)).getLsbD (c % 8) = (decide (c ∈ s.lost) || decide (c ∈ s.keptOutClusters))) ∧
  (∀ (s : State) image a n, Commanded s 2 true [(0, 8), (8, 4)] → a = req s 0 8 → n = req s 8 4 → a % 16 = 0 → a + n ≤ 2 ^ 52 - 2 ^ 45 →
    image = (List.range n).map (fun i => byteAt s (hostPlace (a + i))) → ∃ (t : State), exec .loadImage s = .next t ∧
    Responds s t (if imageReason image = 0 then 0 else 2) [(0, 1, imageReason image), (2, 2, imageVersion image)] ∧
    { t with mailbox := s.mailbox, boot := s.boot } = s ∧
    t.boot = (if imageReason image = 0 then { s.boot with image := image, fails := if s.boot.harbour then 0 else s.boot.fails } else s.boot)) ∧
  (∀ s : State, Commanded s 3 false [(0, 32)] → ∃ (t : State), exec .attest s = .next t ∧ { t with mailbox := s.mailbox } = s ∧
    Responds s t 0 ([(0, 8, 1), (0x68, 8, (bootStat s.boot).toNat)] ++ (List.range 8).map (fun p => (0x70 + 8 * p, 8, partitionWord s p))) ∧
    bytesOf t.mailbox.response 8 32 = bytesOf s.mailbox.request 0 32 ∧ bytesOf t.mailbox.response 0x28 32 = sha256 s.boot.running ∧
    bytesOf t.mailbox.response 0xB0 384 = identitySign (bytesOf t.mailbox.response 0 0xB0) s.tick) ∧
  (∀ s : State, Commanded s 4 false ((0, 1) :: (List.range (min 8 (req s 0 1))).map (fun p => (8 + 8 * p, 8))) →
    ∃ (t : State), exec .setPartitions s = .next t ∧ Answers s t (partitionsCause s) ∧ { t with mailbox := s.mailbox, partitions := s.partitions, keySerial := s.keySerial } = s ∧
      (partitionsCause s ≠ 0 → t.partitions = s.partitions) ∧
      (partitionsCause s = 0 → ∀ p < 8, (lookup t.partitions p).map (fun x => (x.dies, x.tenant.toNat, x.active)) =
        ((partitionEntries s)[p]?).map (fun e => (maskDies e.1, e.2.1, e.2.2)))) ∧
  (∀ (s : State) x p, Commanded s 5 false [(0, 1)] → p = req s 0 1 → lookup s.partitions p = some x → flipsWanted s = false → (∀ d ∈ x.dies, d < 8) →
    (x.active = true → ∃ (t : State), exec .switchPartition s = .next t ∧ Answers s t 2 ∧ { t with mailbox := s.mailbox } = s) ∧
    (∀ q, x.active = false → partnerOf s p = some q → q ≠ p → ∃ (t : State), exec .switchPartition s = .next t ∧ (lookup t.partitions p).map (·.active) = some true ∧
      (lookup t.partitions q).map (·.active) = some false ∧
      (∀ g ∈ dieCores x.dies, (coreOf s g).retired = false → x.dies.Nodup → (coreOf t g).flipWanted = true ∧
        (∀ w, lookup s.crews (activeBank s g) = some w → w.state = .running → (bankOf t (activeBank s g)).state = .halted)) ∧
      (flipsWanted t = false → t.mailbox.finished = some 0#8) ∧ (flipsWanted t = true → t.mailbox.finished = none ∧ t.mailbox.switching = true))) ∧
  (∀ (s : State) h, h = s.health → Commanded s 6 false [(0, 4), (4, 4), (8, 2)] →
    ∃ (t : State), exec .setLimits s = .next t ∧ ∀ (a b c : Nat), a = req s 0 4 → b = req s 4 4 → c = req s 8 2 →
      t.health = { h with
        powerLimit := if a = 0 then h.powerLimit else max 1600 (min 3200 a), clockLimit := if b = 0 then h.clockLimit else max 500 (min 1050 b)
        throttle := if c = 0 then h.throttle else max 85 (min 105 c), dieClock := t.health.dieClock } ∧
      (∀ d : Fin 8, t.health.dieClock[d] = min h.dieClock[d] t.health.clockLimit) ∧ { t with health := h, mailbox := s.mailbox } = s ∧
      Responds s t (if (a = 0 ∨ 1600 ≤ a ∧ a ≤ 3200) ∧ (b = 0 ∨ 500 ≤ b ∧ b ≤ 1050) ∧ (c = 0 ∨ 85 ≤ c ∧ c ≤ 105) then 0 else 2)
        [(0, 4, t.health.powerLimit), (4, 4, t.health.clockLimit), (8, 2, t.health.throttle)]) ∧
  (∀ s : State, req s 0 1 = 0 → Commanded s 7 false [(0, 1), (1, 1), (2, 2)] → ∃ (t : State), exec .keyTransport s = .next t ∧ Responds s t 0 [] ∧
    { t with mailbox := s.mailbox } = s ∧ bytesOf t.mailbox.response 0 384 = beBytes 384 (transportModulus s.boot.start) ∧
    bytesOf t.mailbox.response 384 384 = identitySign (beBytes 384 (transportModulus s.boot.start)) s.tick) ∧
  (∀ (s : State) k, k = req s 1 1 → Commanded s 7 false [(0, 1), (1, 1), (2, 2), (0x10, 384)] → req s 2 2 < 2 ^ 12 →
    (slotInUse s k = true → (req s 0 1 = 1 → ∃ (t : State), exec .keyLoad s = .next t ∧ Answers s t 1 ∧ { t with mailbox := s.mailbox } = s)) ∧
    (slotInUse s k = false → req s 0 1 = 1 → ∃ (t : State), exec .keyLoad s = .next t ∧ { t with mailbox := s.mailbox, keySlots := s.keySlots } = s ∧
      (∀ key, unwrapKey s.boot.start (reqBytes s 0x10 384) = some key → key.length = 32 ∧ Answers s t 0 ∧
        t.keySlots = put s.keySlots k { tenant := BitVec.ofNat 12 (req s 2 2), key := key }) ∧
      (unwrapKey s.boot.start (reqBytes s 0x10 384) = none → Answers s t 2 ∧ t.keySlots = s.keySlots)) ∧
    (reqOnly s [(0, 1), (1, 1), (2, 2)] = true → req s 0 1 = 2 → slotInUse s k = false →
      ∃ (t : State), exec .keyClear s = .next t ∧ Answers s t 0 ∧ lookup t.keySlots k = none ∧ { t with mailbox := s.mailbox, keySlots := s.keySlots } = s) ∧
    (reqOnly s [(0, 1), (1, 1), (2, 2)] = true → 2 < req s 0 1 → ∃ (t : State), exec .keyLoad s = .next t ∧ Answers s t 3 ∧ { t with mailbox := s.mailbox } = s)) ∧
  (∀ (s : State) u kind, u = req s 2 2 → kind = req s 0 1 → Commanded s 8 false [(0, 1), (1, 1), (2, 2)] →
    (kind = 1 → u < 1024 → (coreOf s u).keptOut = false →
      ((coreOf s u).retired = false → (req s 1 1 = 1 → ∃ (t : State), exec .unitReturn s = .next t ∧ Answers s t 2) ∧ (req s 1 1 = 2 → ∃ (t : State), exec .unitKeepOut s = .next t ∧ Answers s t 2)) ∧
      ((coreOf s u).retired = true →
        (req s 1 1 = 1 → ∃ (t : State), exec .unitReturn s = .next t ∧ Answers s t (if Config.unitTest s.tick (65536 + u) then 0 else 1) ∧
          (coreOf t u).retired = !Config.unitTest s.tick (65536 + u)) ∧
        (req s 1 1 = 2 → ∃ (t : State), exec .unitKeepOut s = .next t ∧ Answers s t 0 ∧ (coreOf t u).keptOut = true))) ∧
    (kind = 2 → u < 128 → u ∈ s.lost → u ∉ s.keptOutClusters →
      (req s 1 1 = 1 → ∃ (t : State), exec .unitReturn s = .next t ∧ Answers s t (if Config.unitTest s.tick (131072 + u) then 0 else 1) ∧
        (u ∈ t.lost ↔ Config.unitTest s.tick (131072 + u) = false)) ∧
      (req s 1 1 = 2 → ∃ (t : State), exec .unitKeepOut s = .next t ∧ Answers s t 0 ∧ u ∈ t.keptOutClusters))) ∧
  (∀ s : State, Commanded s 10 false [] → ∃ (t : State), exec .releaseStop s = .next t ∧ ∀ ok : Prop,
    (ok ↔ (∀ d : Fin 8, s.health.junction[d] < 16 * 95) ∧ ∀ k : Fin 16, s.health.stack[k] < 16 * 85) →
      (ok → t.health = { s.health with stop := false } ∧ t.mailbox.finished = some 0#8 ∧
        ∀ k w, lookup s.crews k = some w → (bankOf s k).state = .halted → activeBank s (k % 1024) = k → (coreOf s (k % 1024)).flipWanted = false →
          partitionActive s w.ctx = true → pausedContext s w.ctx = false → (bankOf t k).state = .running) ∧
      (¬ ok → t.health = s.health ∧ t.mailbox.finished = some 2#8 ∧ t.banks = s.banks) ∧
      { t with mailbox := s.mailbox, health := s.health, banks := s.banks } = s) ∧
  ∀ s : State, s.mailbox.busy = true →
    (s.mailbox.finished = none → s.mailbox.running = 0#8 ∨ 10 < s.mailbox.running.toNat →
      ∃ (t : State), exec .mailboxUnknownCommand s = .next t ∧ Responds s t 1 [] ∧ { t with mailbox := s.mailbox } = s) ∧
    ∀ st, s.mailbox.finished = some st → ¬ (s.boot.harbour = true ∧ s.mailbox.running = 2#8 ∧ st = 0#8) →
      exec .mailboxComplete s = .next { s with mailbox := { s.mailbox with busy := false, finished := none, status := st }, msix := 0 :: s.msix }

/-- R381, R382, R408, R415, R416: FABRIC_CONFIG makes a context a member of a crossing and tells its coordinator, sets the tenants that a port lists, reports what a port has counted,
and begins and ends a gang pause.
Where the rules leave a point open it follows the model's own choices (assumptions 71 and 73). -/
def Obligations.FabricConfiguration : Prop :=
  ∀ s : State, (∀ id n axes c m (extents coord pause : List Nat), Commanded s 9 false [(0, 1), (4, 4), (8, 4), (0x0C, 1), (0x10, 5), (0x18, 5), (0x20, 5)] → req s 0 1 = 1 →
      id = req s 4 4 → n = req s 8 4 → axes = req s 0x0C 1 → extents = (bytesOf s.mailbox.request 0x10 5).map (fun b => b.toNat + 1) →
      coord = (bytesOf s.mailbox.request 0x18 5).map BitVec.toNat → pause = (bytesOf s.mailbox.request 0x20 5).map BitVec.toNat →
      m = { crossing := id, axes := axes, extents := extents, coord := coord, pauseCoord := pause, ready := false } →
      (joinCause s id n axes extents coord pause = 0 → lookup s.contexts n = some c →
        (coord ≠ pause → ∃ (t : State), exec .fabricConfigJoin s = .next t ∧ Answers s t 0 ∧ lookup t.contexts n = some { c with member := some m } ∧
          t.wire = s.wire ++ [.joined { crossing := id, axes := axes, extents := extents, coord := coord, identity := Config.identity }] ∧
          { t with mailbox := s.mailbox, contexts := s.contexts, wire := s.wire, ports := s.ports } = s) ∧
        (coord = pause → (∀ x ∈ s.heldJoined, x.2.crossing ≠ id) → lookup s.coordinators id = none → ∃ (t : State), exec .fabricConfigJoin s = .next t ∧ Answers s t 0 ∧
          lookup t.contexts n = some { c with member := some m } ∧ lookup t.coordinators id = some { recorded := [(coord, Config.identity)] } ∧
          t.wire = (if extents.foldl (· * ·) 1 = 1 then s.wire ++ [.ready id] else s.wire))) ∧
      ∀ cause, joinCause s id n axes extents coord pause = cause → cause ≠ 0 →
        ∃ (t : State), exec .fabricConfigJoin s = .next t ∧ Answers s t cause ∧ { t with mailbox := s.mailbox } = s) ∧
    (∀ port count p, Commanded s 9 false [(0, 1), (1, 1), (2, 1), (4, 32)] → req s 0 1 = 2 → port = req s 1 1 → count = req s 2 1 → s.ports[port]? = some p →
      count ≤ 16 → (∀ i < 16, req s (4 + 2 * i) 2 < 4096) → ∃ (t : State), exec .fabricConfigWindow s = .next t ∧ Answers s t 0 ∧
        t.ports[port]? = some { p with window := (List.range count).map (fun i => BitVec.ofNat 12 (req s (4 + 2 * i) 2)) } ∧
        (∀ k, k ≠ port → t.ports[k]? = s.ports[k]?) ∧ { t with mailbox := s.mailbox, ports := s.ports } = s) ∧
    (∀ port p, Commanded s 9 false [(0, 1), (1, 1)] → req s 0 1 = 5 → port = req s 1 1 → s.ports[port]? = some p →
      ∃ (t : State), exec .fabricConfigStats s = .next t ∧ Responds s t 0 ((List.range 8).map (fun j => (8 + 8 * j, 8, (p.stats[j]?.getD 0).toNat))) ∧
        { t with mailbox := s.mailbox } = s) ∧
    (∀ id x, Commanded s 9 false [(0, 1), (4, 4), (8, 4)] → req s 0 1 = 3 → id = req s 4 4 → 1 ≤ id → id ≤ 0xFF_FFFF → memberOf s id = some x → lookup s.pauses id = none →
      ∃ (t : State), exec .fabricConfigPause s = .next t ∧ Answers s t 0 ∧ t.wire = s.wire ++ [.pause id (req s 8 4)] ∧
        lookup t.pauses id = some { stop := req s 8 4, begun := false, initiator := true, pausedFrom := [], drained := false, switched := false, resuming := false } ∧
        { t with mailbox := s.mailbox, wire := s.wire, ports := s.ports, pauses := s.pauses } = s) ∧
    (∀ id, Commanded s 9 false [(0, 1), (4, 4)] → id = req s 4 4 → id = 0 ∨ 0xFF_FFFF < id ∨ memberOf s id = none →
      (req s 0 1 = 3 → ∃ (t : State), exec .fabricConfigPause s = .next t ∧ Answers s t 6 ∧ { t with mailbox := s.mailbox } = s) ∧
      (req s 0 1 = 4 → ∃ (t : State), exec .fabricConfigResume s = .next t ∧ Answers s t 6 ∧ { t with mailbox := s.mailbox } = s)) ∧
    ∀ id x, Commanded s 9 false [(0, 1), (4, 4)] → req s 0 1 = 4 → id = req s 4 4 → 1 ≤ id → id ≤ 0xFF_FFFF → memberOf s id = some x →
      ∃ (t : State), exec .fabricConfigResume s = .next t ∧ Answers s t 0 ∧ t.wire = s.wire ++ [.resume id] ∧ { t with mailbox := s.mailbox, wire := s.wire, ports := s.ports } = s

/-- R361, R366 to R371, R376, R377, R381, R385: what writes to an event counter leave; what a reset keeps and how the boot stages follow one another; what throttling, the emergency
stop and an overheated stack do; and what time messages, trained ports and repeated flits change.
Where the rules leave a point open it follows the model's own choices (assumptions 4, 8, 74, 82 and 83). -/
def Obligations.CountersBootAndLimits : Prop :=
  (∀ (s : State) i c v, s.counters[i]? = some c →
    (∃ (t : State) (c' : _), exec (.eventCounterSelectWrite i v) s = .next t ∧ t.counters[i]? = some c' ∧ c'.value = c.value ∧
      (∀ b : Fin 64, c'.select.getLsbD b = (v.getLsbD b && (decide (b.val < 27) || decide (62 ≤ b.val)))) ∧
      (∀ k, k ≠ i → t.counters[k]? = s.counters[k]?) ∧ { t with counters := s.counters } = s) ∧
    ∃ (t : State) (c' : _), exec (.eventCounterValueWrite i v) s = .next t ∧ t.counters[i]? = some c' ∧ c'.select = c.select ∧ c'.value.toNat % 2 ^ 63 = v.toNat % 2 ^ 48 ∧
      c'.value.getLsbD 63 = (c.value.getLsbD 63 && !v.getLsbD 63) ∧ (∀ k, k ≠ i → t.counters[k]? = s.counters[k]?) ∧ { t with counters := s.counters } = s) ∧
  (∀ s : State, ∃ (t : State), exec .deviceReset s = .next t ∧ t.fibres = [] ∧ t.crews = [] ∧ t.slots = [] ∧ t.banks = [] ∧ t.contexts = [] ∧ t.partitions = [] ∧ t.queue = [] ∧
    t.keySlots = [] ∧ t.engines = [] ∧ t.fabricOps = [] ∧ t.sessions = [] ∧ t.tlb = [] ∧ t.counters = State.reset.counters ∧ t.boot.image = s.boot.image ∧
    (∀ p, inHost p = true → byteAt t p = byteAt s p) ∧ t.health.powerLimit = 3200 ∧ t.health.clockLimit = 1050 ∧ t.health.throttle = 105 ∧
    (3 ≤ s.boot.fails → t.boot.stage = 1 ∧ t.boot.harbour = true ∧ t.boot.fails = s.boot.fails) ∧
    (s.boot.fails < 3 → imageReason s.boot.image = 0 → t.boot.stage = 3 ∧ t.boot.harbour = false ∧ t.boot.fails = s.boot.fails ∧ t.boot.running = s.boot.image) ∧
    (s.boot.fails < 3 → imageReason s.boot.image ≠ 0 → t.boot.harbour = true ∧ t.boot.fails = 3 ∧ t.boot.reason = imageReason s.boot.image)) ∧
  (∀ s : State, ∃ (t : State), exec .powerLoss s = .next t ∧ t.boot.fails = 0 ∧ t.boot.stage = 1 ∧ t.fibres = [] ∧ t.contexts = [] ∧
    (s.mailbox.busy = false → t.boot.image = s.boot.image)) ∧
  (∀ s : State, s.boot.stage = 3 → exec (.memoryTrainingDone .passed) s = .next { s with boot := { s.boot with stage := 4 } } ∧
    ∀ x ∈ [(TrainResult.trainingFailed, 4), (TrainResult.selfTestFailed, 5)], exec (.memoryTrainingDone x.1) s =
      exec .deviceReset { s with boot := { s.boot with fails := min 3 (s.boot.fails + 1), reason := x.2 } }) ∧
  (∀ s : State, s.boot.stage = 4 → exec (.cxlLinkEnabled true) s = .next { s with boot := { s.boot with stage := 5 } } ∧
    exec (.cxlLinkEnabled false) s = exec .deviceReset { s with boot := { s.boot with fails := min 3 (s.boot.fails + 1), reason := 6 } }) ∧
  (∀ s : State, 10 ^ 10 < s.time - s.boot.since → exec .bootReady s = .next s) ∧
  (∀ s : State, s.boot.stage = 5 → s.time - s.boot.since ≤ 10 ^ 10 → exec .bootReady s = .next { s with boot := { s.boot with stage := 6, fails := 0, reason := 0 } }) ∧
  (∀ s : State, s.time - s.boot.since ≤ 10 ^ 10 → exec .bootWatchdogExpiry s = .next s) ∧
  (∀ s : State, 3 ≤ s.boot.stage → s.boot.stage < 6 → s.boot.harbour = false → 10 ^ 10 < s.time - s.boot.since →
    exec .bootWatchdogExpiry s = exec .deviceReset { s with boot := { s.boot with fails := min 3 (s.boot.fails + 1), reason := 7 } }) ∧
  (∀ (s : State) h (hot : Fin 8 → Prop), h = s.health → h.stepped + 10000 ≤ s.time → (∀ d, hot d ↔ h.powerLimit * 1000 ≤ h.power ∨ 16 * (h.throttle : Int) ≤ h.junction.get d) →
    ∃ (t : State), exec .throttleStep s = .next t ∧ (∀ d : Fin 8, (hot d → t.health.dieClock[d] = h.dieClock[d] - 25) ∧ (¬ hot d → t.health.dieClock[d] = h.clockLimit)) ∧
      ((∃ d, hot d) → t.msix = 17 :: s.msix) ∧ t.health.stepped = s.time ∧ { t.health with dieClock := h.dieClock, stepped := h.stepped } = h ∧ { t with health := s.health, msix := s.msix } = s) ∧
  (∀ s : State, s.health.stop = false → (∃ d : Fin 8, (16 * 115 : Int) ≤ s.health.junction.get d) ∨ (∃ k : Fin 16, 16 * 105 ≤ s.health.stack.get k) →
    ∃ (t : State), exec .emergencyStop s = .next t ∧ t.health = { s.health with stop := true } ∧ t.msix = 17 :: s.msix ∧ (∀ p, byteAt t p = byteAt s p) ∧ t.crews = s.crews ∧
      ∀ k f w, lookup s.fibres k = some f → f.fence = none → lookup s.crews (bankOfFibre k) = some w → w.state = .running →
        (bankOf s (bankOfFibre k)).state = .running → activeBank s (bankOfFibre k % 1024) = bankOfFibre k → (bankOf t (bankOfFibre k)).state = .halted ∧
        ∃ (f' : Fibre), lookup t.fibres k = some f' ∧ f'.spc = f.spc ∧ f'.sWait = f.issuedWait ∧ ∀ r, f'.readS r = f.readS r) ∧
  (∀ (s : State) (k : Fin 16), (16 * 95 ≤ s.health.stack.get k → ∃ (t : State), exec (.stackOverheat k) s = .next t ∧ k.val ∈ t.health.doubled ∧ { t with health := s.health } = s) ∧
    (s.health.stack.get k < 16 * 95 → ∃ (t : State), exec (.stackOverheat k) s = .next t ∧ k.val ∉ t.health.doubled ∧ { t with health := s.health } = s)) ∧
  (∀ (s : State) port time ok, ∃ (t : State), exec (.ptpMessage port time ok) s = .next t ∧ t.ptp = time ∧ t.ptpInBounds = ok ∧ { t with ptp := s.ptp, ptpInBounds := s.ptpInBounds, ports := s.ports } = s) ∧
  ∀ (s : State) port p, s.ports[port]? = some p →
    (∀ ok, ∃ (t : State), exec (.fabricPortTraining port ok) s = .next t ∧ t.ports[port]? = some { p with up := ok } ∧ (∀ k, k ≠ port → t.ports[k]? = s.ports[k]?) ∧
      t.reports = (if ok then s.reports else .port port :: s.reports) ∧ { t with ports := s.ports, reports := s.reports } = s) ∧
    ∃ (t : State) (p' : _), exec (.flitRetry port) s = .next t ∧ t.ports[port]? = some p' ∧ (p'.stats[2]?.getD 0) = (p.stats[2]?.getD 0) + 1#64 ∧
      (∀ j, j ≠ 2 → p'.stats[j]? = p.stats[j]?) ∧ { p' with stats := p.stats } = p ∧ (∀ k, k ≠ port → t.ports[k]? = s.ports[k]?) ∧ { t with ports := s.ports } = s

/-- R394 to R397, R407, R408: a whole command of `q2` is taken, or posts why it is not; the next chunk of an operation leaves as a packet with what its source holds, and with the
last one the flag falls and a word that was asked for is posted; at a port that does not list its tenant it posts TENANT instead.
Where the rules leave a point open it follows the model's own choices (assumptions 61, 64 to 66, 68 and 69). -/
def Obligations.FabricDeparture : Prop :=
  (∀ (s : State) (g : Nat) (f : Fibre) (w : Crew) (c : Context) (a x y z : Word) (rest : List Word) (W : FabricWords) (k : Nat) (i : Instr), lookup s.fibres g = some f → lookup s.crews (bankOfFibre g) = some w → bankOfSerial s w.serial = some (bankOfFibre g) →
    lookup s.contexts w.ctx = some c → f.q2 = a :: x :: y :: z :: rest → W = { w0 := a, w1 := x, w2 := y, w3 := z : FabricWords } → a.toNat / 2 ^ 60 = k →
    (k, i) ∈ [(1, Instr.fabricQueueStore g), (2, Instr.fabricQueueCopy g), (3, Instr.fabricQueueReduce g)] →
    let word (status : Nat) : Word :=
      BitVec.ofNat 64 (k * 2 ^ 58 + 2 ^ 56 + status * 2 ^ 48 + a.toNat / 2 ^ 16 % 2 ^ 16 * 2 ^ 32 + ownIndex c % 2 ^ 16 * 2 ^ 16)
    (∀ (id : Nat) (o : FabricOp), operationOk k (a.toNat / 2 ^ 57 % 8) W = true → queueFieldsOk W = true → acceptedOp s { fibre := g, serial := w.serial, ctx := w.ctx } W = some id →
      lookup s.fabricOps id = some o → ∃ t : State, exec i s = .next t ∧ lookup t.fibres g = some { f with q2 := rest } ∧ lookup t.fabricOps id = some { o with taken := true } ∧
        (∀ h, h ≠ g → lookup t.fibres h = lookup s.fibres h) ∧ (∀ h, h ≠ id → lookup t.fabricOps h = lookup s.fabricOps h) ∧
        { t with fibres := s.fibres, fabricOps := s.fabricOps } = s) ∧
    ((operationOk k (a.toNat / 2 ^ 57 % 8) W && queueFieldsOk W) = false → ∃ (t : State) (f' : Fibre), exec i s = .next t ∧ lookup t.fibres g = some { f' with q2 := rest } ∧
      TookWord f f' (word 1) ∧ (∀ h, h ≠ g → lookup t.fibres h = lookup s.fibres h) ∧ { t with fibres := s.fibres } = s) ∧
    (operationOk k (a.toNat / 2 ^ 57 % 8) W = true → queueFieldsOk W = true → acceptedOp s { fibre := g, serial := w.serial, ctx := w.ctx } W = none →
      ∃ (t : State) (f' : Fibre), exec i s = .next t ∧ lookup t.fibres g = some { f' with q2 := rest } ∧ TookWord f f' (word 13) ∧
        (∀ h, h ≠ g → lookup t.fibres h = lookup s.fibres h) ∧ { t with fibres := s.fibres } = s)) ∧
  (∀ (s : State) (g : Nat) (f : Fibre) (w : Crew) (c : Context) (a : Word) (rest : List Word) (k : Nat), lookup s.fibres g = some f → lookup s.crews (bankOfFibre g) = some w → bankOfSerial s w.serial = some (bankOfFibre g) →
    lookup s.contexts w.ctx = some c → f.q2 = a :: rest → k = a.toNat / 2 ^ 60 → k = 0 ∨ 3 < k →
    ∃ (t : State) (f' : Fibre), exec (.fabricQueueBadKind g) s = .next t ∧ lookup t.fibres g = some { f' with q2 := rest } ∧
      TookWord f f' (BitVec.ofNat 64 (k * 2 ^ 58 + 2 ^ 56 + 2 ^ 48 + a.toNat / 2 ^ 16 % 2 ^ 16 * 2 ^ 32 + ownIndex c % 2 ^ 16 * 2 ^ 16)) ∧
      (∀ h, h ≠ g → lookup t.fibres h = lookup s.fibres h) ∧ { t with fibres := s.fibres } = s) ∧
  ∀ (s : State) (id : Nat) (o : FabricOp) (c : Context) (n : Nat) (data : List Byte), lookup s.fabricOps id = some o → lookup s.contexts o.ctx = some c → o.left = false → o.taken = true → o.sent < o.chunks → maySend s = true →
    chunkHeld s o c = false → o.asked = none → NoErrors s → n = o.chunkLen → 1 ≤ o.kind → o.kind ≤ 4 →
    (o.kind = 1 ∨ o.kind = 4 → data = leBytes n o.words.w2.toNat) →
    (o.kind = 2 ∨ o.kind = 3 → (o.data ≠ [] → data = o.data) ∧ (o.data = [] →
      (localForm o.words.w2 = true → ∃ bk l, bankOfSerial s o.serial = some bk ∧ localRegion (wfld o.words.w2 0 24 + 512 * o.sent) = localRegion (wfld o.words.w2 0 24) ∧
        localSpots s bk (wfld o.words.w2 0 24 + 512 * o.sent) n = some l ∧ Seen s l data) ∧
      (localForm o.words.w2 = false → ∃ env l, o.env s = some env ∧
        engineSpots s env (o.words.w2 + BitVec.ofNat 64 (512 * o.sent)) n .read = .ok l ∧ Seen s l data))) →
    (portLists s (exitOf s) c.tenant = true → ∃ (t : State) (p : Packet), exec (.fabricOperationLeft id) s = .next t ∧ t.wire = s.wire ++ [.packet p] ∧ (∀ q, byteAt t q = byteAt s q) ∧
      p.kind = o.packetKind ∧ p.serial = id ∧ p.tenant = c.tenant ∧ p.crossing.toNat = (gridOf c).crossing % 2 ^ 24 ∧ p.pattern = o.pattern ∧
      p.source.toNat = ownIndex c % 2 ^ 16 ∧ p.contributor.toNat = o.contributor % 2 ^ 12 ∧ p.chunk.toNat = o.sent % 2 ^ 24 ∧ p.gtag.toNat = o.words.gtag ∧
      p.stamp.toNat = s.ptp.toNat % 2 ^ 32 ∧ p.addr = o.remoteAddr + BitVec.ofNat 64 (512 * o.sent) ∧ p.lw = o.words.lw ∧ p.loff = o.words.loff ∧ p.void = false ∧
      p.data = data ∧ p.operand = o.words.w2 ∧ p.expected = o.words.w3 ∧
      (o.kind = 4 ∨ o.sent + 1 < o.chunks → lookup t.fabricOps id = some { o with sent := o.sent + 1 } ∧ t.fibres = s.fibres) ∧
      (o.kind ≠ 4 → o.chunks = o.sent + 1 → 0 < o.members → o.acks.length < o.members * (o.sent + 1) → o.void = none → o.stopped = false → o.refused = false →
        lookup t.fabricOps id = some { o with sent := o.sent + 1, left := true } ∧
        OwnerBecomes s t o.serial o.fibre (fun f =>
          let g := f.complete o.flag 0#6
          if o.queued = true ∧ o.words.w0.getLsbD 56 = true then
            g.pushQ3 (BitVec.ofNat 64 (o.kind * 2 ^ 58 + 2 ^ 56 + o.words.gtag * 2 ^ 32 + ownIndex c % 2 ^ 16 * 2 ^ 16)) else g))) ∧
    (portLists s (exitOf s) c.tenant = false → o.kind ≠ 4 → o.sent + 1 < o.chunks → o.members = 1 → ∃ t : State, exec (.fabricOperationLeft id) s = .next t ∧ t.wire = s.wire ∧
      OwnerBecomes s t o.serial o.fibre (fun f => f.pushQ3 (BitVec.ofNat 64
        ((if o.queued then 0 else 2 ^ 62) + o.kind * 2 ^ 58 + 2 ^ 56 + 9 * 2 ^ 48 + o.words.gtag * 2 ^ 32 + ownIndex c % 2 ^ 16 * 2 ^ 16 + o.sent % 2 ^ 16))) ∧
      lookup t.fabricOps id = some { o with sent := o.sent + 1, refused := true, acks := if (65536, o.sent) ∈ o.acks then o.acks else (65536, o.sent) :: o.acks })

/-- R398, R399, R401, R402, R404, R406 to R408: an acknowledgement, a failure reply and the value of an atomic at the sender; a chunk of a store or copy, of a reduction, and an
atomic at their target: what they place, what they credit and what they answer; and what a port that does not list a packet's tenant answers.
Where the rules leave a point open it follows the model's own choices (assumptions 56 and 66 to 69). -/
def Obligations.FabricArrivals : Prop :=
  (∀ (s : State) (port : Nat) (id : Nat) (o : FabricOp), lookup s.fabricOps id = some o → s.flushes = [] →
    (∀ (who : Nat) (k : Nat), (who, k) ∉ o.acks → (o.left = true ∧ o.members * o.sent ≤ o.acks.length + 1 → ∃ (t : State), exec (.placementAcknowledgement port id k who) s = .next t ∧
        lookup t.fabricOps id = none ∧ { t with fabricOps := s.fabricOps, ports := s.ports, flights := s.flights } = s) ∧
      (o.left = false ∨ o.acks.length + 1 < o.members * o.sent → ∃ (t : State), exec (.placementAcknowledgement port id k who) s = .next t ∧
        lookup t.fabricOps id = some { o with acks := (who, k) :: o.acks } ∧ { t with fabricOps := s.fabricOps, ports := s.ports, flights := s.flights } = s)) ∧
    (∀ r : Reply, r.serial = id → r.bySwitch = false → o.kind < 4 → ∃ (t : State), exec (.fabricReplyArrival port r) s = .next t ∧
      OwnerBecomes s t o.serial o.fibre (fun f => f.pushQ3 (BitVec.ofNat 64 ((if o.queued then 0 else 2 ^ 62) + o.kind * 2 ^ 58 + r.status.toNat * 2 ^ 48 +
        o.words.gtag * 2 ^ 32 + r.target.toNat * 2 ^ 16 + r.chunk.toNat % 2 ^ 16))) ∧ (∀ p, byteAt t p = byteAt s p)) ∧
    (o.kind = 4 → 0 < o.sent → ∀ (v : Word), ∃ (t : State), exec (.atomicValueReply port id v) s = .next t ∧ lookup t.fabricOps id = none ∧ ∀ (bk : Nat) (f : Fibre) (p : ScalarPending) (r : Nat),
      bankOfSerial s o.serial = some bk → lookup s.fibres (fibreIn bk o.fibre) = some f → o.dest = some r → f.spend.find? (fun q => q.id == r) = some p →
      p.value = none → f.fence = none → ∃ (f' : Fibre), lookup t.fibres (fibreIn bk o.fibre) = some f' ∧
        (∀ x, f'.readS x = if p.live = true ∧ x = p.dest ∧ x ≠ 0#6 then (if o.words.w64 then v else BitVec.ofNat 64 (v.toNat % 2 ^ 32)) else f.readS x) ∧
        ∀ k : Fin 12, f'.flags[k] = if o.flag = some k.val then f.flags[k] - 1#4 else f.flags[k])) ∧
  (∀ (s : State) (port : Nat) (p : Packet) (n : Nat) (c : Context) (e : Env) (env : Env), portLists s port p.tenant = true → (bits s.ptp 0 32 - p.stamp).toNat ≤ 250000 → packetTarget s p = some (n, c) →
    envOfContext s n = some e → env = { e with tenant := p.tenant } → NoErrors s → p.void = false → p.lw = false → p.data ≠ [] →
    (∀ (i : Instr) (l : List Spot) (key : Option Nat), ((i = Instr.fabricChunkArrival port p ∧ (p.kind = .store ∨ p.kind = .copy))) → engineSpots s env p.addr p.data.length .write = .ok l →
      Storable s l key → ∃ (t : State), exec i s = .next t ∧ t.wire = s.wire ++ [.ack p.source.toNat p.serial p.chunk.toNat] ∧
        (∀ (j : Nat) (x : Spot) (b : Byte) (q : Nat), l[j]? = some x → p.data[j]? = some b → x.place = some q → byteAt t q = b) ∧
        (∀ q, (∀ x ∈ l, x.place ≠ some q) → viewByte t q key = viewByte s q key) ∧ t.crews = s.crews) ∧
    (∀ (a : Word) (x : Fail), p.kind = .store ∨ p.kind = .copy → engineSpots s env p.addr p.data.length .write = .error (a, x) →
      ∃ (t : State) (r : Reply), exec (.fabricChunkArrival port p) s = .next t ∧ t.wire = s.wire ++ [.reply p.source.toNat r] ∧ r.serial = p.serial ∧ r.chunk = p.chunk ∧
        r.status = (match x with | .translate | .resolvable _ _ => 7#8 | .permit => 8#8 | _ => 5#8) ∧ r.target = BitVec.ofNat 16 (ownIndex c) ∧ (∀ q, byteAt t q = byteAt s q)) ∧
    (∀ (l : List Spot) (key : Option Nat) (red : BitVec 3) (fmt : BitVec 4) (bop : BitVec 2) (old : List Byte) (w : Nat), p.kind = .reduce red fmt bop → w = reduceWidth fmt.toNat → 0 < w → p.data.length % w = 0 →
      engineSpots s env p.addr p.data.length .write = .ok l → Storable s l key → Seen s l old → (∀ x ∈ l, inDevice x.phys = true) →
      ∃ (t : State), exec (.reduceChunkArrival port p) s = .next t ∧ t.wire = s.wire ++ [.ack p.source.toNat p.serial p.chunk.toNat] ∧
        (∀ (j : Nat) (x : Spot) (q : Nat), l[j]? = some x → x.place = some q → byteAt t q = BitVec.ofNat 8
          (nearOp (match red.toNat with | 1 => 3 + bop.toNat | 3 => 2 | 4 => 1 | _ => 0) fmt.toNat
            (leNat ((old.drop (j / w * w)).take w)) (leNat ((p.data.drop (j / w * w)).take w)) / 256 ^ (j % w))) ∧
        ∀ q, (∀ x ∈ l, x.place ≠ some q) → viewByte t q key = viewByte s q key)) ∧
  (∀ (s : State) (port : Nat) (p : Packet) (n : Nat) (c : Context) (e : Env) (l : List Spot) (key : Option Nat) (old : List Byte) (op : BitVec 3) (w64 : Bool) (size : Nat), portLists s port p.tenant = true → (bits s.ptp 0 32 - p.stamp).toNat ≤ 250000 → packetTarget s p = some (n, c) →
    envOfContext s n = some e → NoErrors s → p.kind = .atomic op w64 → p.void = false → size = (if w64 then 8 else 4) →
    engineSpots s { e with tenant := p.tenant } p.addr size .write = .ok l → Storable s l key → Seen s l old → (∀ x ∈ l, inDevice x.phys = true) →
    ∃ (t : State), exec (.remoteAtomicArrival port p) s = .next t ∧ t.wire = s.wire ++ [.value p.source.toNat p.serial (BitVec.ofNat 64 (leNat old))] ∧
      (∀ (j : Nat) (x : Spot) (q : Nat), l[j]? = some x → x.place = some q → byteAt t q =
        match (remoteAtomicOp op.toNat).apply (8 * size) (leNat old) p.operand.toNat p.expected.toNat with
        | some v => BitVec.ofNat 8 (v / 256 ^ j)
        | none => byteAt s q) ∧
      ∀ q, (∀ x ∈ l, x.place ≠ some q) → viewByte t q key = viewByte s q key) ∧
  (∀ (s : State) (port : Nat) (p : Packet) (n : Nat) (c : Context) (e : Env) (env : Env) (l : List Spot) (key : Option Nat) (place : Nat) (wkey : Option Nat) (bytes : List Byte) (W : LWord), portLists s port p.tenant = true → (bits s.ptp 0 32 - p.stamp).toNat ≤ 250000 →
    packetTarget s p = some (n, c) → envOfContext s n = some e → env = { e with tenant := p.tenant } → NoErrors s → p.void = false → p.lw = true → p.data ≠ [] →
    p.kind = .store ∨ p.kind = .copy → engineSpots s env p.addr p.data.length .write = .ok l → Storable s l key →
    (remoteWord s env p).2 = .ok (place, wkey) → place % 16 = 0 → Sound s (wordSpots place wkey) bytes → W = readWord s place wkey → W.ok = true → W.moff = 0#32 →
    W.gen = p.gtag → W.count.toNat + p.data.length < 2 ^ 32 → (W.armed = false ∨ W.count.toNat + p.data.length < W.target.toNat) →
    (∀ x ∈ l, ∀ q, x.place = some q → q / 64 ≠ place / 64) →
    ∃ (t : State), exec (.fabricChunkArrival port p) s = .next t ∧ t.wire = s.wire ++ [.ack p.source.toNat p.serial p.chunk.toNat] ∧
      (∀ (j : Nat) (x : Spot) (b : Byte) (q : Nat), l[j]? = some x → p.data[j]? = some b → x.place = some q → byteAt t q = b) ∧
      readWord t place wkey = { W with count := BitVec.ofNat 32 (W.count.toNat + p.data.length) }) ∧
  ∀ (s : State) (port : Nat) (p : Packet), portLists s port p.tenant = false →
    (p.kind = .store ∨ p.kind = .copy → ∃ (t : State) (r : Reply), exec (.fabricChunkArrival port p) s = .next t ∧ t.wire = s.wire ++ [.reply p.source.toNat r] ∧
      r.serial = p.serial ∧ r.status = 9#8 ∧ r.chunk = p.chunk ∧ { t with wire := s.wire, ports := s.ports } = s)

/-- R382, R415, R416: the coordinator records each JOINED and sends READY once its grid is full, or refuses one that clashes; READY and REFUSED settle a membership; a pause halts a
member's crews, is answered once its chunks and its routing packets are answered for, switches partitions once every member has answered, and ends with RESUME, after the switch back where it switched.
Where the rules leave a point open it follows the model's own choices (assumptions 71, 72 and 73). -/
def Obligations.GangMessages : Prop :=
  (∀ (s : State) (port n : Nat) (c : Context) (own : Membership) (m : Joined) (d : List (List Nat × Nat)), memberOf s m.crossing = some (n, c) →
    c.member = some own → d = ((lookup s.coordinators m.crossing).map (fun x => x.recorded)).getD [] → ∀ same : Prop,
    (same ↔ m.axes = own.axes ∧ m.extents = own.extents ∧ ∀ x ∈ d, x.1 = m.coord → x.2 = m.identity) →
    (¬ same → ∃ t : State, exec (.joinedMessage port m) s = .next t ∧ t.wire = s.wire ++ [.refused m.crossing m.identity] ∧ { t with wire := s.wire, ports := s.ports } = s) ∧
    (same → (m.coord, m.identity) ∉ d → ∃ t : State, exec (.joinedMessage port m) s = .next t ∧
      lookup t.coordinators m.crossing = some { recorded := d ++ [(m.coord, m.identity)] } ∧
      t.wire = (if d.length + 1 = own.extents.foldl (· * ·) 1 then s.wire ++ [.ready m.crossing] else s.wire) ∧
      { t with wire := s.wire, ports := s.ports, coordinators := s.coordinators } = s)) ∧
  (∀ (s : State) (port : Nat) (m : Joined), memberOf s m.crossing = none → ∃ t : State, exec (.joinedMessage port m) s = .next t ∧
    t.heldJoined = s.heldJoined ++ [(port, m)] ∧ { t with heldJoined := s.heldJoined, ports := s.ports } = s) ∧
  (∀ (s : State) (port x n : Nat) (c : Context) (own : Membership), memberOf s x = some (n, c) → lookup s.contexts n = some c → c.member = some own →
    (c.started = false → (∀ q ∈ s.queue, ¬ (q.held = true ∧ q.ctx = n)) → ∃ t : State, exec (.readyMessage port x) s = .next t ∧
      lookup t.contexts n = some { c with member := some { own with ready := true } } ∧ { t with contexts := s.contexts, ports := s.ports } = s) ∧
    (∀ q k, c.refused = false → s.queue.filter (fun q => q.held && q.ctx == n) = [q] →
      placeOn s (diesOf s c) q.record = some k → ∃ (t : State) (y : Queued),
      exec (.readyMessage port x) s = .next t ∧ t.queue = s.queue.filter (fun q => !(q.held && q.ctx == n)) ++ [y] ∧ y.record = q.record ∧ y.ctx = n ∧
        y.cluster = k ∧ y.held = false ∧ y.joinLink = q.joinLink) ∧
    ∃ t : State, exec (.refusedMessage port x) s = .next t ∧ lookup t.contexts n = some { c with member := none, refused := true } ∧
      { t with contexts := s.contexts, ports := s.ports } = s) ∧
  (∀ (s : State) (port x stop n : Nat) (c : Context), memberOf s x = some (n, c) →
    (lookup s.pauses x = none → ∃ t : State, exec (.pauseMessage port x stop) s = .next t ∧
      lookup t.pauses x = some { stop := stop, begun := true, initiator := false, pausedFrom := [], drained := false, switched := false, resuming := false } ∧
      (∀ p, byteAt t p = byteAt s p) ∧ t.crews = s.crews ∧
      ∀ (k : Nat) (f : Fibre) (w : Crew), lookup s.fibres k = some f → f.fence = none → lookup s.crews (bankOfFibre k) = some w → w.ctx = n →
        w.state = .running → crewRuns s (bankOfFibre k) w = true → (bankOf t (bankOfFibre k)).state = .halted ∧ ∃ f' : Fibre, lookup t.fibres k = some f' ∧ f'.spc = f.spc ∧ f'.sWait = f.issuedWait ∧ ∀ r, f'.readS r = f.readS r) ∧
    ∀ p : Pause, lookup s.pauses x = some p →
      (p.begun = true → p.drained = false → (∀ o ∈ s.fabricOps, o.2.ctx = n → quiet o.2 p.stop = true) → (∀ y ∈ s.flights, y.1 ≠ n) → ∃ (t : State) (h : Nat),
        exec (.pauseDrained x) s = .next t ∧ lookup t.pauses x = some { p with drained := true } ∧ t.wire = s.wire ++ [.paused x h] ∧
        (∀ o ∈ s.fabricOps, o.2.ctx = n → o.2.sent ≤ h + 1) ∧ { t with pauses := s.pauses, wire := s.wire, ports := s.ports } = s) ∧
      (∀ src high, p.initiator = true → src ∉ p.pausedFrom → ∃ t : State, exec (.pausedMessage port x src high) s = .next t ∧
        lookup t.pauses x = some { p with pausedFrom := src :: p.pausedFrom } ∧
        t.wire = (if p.pausedFrom.length + 1 = (gridOf c).extents.foldl (· * ·) 1 then s.wire ++ [.switch x] else s.wire) ∧
        { t with pauses := s.pauses, wire := s.wire, ports := s.ports } = s) ∧
      (p.begun = true → p.switched = false → ∀ q, partnerOf s c.partition = some q → (lookup s.partitions q).isSome = true →
        (partnerOf s q).isSome = true → ∃ t : State, exec (.switchMessage port x) s = .next t ∧
        lookup t.pauses x = some { p with switched := true } ∧ (lookup t.partitions q).map (fun y => y.active) = some true) ∧
      (p.resuming = true → exec (.resumeMessage port x) s = .next (receive s port 32)) ∧
      (p.resuming = false → lookup s.contexts n = some c →
        (p.switched = false → (∀ g ∈ dieCores (diesOf s c), (coreOf s g).flipWanted = false) → ∃ t : State, exec (.resumeMessage port x) s = .next t ∧ lookup t.pauses x = none ∧
          t.fibres = s.fibres ∧ t.crews = s.crews ∧ (∀ q, byteAt t q = byteAt s q) ∧ t.partitions = s.partitions ∧
          t.sessions = s.sessions.map (fun y => if y.ctx = n then { y with resumed := s.ptp.toNat } else y) ∧
          ∀ k w, lookup s.crews k = some w → w.ctx = n → (bankOf s k).state = .halted → activeBank s (k % 1024) = k → (coreOf s (k % 1024)).flipWanted = false →
            partitionActive s n = true → s.health.stop = false → (bankOf t k).state = .running) ∧
        (p.switched = true → (lookup s.partitions c.partition).isSome = true → (partnerOf s c.partition).isSome = true → ∃ t : State, exec (.resumeMessage port x) s = .next t ∧
          (lookup t.partitions c.partition).map (fun y => y.active) = some true ∧
          ((∃ g ∈ dieCores (diesOf s c), (coreOf t g).flipWanted = true) → lookup t.pauses x = some { p with resuming := true }))))

/-- R417 to R422: a token record is accepted and charged, an open begins a session, a close drops what it still holds, and a record that is refused gives its word; a header joins its
batch or is dropped; the two rounds rank by source, token and arrival and give the first ones the free slots; a tape entry is written and its tape word credited; a decision sends the
payload, the second choice or the dropped word; and a piece of a payload is placed in its slot and credited to its counter.
Where the rules leave a point open it follows the model's own choices (assumptions 96 to 104). -/
def Obligations.Routing : Prop :=
  (∀ (s : State) (g : Nat) (f : Fibre) (w : Crew) (c : Context) (rest : List Word) (a b : Word), lookup s.fibres g = some f →
    lookup s.crews (bankOfFibre g) = some w → lookup s.contexts w.ctx = some c → f.routeAsked = none →
    (∀ (ss : Session) (env : Env) (e1 e2 : Nat), f.q4 = a :: b :: rest → f.session = some ss.number → sessionOf s ss.number = some ss → ss.ctx = w.ctx →
      envOf s w = some env → e1 = a.toNat / 2 ^ 32 % 2 ^ 12 → e2 = a.toNat / 2 ^ 44 % 2 ^ 12 → a.toNat / 2 ^ 56 = 0 → e1 < ss.experts.length →
      (e2 = 0xFFF ∨ e2 < ss.experts.length) → e1 ≠ e2 → b.toNat % 16 = 0 → rangesFail s env [(b, ss.size, .read)] = none → walkedRange s env b ss.size = s →
      ∃ (t : State) (k : Token), exec (.routingToken g) s = .next t ∧ lookup t.tokens s.nextSerial = some k ∧ k.first = e1 ∧ k.second = e2 ∧
        k.token.toNat = a.toNat % 2 ^ 32 ∧ k.payload = b ∧ k.size = ss.size ∧ k.session = ss.number ∧ k.round = 0 ∧ k.fate = none ∧ k.sent = 0 ∧ k.fibre = g ∧
        k.batch = ss.after 0 (timeOf s) ∧ lookup t.fibres g = some { f with q4 := rest } ∧ (∀ h, h ≠ g → lookup t.fibres h = lookup s.fibres h) ∧
        CrewsCharged s t (bankOfFibre g) 0 ((ss.size + 63) / 64) ∧ ∀ p, byteAt t p = byteAt s p) ∧
    (∀ (env : Env) (u : State) (ss : Session) (n : Nat), f.q4 = a :: b :: rest → n = a.toNat % 2 ^ 16 → a.toNat / 2 ^ 16 = 2 ^ 46 → sessionOf s n = none →
      (s.sessions.filter (fun x => x.engine == coreOfFibre g / 512)).length < 16 → envOfContext s w.ctx = some env →
      checkOpen s env c n (coreOfFibre g / 512) w.ctx b = (u, .open' ss) → NoErrors s →
      (∀ x ∈ s.earlyHeaders, ¬ (x.1 = w.ctx ∧ x.2.session.toNat = n)) →
      ss.number = n ∧ ss.ctx = w.ctx ∧ ss.headers = [] ∧ ss.entries = [] ∧
      ∃ t : State, exec (.routingOpen g) s = .next t ∧ t.sessions = s.sessions ++ [ss] ∧ lookup t.fibres g = some { f with q4 := rest, session := some n } ∧
        (∀ h, h ≠ g → lookup t.fibres h = lookup s.fibres h) ∧ ∀ p, byteAt t p = byteAt s p) ∧
    (∀ (ss : Session) (n : Nat), f.q4 = a :: b :: rest → n = a.toNat % 2 ^ 16 → a.toNat / 2 ^ 16 = 2 ^ 47 → b = 0#64 → sessionOf s n = some ss → ss.ctx = w.ctx →
      (ss.ranked ≠ none ∨ ss.appends ≠ [] → exec (.routingClose g) s = .next s) ∧ (ss.ranked = none → ss.appends = [] → ss.headers = [] → ∃ (t : State) (f' : Fibre), exec (.routingClose g) s = .next t ∧ (∀ x, x ∈ t.sessions ↔ x ∈ s.sessions ∧ x.number ≠ n) ∧
        lookup t.fibres g = some f' ∧ f'.q4 = rest ∧ (f.session = some n → f'.session = none) ∧ (f.session ≠ some n → f'.session = f.session) ∧ t.wire = s.wire ∧
        ∀ p, byteAt t p = byteAt s p)) ∧
    (f.q4 = a :: rest → a.toNat / 2 ^ 62 = 3 → ∃ (t : State) (x : Word), exec (.routingBadRecord g) s = .next t ∧
      lookup t.fibres g = some { f with q4 := rest, q5 := f.q5 ++ [x] } ∧ x.toNat / 2 ^ 62 = 3 ∧ x.toNat % 2 ^ 32 = 0xFFFFFFFF ∧
      (∀ h, h ≠ g → lookup t.fibres h = lookup s.fibres h) ∧ { t with fibres := s.fibres } = s)) ∧
  (∀ (s : State) (port : Nat) (h : RoutingHeader),
    (∀ (n : Nat) (c : Context) (ss : Session), portLists s port h.tenant = true → (bits s.ptp 0 32 - h.stamp).toNat ≤ 250000 → headerMember s h = some (n, c) →
      s.sessions.find? (fun x => x.number == h.session.toNat && x.ctx == n) = some ss → ss.number = h.session.toNat → (s.sessions.map (fun x => x.number)).Nodup →
      ∃ (t : State) (x : HeldHeader) (y : Session), exec (.routingHeaderArrival port h) s = .next t ∧ sessionOf t ss.number = some y ∧ y = { ss with headers := ss.headers ++ [x] } ∧
        x.header = h ∧ x.order = s.tick ∧ x.round = (if h.second then 2 else 1) ∧ h.batch ≤ x.batch ∧
        (pausedContext s ss.ctx = false → 0 < ss.period → timeOf s ≤ ss.first + x.batch * ss.period + (if h.second then ss.window else 0)) ∧
        t.wire = s.wire ++ [.ack h.source.toNat h.serial (headerFlight h.second)] ∧ { t with sessions := s.sessions, wire := s.wire, ports := s.ports } = s) ∧
    (portLists s port h.tenant = false → ∃ t : State, exec (.routingHeaderArrival port h) s = .next t ∧
      t.wire = s.wire ++ [.decision h.source.toNat { serial := h.serial, decision := .dropped h.batch }] ∧ { t with wire := s.wire, ports := s.ports } = s)) ∧
  (∀ (s : State) (n own b : Nat) (ss : Session) (c : Context), sessionOf s n = some ss → lookup s.contexts ss.ctx = some c → pausedContext s ss.ctx = false →
    own = ownIndex c → ss.number = n → (s.sessions.map (fun x => x.number)).Nodup →
    (∀ (close : Nat) (taken : List Accepted) (late : List HeldHeader), ss.ranked = none → smallestBatch ss 1 = some b → (∀ a, smallestBatch ss 2 = some a → b ≤ a) →
      close = max (ss.first + b * ss.period) ss.resumed → close ≤ timeOf s →
      (taken, late) = rankHeaders ss own [] (ss.headers.filter (fun x => x.round == 1 && x.batch == b)) →
      (∀ x ∈ taken, x.slot < capacityHere ss own x.header.expert.toNat) ∧
      ∃ (t : State) (y : Session), exec (.routingRound1Close n) s = .next t ∧ sessionOf t n = some y ∧ y.round1 = taken ∧ y.ranked = some (b, close + ss.window) ∧
        y.batch1 = b + 1 ∧ (∀ x, x ∈ y.headers ↔ x ∈ ss.headers ∧ ¬ (x.round = 1 ∧ x.batch = b)) ∧
        t.wire = s.wire ++ late.map (fun x => .decision x.header.source.toNat { serial := x.header.serial, decision := .overflow b }) ∧
        { t with sessions := s.sessions, wire := s.wire, ports := s.ports } = s) ∧
    (∀ (time : Nat) (taken : List Accepted) (late : List HeldHeader), ss.ranked = some (b, time) → max time ss.resumed ≤ timeOf s →
      (taken, late) = rankHeaders ss own ss.round1 (ss.headers.filter (fun x => x.round == 2 && x.batch == b)) →
      ∃ (t : State) (y : Session), exec (.routingRound2Close n) s = .next t ∧ sessionOf t n = some y ∧ y.round1 = [] ∧ y.ranked = none ∧ y.batch2 = b + 1 ∧
        (ss.round1 ++ taken ≠ [] → y.appends = ss.appends ++ [{ batch := b, accepted := ss.round1 ++ taken }]) ∧
        (∀ x, x ∈ y.headers ↔ x ∈ ss.headers ∧ ¬ (x.round = 2 ∧ x.batch = b)) ∧
        t.wire = s.wire ++ late.map (fun x => .decision x.header.source.toNat { serial := x.header.serial, decision := .dropped b }) ∧
        { t with sessions := s.sessions, wire := s.wire, ports := s.ports } = s) ∧
    ∀ (x : TapeBatch) (e rows : Nat) (env : Env) (hs es : List Spot) (header old : List Byte) (key : Option Nat) (base tail : Nat), ss.appends = [x] →
      (∀ y ∈ x.accepted, y.header.expert.toNat = e) → x.accepted ≠ [] → (∀ y ∈ ss.entries, ¬ (y.expert = e ∧ y.batch = x.batch)) → rows = x.accepted.length →
      envOfContext s ss.ctx = some env → NoErrors s → engineSpots s env ss.tape 64 .write = .ok hs → Seen s hs header → Storable s hs key →
      base = leNat (header.take 8) → tail = leNat ((header.drop 16).take 4) → (tail + 2 ^ 32 - leNat ((header.drop 24).take 4)) % 2 ^ 32 ≠ leNat ((header.drop 8).take 4) →
      engineSpots s env (BitVec.ofNat 64 (base + tail % leNat ((header.drop 8).take 4) * 64)) 64 .write = .ok es → Sound s es old → Storable s es key →
      (∀ y ∈ es, ∀ z ∈ hs, ∀ p q, y.place = some p → z.place = some q → p / 64 ≠ q / 64) →
      (∀ p k, wordAt (hs.drop 0x20) = some (p, k) → k = key ∧ p % 16 = 0 ∧ ((hs.drop 0x20).take 16).map (fun z => z.place) = (List.range 16).map (fun i => some (p + i)) ∧
        (readWord s p key).ok = true ∧ (readWord s p key).moff = 0#32 ∧ ownerKilled s p = false ∧ (readWord s p key).count.toNat + 64 < 2 ^ 32 ∧
        ((readWord s p key).armed = false ∨ (readWord s p key).count.toNat + 64 < (readWord s p key).target.toNat)) →
      ∃ (t : State) (y : Session), exec (.tapeAppend n) s = .next t ∧ sessionOf t n = some y ∧ y.appends = [] ∧
        y.entries = ss.entries ++ [{ expert := e, batch := x.batch, counter := some (BitVec.ofNat 64 (base + tail % leNat ((header.drop 8).take 4) * 64) + 0x20#64) }] ∧
        (∀ (i : Nat) (z : Spot) (v : Byte) (p : Nat), es[i]? = some z → (ss.entryBytes e x.batch rows)[i]? = some v → z.place = some p → byteAt t p = v) ∧
        (∀ (i : Nat) (z : Spot) (p : Nat), i < 4 → hs[16 + i]? = some z → z.place = some p → byteAt t p = BitVec.ofNat 8 ((tail + 1) / 256 ^ i)) ∧
        (∀ p k, wordAt (hs.drop 0x20) = some (p, k) → readWord t p key = { readWord s p key with count := (readWord s p key).count + 64#32 }) ∧
        t.wire = s.wire ++ x.accepted.map (fun y => .decision y.header.source.toNat { serial := y.header.serial, decision := .accepted x.batch y.slot })) ∧
  (∀ (s : State) (port : Nat) (d : RoutingDecision) (k : Token), lookup s.tokens d.serial = some k → k.fate = none → k.round = 1 ∨ k.round = 3 →
    (∀ b slot, d.decision = .accepted b slot → ∃ t : State, exec (.routingDecisionArrival port d) s = .next t ∧
      lookup t.tokens d.serial = some { k with fate := some (b, slot), batch := b } ∧ { t with tokens := s.tokens, ports := s.ports, flights := s.flights } = s) ∧
    (∀ b, d.decision = .overflow b → k.round = 1 → k.second ≠ 0xFFF → ∃ t : State, exec (.routingDecisionArrival port d) s = .next t ∧
      lookup t.tokens d.serial = some { k with round := 2, batch := b } ∧ { t with tokens := s.tokens, ports := s.ports, flights := s.flights } = s) ∧
    (∀ b, d.decision = .dropped b ∨ d.decision = .overflow b ∧ (k.round = 3 ∨ k.second = 0xFFF) → ∃ t : State, exec (.routingDecisionArrival port d) s = .next t ∧
      lookup t.tokens d.serial = none ∧ OwnerBecomes s t k.serial k.fibre (fun f => { f with q5 := f.q5 ++
        [BitVec.ofNat 64 (2 * 2 ^ 62 + 0xFFF * 2 ^ 50 + b % 64 * 2 ^ 32 + k.token.toNat)] }))) ∧
  ∀ (s : State) (port n : Nat) (p : RoutingPayload) (c : Context) (ss : Session) (e : Env) (x : TapeEntry) (l : List Spot) (key wkey : Option Nat) (place : Nat)
    (bytes : List Byte) (W : LWord) (v : Word) (ws : List Spot), portLists s port p.tenant = true → (bits s.ptp 0 32 - p.stamp).toNat ≤ 250000 → payloadMember s p = some (n, c) →
    s.sessions.find? (fun x => x.number == p.session.toNat && x.ctx == n) = some ss → envOfContext s n = some e →
    ss.entries.find? (fun x => x.expert == p.expert.toNat && x.batch == p.batch) = some x → x.counter = some v →
    engineSpots s { e with tenant := p.tenant } v 16 .write = .ok ws → wordAt ws = some (place, wkey) → NoErrors s → p.void = false → p.data ≠ [] →
    engineSpots s { e with tenant := p.tenant } (ss.buffer x.expert x.batch + BitVec.ofNat 64 (p.slot * ss.size + p.offset)) p.data.length .write = .ok l →
    Storable s l key → Sound s (wordSpots place wkey) bytes → place % 16 = 0 → W = readWord s place wkey → W.ok = true → W.moff = 0#32 → W.gen = 0#16 →
    ownerKilled s place = false → W.count.toNat + p.len < 2 ^ 32 → (W.armed = false ∨ W.count.toNat + p.len < W.target.toNat) →
    (∀ y ∈ l, ∀ q, y.place = some q → q / 64 ≠ place / 64) →
    ∃ t : State, exec (.routingPayloadArrival port p) s = .next t ∧ t.wire = s.wire ++ [.ack p.source.toNat p.serial (p.offset / 512)] ∧
      (∀ (j : Nat) (y : Spot) (b : Byte) (q : Nat), l[j]? = some y → p.data[j]? = some b → y.place = some q → byteAt t q = b) ∧
      readWord t place wkey = { W with count := BitVec.ofNat 32 (W.count.toNat + p.len) }

/-- R42: after a device reset, and in the state from which every run begins, no fibre exists, every warp slot is empty, and no register line is held. The rest of
the reset state: nothing is registered, admitted, queued or mapped, every counter is 0, the boot ROM is at stage 1, and the limits are those of R366 to R368.
Where the rules leave a point open it follows the model's own choices (assumptions 4 and 5). -/
def Obligations.ResetState : Prop :=
  (∀ t : State, t = State.reset ∨ (∃ s : State, exec .deviceReset s = .next t) →
    (∀ k, lookup t.fibres k = none) ∧ (∀ k m, lookup (slotOf t k).lines m = none) ∧ (∀ k, lookup t.crews k = none) ∧ (∀ k, lookup t.contexts k = none) ∧
      (∀ k, (bankOf t k).state = .empty ∧ (bankOf t k).store = []) ∧ t.queue = [] ∧ t.tlb = [] ∧
      (∀ i : Fin 64, t.counters[i] = { select := 0, value := 0 }) ∧ t.health.powerLimit = 3200 ∧ t.health.clockLimit = 1050 ∧ t.health.throttle = 105) ∧
  (∀ s : State, ∃ t : State, exec .deviceReset s = .next t) ∧
  State.reset.boot.stage = 1 ∧ State.reset.boot.fails = 0 ∧ State.reset.boot.harbour = false ∧ ∀ p, byteAt State.reset p = 0#8

/-- The reset state's memory, and the store of every bank, are in canonical form (the model's own form of memory, assumption 5). -/
def Obligations.ResetIsCanonical : Prop := Canonical State.reset

/-- R21, R43, R50, R118: a turn of a stream runs the instruction that the bytes at SPC or LPC decode to. A scalar turn fetches four bytes, or runs again the word
that waits at SPC; a lane turn fetches twelve of the clause taken; a word that decodes to nothing raises ILLEGAL_INSTR (R60). An event's turn runs the event.
After the instruction only releases by landing words and time pass (the model's own order of turns, assumption 2). -/
def Obligations.StepRunsTheDecodedInstruction : Prop :=
  (∀ (s : State) (g : Nat) (rest : List Turn) (f : Fibre) (w : Crew) (e : Env) (l : List Spot) (bytes : List Byte) (word : BitVec 32),
    s.agenda = .scalar g :: rest → Runs { s with cur := g } f w → isCurrent s g = true → scalarReady s g f = true → (f.passWait).sWait = none →
    envOf s w = some e → spots s e f.spc 4 .fetch false = .ok l →
    Seen { s with agenda := rest, cur := g, latch := 0#96 } l bytes → Walks { s with agenda := rest, cur := g, latch := 0#96 } e f.spc 4 →
    (∀ old, w.fetched f.spc ((l.head?.bind (·.place)).getD 0) = some old → old = bytes) → word = BitVec.ofNat 32 (leNat bytes) →
    ∃ (u : State) (f' : Fibre), lookup u.fibres g = some f' ∧ f'.sWait = none ∧ { f' with sWait := f.sWait, fetchOf := f.fetchOf } = f ∧
      (∀ k, k ≠ g → lookup u.fibres k = lookup s.fibres k) ∧ u.cur = g ∧ u.latch = word.setWidth 96 ∧ u.agenda = rest ∧
      (∀ k, (lookup u.crews k).map (fun w => { w with code := [] }) = (lookup s.crews k).map (fun w => { w with code := [] })) ∧ (∀ p, byteAt u p = byteAt s p) ∧
      { u with agenda := s.agenda, cur := s.cur, latch := s.latch, fibres := s.fibres, crews := s.crews, counters := s.counters, tlb := s.tlb, l2 := s.l2 } = s ∧
      (∀ i : Instr, decodeScalar word = .ok i → step s = afterTurn (exec i u)) ∧
      (∀ sub : Subcause, decodeScalar word = .error sub → step s = afterTurn (execIllegalInstr (word.setWidth 96) false sub u))) ∧
  (∀ (s : State) (g : Nat) (rest : List Turn) (f : Fibre) (w : Crew) (i : Instr),
    s.agenda = .scalar g :: rest → Runs { s with cur := g } f w → isCurrent s g = true → scalarReady s g f = true → (f.passWait).sWait.isSome = true →
    (envOf s w).isSome = true → decodeScalar f.waitWord = .ok i →
    step s = afterTurn (exec i { s with agenda := rest, cur := g, latch := f.waitWord.setWidth 96 })) ∧
  (∀ (s : State) (g : Nat) (rest : List Turn) (f : Fibre) (w : Crew) (run : Running) (e : Env) (l : List Spot) (bytes : List Byte) (word : BitVec 96),
    s.agenda = .lane g :: rest → Runs { s with cur := g } f w → isCurrent s g = true → laneReady s g f = true → f.running = some run →
    envOf s w = some e → spots s e f.lpc 12 .fetch false = .ok l →
    Seen { s with agenda := rest, cur := g, latch := 0#96 } l bytes → Walks { s with agenda := rest, cur := g, latch := 0#96 } e f.lpc 12 →
    (∀ old, w.fetched f.lpc ((l.head?.bind (·.place)).getD 0) = some old → old = bytes) → word = BitVec.ofNat 96 (leNat bytes) →
    ∃ (u : State) (f' : Fibre), lookup u.fibres g = some f' ∧ f'.running = some { run with started := true } ∧
      { f' with running := f.running, fetchOf := f.fetchOf } = f ∧ (∀ k, k ≠ g → lookup u.fibres k = lookup s.fibres k) ∧ u.cur = g ∧ u.latch = word ∧ u.agenda = rest ∧
      (∀ k, (lookup u.crews k).map (fun w => { w with code := [] }) = (lookup s.crews k).map (fun w => { w with code := [] })) ∧ (∀ p, byteAt u p = byteAt s p) ∧
      { u with agenda := s.agenda, cur := s.cur, latch := s.latch, fibres := s.fibres, crews := s.crews, counters := s.counters, tlb := s.tlb, l2 := s.l2 } = s ∧
      (∀ (i : Instr) (op : LaneOp) (v : LaneWord), decodeLane word = .ok (op, v) → laneFields i = some (op, v) → step s = afterTurn (exec i u)) ∧
      (∀ sub : Subcause, decodeLane word = .error sub → step s = afterTurn (execIllegalInstr word true sub u))) ∧
  (∀ (s : State) (i : Instr) (rest : List Turn), s.agenda = .event i :: rest → Instr.isEvent i = true → step s = afterTurn (exec i { s with agenda := rest })) ∧
  ∀ t : State, afterTurn (.next t) = .next (passTime (settleLandings t)) ∧
    { passTime t with tick := t.tick, clock := t.clock, time := t.time, ptp := t.ptp, counters := t.counters, crews := t.crews, saved := t.saved } = t ∧
    ∀ k, (lookup (passTime t).crews k).map (fun w => { w with graceClock := 0 }) = (lookup t.crews k).map (fun w => { w with graceClock := 0 })

/-- R43 to R57: words written out from the encoding tables decode to the instructions that they stand for. -/
def Obligations.SampleWordsDecode : Prop :=
  (∀ p ∈ ([(0x0028C380#32, Instr.add false 5#6 6#6 7#6), (0x40280040#32, Instr.addi false 5#6 64#16), (0x600FFFFF#32, Instr.br false 0xFFFFF#20),
      (0x80204C01#32, Instr.ldd false 4#6 2#6 1#10), (0xA0086000#32, Instr.qpush false 1#6 3#6), (0xA8480003#32, Instr.mfsr false 9#6 3#16),
      (0x7C100005#32, Instr.fwait false 5#12), (0xE0400400#32, Instr.rst false 8#6 2#4), (0xF020BE02#32, Instr.phase false 4#6 5#6),
      (0x00000000#32, Instr.add false 0#6 0#6 0#6)] : List (BitVec 32 × Instr)),
    decodeScalar p.1 = .ok p.2 ∧ encodeScalar p.2 = some p.1) ∧
  decodeScalar 0xFFFFFFFF#32 = .error .unassigned ∧
  (∀ p ∈ ([(0x000000000080000000600000#96, LaneOp.iadd, Operand.reg 8#8 false 0#4, Operand.reg 0#8 false 0#4, Operand.reg 1#8 true 0#4, 0#3),
      (0x43C000000001002000400000#96, LaneOp.fcmpor, Operand.pred 2#3, Operand.reg 1#8 false 0#4, Operand.reg 1#8 false 0#4, 0#3),
      (0x460000000000000200000000#96, LaneOp.emand, Operand.unused, Operand.pred 2#3, Operand.unused, 0#3),
      (0x868000008070002000000000#96, LaneOp.redmax, Operand.reg 7#8 false 0#4, Operand.reg 1#8 false 0#4, Operand.unused, 2#3),
      (0x8800000080400020C0060000#96, LaneOp.topk, Operand.reg 4#8 false 0#4, Operand.reg 1#8 false 0#4, Operand.imm 3#13, 2#3),
      (0x800000000060004001400000#96, LaneOp.shfl, Operand.reg 6#8 false 0#4, Operand.reg 2#8 false 0#4, Operand.reg 5#8 false 0#4, 0#3)] :
      List (BitVec 96 × LaneOp × Operand × Operand × Operand × BitVec 3)),
    decodeLane p.1 = .ok (p.2.1, LaneWord.mk false false 0#3 0#12 false 0#3 p.2.2.2.2.2 p.2.2.1 p.2.2.2.1 p.2.2.2.2.1 .unused)) ∧
  decodeHeader 0xFFC5FF000000000000000000#96 = some { len := 5, fa := 15#4, fb := 15#4, wait := 0#12 } ∧
  decodeHeader 0xFFC0FF000000000000000000#96 = none

/-- R43 to R48, R60: every well-formed scalar instruction is what its word decodes to, and a word that decodes to an instruction is the one word of that
well-formed instruction: no bit of a scalar word is dropped, and no two words name one instruction. -/
def Obligations.ScalarWordsRoundTrip : Prop :=
  (∀ (i : Instr) (w : BitVec 32), wellFormed i = true → encodeScalar i = some w → decodeScalar w = .ok i) ∧
  ∀ (w : BitVec 32) (i : Instr), decodeScalar w = .ok i → wellFormed i = true ∧ encodeScalar i = some w

/-- R50 to R57, R60: every well-formed lane instruction is what its word decodes to, and a lane word that decodes is the one word of a well-formed
instruction; a clause header is the one word of its fields, and every header of a length from 1 to 63 and legal flags is what its word decodes to (R51). -/
def Obligations.LaneWordsRoundTrip : Prop :=
  (∀ (i : Instr) (w : BitVec 96), wellFormed i = true → encodeLane i = some w → ∃ x : LaneOp × LaneWord, decodeLane w = .ok x ∧ laneFields i = some x) ∧
  (∀ (w : BitVec 96) (op : LaneOp) (v : LaneWord), decodeLane w = .ok (op, v) → laneWellFormed op v = true ∧ laneWordBits op.opcode v = w ∧
    ∀ i : Instr, laneFields i = some (op, v) → wellFormed i = true ∧ encodeLane i = some w) ∧
  (∀ (w : BitVec 96) (h : Header), decodeHeader w = some h → encodeHeader h = w) ∧
  ∀ h : Header, 1 ≤ h.len → h.len < 64 → flagOk h.fa = true → flagOk h.fb = true → decodeHeader (encodeHeader h) = some h

/-- Whatever instruction or event a step runs, memory and the store of every bank keep their canonical form (the model's own form of memory,
assumption 5): rising addresses, and no entry equal to what an unlisted address reads as, so that equal memories are equal data. -/
def Obligations.StepKeepsCanonical : Prop := ∀ s t : State, Canonical s → step s = .next t → Canonical t

/-- R93, R94: a finite result that does not overflow is rounded to the encoding that its mode names among all finite encodings of its format: RNE the
nearest, a tie to an even code; RZ the largest magnitude not above; RU and RD the nearest bound. Inexact is raised exactly where the value has changed. -/
def Obligations.RoundingPicksTheNamedNeighbour : Prop :=
  ∀ (code : Nat) (fm : Fmt) (neg : Bool) (m : Nat) (e : Int) (sat : Bool) (r : Nat) (q : Int) (X : Int), fmtOf code = some fm → m ≠ 0 → q ≤ e → q ≤ fm.emin - fm.mbits →
    X = (if neg then -((m * 2 ^ (e - q).toNat : Nat) : Int) else ((m * 2 ^ (e - q).toNat : Nat) : Int)) →
    let finite : Nat → Prop := fun y => y < 2 ^ fm.width ∧ (fm.decode y).isNaN = false ∧ ∀ n, fm.decode y ≠ .inf n
    let result : Mode → Nat × Fl := fun rm => fm.round neg { m := m, e := e, sticky := false } rm sat r
    ∀ rm : Mode, rm ≠ .rs → (result rm).2 &&& Fl.overflow = 0#6 →
      finite (result rm).1 ∧ ((result rm).2 &&& Fl.inexact ≠ 0#6 ↔ (fm.decode (result rm).1).at q ≠ X) ∧
        ∀ y, finite y →
          (rm = .rne → (X - (fm.decode (result rm).1).at q).natAbs ≤ (X - (fm.decode y).at q).natAbs ∧
            ((X - (fm.decode (result rm).1).at q).natAbs = (X - (fm.decode y).at q).natAbs → (fm.decode y).at q ≠ (fm.decode (result rm).1).at q → (result rm).1 % 2 = 0)) ∧
          (rm = .rz → 0 ≤ X * (fm.decode (result rm).1).at q ∧ ((fm.decode (result rm).1).at q).natAbs ≤ X.natAbs ∧ (((fm.decode y).at q).natAbs ≤ X.natAbs → ((fm.decode y).at q).natAbs ≤ ((fm.decode (result rm).1).at q).natAbs)) ∧
          (rm = .ru → X ≤ (fm.decode (result rm).1).at q ∧ (X ≤ (fm.decode y).at q → (fm.decode (result rm).1).at q ≤ (fm.decode y).at q)) ∧
          (rm = .rd → (fm.decode (result rm).1).at q ≤ X ∧ ((fm.decode y).at q ≤ X → (fm.decode y).at q ≤ (fm.decode (result rm).1).at q))

/-- R123, R124: SEL writes the one or the other source as its condition is not 0 or is 0, and with condition s0 always B; ADDSH adds its second source
shifted left by 0 to 4. Their words are those of OP 0x03 and 0x04: a SEL with F7[0] set, and an ADDSH with F7[6:3] not 0, is no instruction with
subcause RESERVED, an ADDSH of 5 to 7 is none with subcause RANGE. -/
def Obligations.SelectAndScaledAdd : Prop :=
  (∀ (s : State) (f : Fibre) (w : Crew) (sw : Bool) (d a b c : BitVec 6), Runs s f w → Ready f [a, b, c] →
    ∃ (t : State) (f' : Fibre), exec (.sel sw d a b c) s = .next t ∧ Becomes s t f' 1 0 ∧
      Wrote f f' d (if f.readS c ≠ 0#64 then f.readS a else f.readS b) ∧ (c = 0#6 → Wrote f f' d (f.readS b))) ∧
  (∀ (s : State) (f : Fibre) (w : Crew) (sw : Bool) (d a b : BitVec 6) (sh : BitVec 3), Runs s f w → Ready f [a, b] →
    ∃ (t : State) (f' : Fibre), exec (.addsh sw d a b sh) s = .next t ∧ Becomes s t f' 1 0 ∧
      Wrote f f' d (BitVec.ofNat 64 ((f.readS a).toNat + (f.readS b).toNat * 2 ^ sh.toNat))) ∧
  ∀ (x : BitVec 1) (d a b : BitVec 6) (k : BitVec 7),
    decodeScalar (0x03#6 ++ x ++ d ++ a ++ b ++ k) = (if k.getLsbD 0 = true then .error .reserved else .ok (.sel (x == 1#1) d a b (k.extractLsb' 1 6))) ∧
    decodeScalar (0x04#6 ++ x ++ d ++ a ++ b ++ k) =
      (if 8 ≤ k.toNat then .error .reserved else if 4 < k.toNat then .error .range else .ok (.addsh (x == 1#1) d a b (k.setWidth 3)))

/-- R126: MOVI writes its immediate, sign-extended; MOVK writes its immediate to 16 bits of D and leaves the other 48. Their words are those of OP 0x11:
F3 = 0 is MOVI, F3 = 4 + k is MOVK, and F3 = 1 to 3 is no instruction, with subcause UNASSIGNED. -/
def Obligations.ImmediateMoves : Prop :=
  (∀ (s : State) (f : Fibre) (w : Crew) (sw : Bool) (d : BitVec 6) (m : BitVec 16), Runs s f w →
    ∃ (t : State) (f' : Fibre), exec (.movi sw d m) s = .next t ∧ Becomes s t f' 1 0 ∧ Wrote f f' d (BitVec.ofInt 64 m.toInt)) ∧
  (∀ (s : State) (f : Fibre) (w : Crew) (sw : Bool) (d : BitVec 6) (k : BitVec 2) (m : BitVec 16), Runs s f w → Ready f [d] →
    ∃ (t : State) (f' : Fibre) (v : Word), exec (.movk sw d k m) s = .next t ∧ Becomes s t f' 1 0 ∧ Wrote f f' d v ∧
      ∀ i < 64, v.getLsbD i = if 16 * k.toNat ≤ i ∧ i < 16 * k.toNat + 16 then m.getLsbD (i - 16 * k.toNat) else (f.readS d).getLsbD i) ∧
  ∀ (x : BitVec 1) (d : BitVec 6) (k : BitVec 3) (m : BitVec 16),
    decodeScalar (0x11#6 ++ x ++ d ++ k ++ m) =
      (if k = 0#3 then .ok (.movi (x == 1#1) d m) else if 4 ≤ k.toNat then .ok (.movk (x == 1#1) d (k.setWidth 2) m) else .error .unassigned)

/-- R85, R86, R93, R94, R95, R96, R156, R158: FADD, FSUB, FMUL, FFMA, FDIV, FSQRT and FRCP of finite operands give the exact sum, difference, product, product and sum,
quotient, root or reciprocal, rounded once, or what R95 gives where that overflows; what NaNs, infinities and zeros give, with the flags; and of FRSQ, FEXP2 and FLOG2 what the
table of R158 calls exact or gives as special values, with FRSQ within one ulp. -/
def Obligations.FloatingPointIsTheExactResultRounded : Prop :=
  ∀ fm ∈ [Fmt.fp32, Fmt.fp16, Fmt.bf16], ∀ (a b c : Nat) (rm : Mode) (sat : Bool) (r : Nat),
    (fm.Finite a → fm.Finite b → fm.IsResult rm sat (fm.real a + fm.real b) (fm.add a b rm sat r) ∧ fm.IsResult rm sat (fm.real a - fm.real b) (fm.sub a b rm sat r) ∧
      fm.IsResult rm sat (fm.real a * fm.real b) (fm.mul a b rm sat r) ∧
      (fm.Finite c → fm.IsResult rm sat (fm.real a * fm.real b + fm.real c) (fm.fma a b c rm sat r)) ∧
      (fm.real b ≠ 0 → fm.IsResult rm sat (fm.real a / fm.real b) (fm.div a b rm sat r))) ∧
    (fm.Finite a → 0 ≤ fm.real a → fm.IsResult rm sat (Real.sqrt (fm.real a)) (fm.sqrt a rm sat r)) ∧
    (fm.Finite a → fm.real a ≠ 0 → fm.IsResult .rne false (fm.real a)⁻¹ (fm.frcp a)) ∧
    (∀ x y z, x = fm.decode a → y = fm.decode b → z = fm.decode c →
      (x.isNaN = true ∨ y.isNaN = true → ∀ v, v = (fm.canonicalNaN, invalidIf (x.isSignalling || y.isSignalling)) →
        fm.add a b rm sat r = v ∧ fm.sub a b rm sat r = v ∧ fm.mul a b rm sat r = v ∧ fm.div a b rm sat r = v) ∧
      (x.isNaN = true ∨ y.isNaN = true ∨ z.isNaN = true → fm.fma a b c rm sat r = (fm.canonicalNaN, invalidIf (x.isSignalling || y.isSignalling || z.isSignalling ||
        (match x, y with | .inf _, .zero _ => true | .zero _, .inf _ => true | _, _ => false)))) ∧
      (x.isNaN = true → ∀ v, v = (fm.canonicalNaN, invalidIf x.isSignalling) → fm.sqrt a rm sat r = v ∧ fm.frcp a = v ∧ fm.frsq a = v ∧ fm.fexp2 a = v ∧ fm.flog2 a = v) ∧
      (∀ n k, x = .inf n → y = .inf k →
        fm.add a b rm sat r = (if n = k then (fm.sign n (fm.inf.getD 0), 0#6) else (fm.canonicalNaN, Fl.invalid)) ∧
        fm.sub a b rm sat r = (if n = k then (fm.canonicalNaN, Fl.invalid) else (fm.sign n (fm.inf.getD 0), 0#6)) ∧
        fm.mul a b rm sat r = (fm.sign (n != k) (fm.inf.getD 0), 0#6) ∧ fm.div a b rm sat r = (fm.canonicalNaN, Fl.invalid)) ∧
      (∀ n, x = .inf n → fm.Finite b → fm.add a b rm sat r = (fm.sign n (fm.inf.getD 0), 0#6) ∧ fm.add b a rm sat r = (fm.sign n (fm.inf.getD 0), 0#6) ∧
        fm.sub a b rm sat r = (fm.sign n (fm.inf.getD 0), 0#6) ∧ fm.sub b a rm sat r = (fm.sign (!n) (fm.inf.getD 0), 0#6) ∧
        fm.div a b rm sat r = (fm.sign (n != y.negative) (fm.inf.getD 0), 0#6) ∧ fm.div b a rm sat r = (fm.sign (n != y.negative) 0, 0#6) ∧
        (fm.real b ≠ 0 → fm.mul a b rm sat r = (fm.sign (n != y.negative) (fm.inf.getD 0), 0#6)) ∧
        (fm.real b = 0 → fm.mul a b rm sat r = (fm.canonicalNaN, Fl.invalid) ∧ fm.mul b a rm sat r = (fm.canonicalNaN, Fl.invalid))) ∧
      (fm.Finite a → fm.Finite b → fm.real b = 0 → (fm.real a = 0 → fm.div a b rm sat r = (fm.canonicalNaN, Fl.invalid)) ∧
        (fm.real a ≠ 0 → fm.div a b rm sat r = (fm.sign (x.negative != y.negative) (fm.inf.getD 0), Fl.divzero))) ∧
      (∀ n k, x = .zero n → y = .zero k → (fm.add a b rm sat r).1 = fm.sign (if n = k then n else decide (rm = .rd)) 0) ∧
      (fm.real a < 0 ∨ x = .inf true → fm.sqrt a rm sat r = (fm.canonicalNaN, Fl.invalid) ∧ fm.frsq a = (fm.canonicalNaN, Fl.invalid) ∧ fm.flog2 a = (fm.canonicalNaN, Fl.invalid)) ∧
      (∀ n, x = .zero n → fm.sqrt a rm sat r = (fm.sign n 0, 0#6) ∧ fm.frcp a = (fm.sign n (fm.inf.getD 0), Fl.divzero) ∧ fm.frsq a = (fm.sign n (fm.inf.getD 0), Fl.divzero) ∧
        fm.flog2 a = (fm.sign true (fm.inf.getD 0), Fl.divzero) ∧ fm.real (fm.fexp2 a).1 = 1 ∧ (fm.fexp2 a).2 = 0#6 ∧ fm.fsincos false a = (fm.sign n 0, 0#6) ∧
        fm.real (fm.fsincos true a).1 = 1 ∧ (fm.fsincos true a).2 = 0#6 ∧ fm.ftanh a = (fm.sign n 0, 0#6)) ∧
      (∀ n, x = .inf n → fm.frcp a = (fm.sign n 0, 0#6) ∧ (n = false → fm.sqrt a rm sat r = (fm.inf.getD 0, 0#6) ∧ fm.frsq a = (0, 0#6) ∧ fm.flog2 a = (fm.inf.getD 0, 0#6)) ∧
        fm.fexp2 a = (if n then (0, 0#6) else (fm.inf.getD 0, 0#6)) ∧ (∀ cos, fm.fsincos cos a = (fm.canonicalNaN, Fl.invalid)) ∧
        fm.real (fm.ftanh a).1 = (if n then -1 else 1) ∧ (fm.ftanh a).2 = 0#6)) ∧
    (fm.Finite a → 0 < fm.real a → fm.Finite (fm.frsq a).1 ∧ |fm.real (fm.frsq a).1 - (Real.sqrt (fm.real a))⁻¹| ≤ fm.ulpAt (Real.sqrt (fm.real a))⁻¹ ∧
      (fm.frsq a).2 &&& Fl.inexact ≠ 0#6) ∧
    (∀ n : Int, fm.Finite a → fm.real a = n → fm.emin - fm.mbits ≤ n → (2 : ℝ) ^ n ≤ fm.real fm.maxCode → fm.real (fm.fexp2 a).1 = (2 : ℝ) ^ n ∧ (fm.fexp2 a).2 = 0#6) ∧
    ∀ n : Int, fm.Finite a → fm.real a = (2 : ℝ) ^ n → fm.real (fm.flog2 a).1 = n ∧ (fm.flog2 a).2 = 0#6

/-- R158: the long-latency functions of a finite operand lie within the bounds of their table: FEXP2, FLOG2 and FTANH within two ulp, FSIN and FCOS within 2^-22, to which the
16-bit format adds half an ulp (assumption 18), and each finite result that the table does not call exact sets inexact; a non-zero one below the smallest normal sets underflow. -/
def Obligations.FunctionsLieWithinTheirBounds : Prop :=
  ∀ fm ∈ [Fmt.fp32, Fmt.fp16], ∀ a : Nat, fm.Finite a → fm.real a ≠ 0 →
    (∀ (v : Nat × Fl) (x : ℝ), v = fm.fexp2 a ∧ x = (2 : ℝ) ^ fm.real a ∧ v.2 &&& Fl.overflow = 0#6 ∨ v = fm.flog2 a ∧ x = Real.logb 2 (fm.real a) ∧ 0 < fm.real a ∨
        v = fm.ftanh a ∧ x = Real.tanh (fm.real a) → fm.Finite v.1 ∧ |fm.real v.1 - x| ≤ 2 * fm.ulpAt x) ∧
    (∀ (v : Nat × Fl) (x : ℝ), v = fm.fsincos false a ∧ x = Real.sin (fm.real a) ∨ v = fm.fsincos true a ∧ x = Real.cos (fm.real a) →
      fm.Finite v.1 ∧ |fm.real v.1 - x| ≤ (2 : ℝ) ^ (-22 : Int) + (if fm.width = 32 then 0 else fm.ulpAt x / 2)) ∧
    ∀ v : Nat × Fl, v = fm.fexp2 a ∧ (∀ n : Int, fm.real a ≠ n) ∧ v.2 &&& Fl.overflow = 0#6 ∨ v = fm.flog2 a ∧ 0 < fm.real a ∧ (∀ n : Int, fm.real a ≠ (2 : ℝ) ^ n) ∨
        v = fm.ftanh a ∨ v = fm.fsincos false a ∨ v = fm.fsincos true a →
      v.2 &&& Fl.inexact ≠ 0#6 ∧ (v.2 &&& Fl.underflow ≠ 0#6 ↔ fm.real v.1 ≠ 0 ∧ |fm.real v.1| < (2 : ℝ) ^ fm.emin)
end

