-- ==== Sys2Proof/Laws/Tab.lean ====
section
/-! SUPPORT. What the operations on sparse tables and on tables of bytes do. -/

namespace Sys2Proof.Machine

variable {α : Type}

@[simp] theorem lookup_nil (k : Nat) : lookup ([] : Tab α) k = none := rfl

/-- What `put` leaves at every key. -/
@[simp] theorem lookup_put (t : Tab α) (k j : Nat) (v : α) : lookup (put t k v) j = if k = j then some v else lookup t j := by
  induction t with
  | nil => simp [put, lookup]
  | cons c r ih =>
    obtain ⟨i, x⟩ := c
    simp only [put]
    split
    · simp [lookup]
    · split
      · subst_vars; simp only [lookup]; split <;> simp_all
      · simp only [lookup, ih]; split <;> split <;> simp_all

/-- What `del` leaves at every key. -/
@[simp] theorem lookup_del (t : Tab α) (k j : Nat) : lookup (del t k) j = if k = j then none else lookup t j := by
  induction t with
  | nil => simp [del, lookup]
  | cons c r ih =>
    obtain ⟨i, x⟩ := c
    have ih' : lookup (r.filter fun x => x.1 != k) j = if k = j then none else lookup r j := ih
    by_cases h : i = k
    · subst h; simp only [del, List.filter, lookup, bne_self_eq_false, ih']; split <;> rfl
    · have hb : (i != k) = true := by simpa using h
      simp only [del, List.filter, hb, lookup, ih']
      split <;> split <;> simp_all

/-- What `alter` leaves at every key. -/
@[simp] theorem lookup_alter (t : Tab α) (k j : Nat) (f : α → α) :
    lookup (alter t k f) j = if k = j then (lookup t k).map f else lookup t j := by
  unfold alter
  cases h : lookup t k with
  | none => by_cases e : k = j <;> simp_all
  | some x => simp

/-- What `putByte` leaves at every address. -/
@[simp] theorem byteOf_putByte (t : Tab Byte) (k j : Nat) (v : Byte) :
    byteOf (putByte t k v) j = if k = j then v else byteOf t j := by
  unfold byteOf putByte lookupD
  by_cases h : v = 0#8 <;> simp only [h, if_true, if_false, lookup_del, lookup_put] <;> split <;> simp_all

/-- A key strictly below every key of a table. -/
def Below (k : Nat) (t : Tab α) : Prop := ∀ c ∈ t, k < c.1

theorem rising_cons (k : Nat) (x : α) (t : Tab α) : rising ((k, x) :: t) = true ↔ Below k t ∧ rising t = true := by
  induction t generalizing k x with
  | nil => simp [rising, Below]
  | cons c r ih =>
    obtain ⟨j, y⟩ := c
    have := ih j y
    simp only [rising, Bool.and_eq_true, decide_eq_true_eq, Below, List.forall_mem_cons] at *
    constructor
    · rintro ⟨h, h'⟩
      exact ⟨⟨h, fun c hc => lt_trans h ((this.1 h').1 c hc)⟩, h'⟩
    · rintro ⟨⟨h, -⟩, h'⟩
      exact ⟨h, h'⟩

theorem mem_put (t : Tab α) (k : Nat) (v : α) {c : Nat × α} (h : c ∈ put t k v) : c = (k, v) ∨ c ∈ t := by
  induction t with
  | nil => simpa [put] using h
  | cons d r ih =>
    obtain ⟨j, x⟩ := d
    simp only [put] at h
    split at h
    · simpa using h
    · split at h
      · simp only [List.mem_cons] at h ⊢; tauto
      · simp only [List.mem_cons] at h ⊢
        rcases h with h | h
        · exact .inr (.inl h)
        · rcases ih h with h | h <;> simp [h]

/-- `put` keeps keys strictly rising. -/
theorem rising_put (t : Tab α) (k : Nat) (v : α) (h : rising t = true) : rising (put t k v) = true := by
  induction t with
  | nil => rfl
  | cons c r ih =>
    obtain ⟨j, x⟩ := c
    have hr := (rising_cons j x r).1 h
    simp only [put]
    split
    · rename_i hk
      refine (rising_cons _ _ _).2 ⟨?_, h⟩
      intro d hd
      rcases List.mem_cons.1 hd with rfl | hd
      · exact hk
      · exact lt_trans hk (hr.1 d hd)
    · split
      · rename_i hk; subst hk; exact (rising_cons _ _ _).2 hr
      · rename_i h1 h2
        refine (rising_cons _ _ _).2 ⟨?_, ih hr.2⟩
        intro d hd
        rcases mem_put r k v hd with rfl | hd
        · show j < k
          omega
        · exact hr.1 d hd

/-- A filtered table keeps keys strictly rising. -/
theorem rising_filter (t : Tab α) (p : Nat × α → Bool) (h : rising t = true) : rising (t.filter p) = true := by
  induction t with
  | nil => rfl
  | cons c r ih =>
    obtain ⟨j, x⟩ := c
    have hr := (rising_cons j x r).1 h
    simp only [List.filter]
    split
    · exact (rising_cons _ _ _).2 ⟨fun d hd => hr.1 d (List.mem_of_mem_filter hd), ih hr.2⟩
    · exact ih hr.2

/-- A byte written keeps the canonical form of a memory. -/
theorem wf_putByte (t : Tab Byte) (k : Nat) (v : Byte) (h : Memory.wf t = true) : Memory.wf (putByte t k v) = true := by
  simp only [Memory.wf, Bool.and_eq_true, List.all_eq_true] at h ⊢
  unfold putByte
  split
  · exact ⟨rising_filter t _ h.1, fun c hc => h.2 c (List.mem_of_mem_filter hc)⟩
  · rename_i hv
    refine ⟨rising_put t k v h.1, fun c hc => ?_⟩
    rcases mem_put t k v hc with rfl | hc
    · simpa using hv
    · exact h.2 c hc

/-- A filtered memory keeps its canonical form. -/
theorem wf_filter (t : Tab Byte) (p : Nat × Byte → Bool) (h : Memory.wf t = true) : Memory.wf (t.filter p) = true := by
  simp only [Memory.wf, Bool.and_eq_true, List.all_eq_true] at h ⊢
  exact ⟨rising_filter t p h.1, fun c hc => h.2 c (List.mem_of_mem_filter hc)⟩

/-- Bytes written keep the canonical form of a memory. -/
theorem wf_putBytes (l : List Byte) (t : Tab Byte) (a : Nat) (h : Memory.wf t = true) : Memory.wf (putBytes t a l) = true := by
  induction l generalizing t a with
  | nil => exact h
  | cons b r ih => exact ih _ _ (wf_putByte t a b h)

/-- A key below every key of a table is not in it. -/
theorem lookup_of_below (t : Tab α) (k : Nat) (h : Below k t) : lookup t k = none := by
  induction t with
  | nil => rfl
  | cons c r ih =>
    obtain ⟨j, x⟩ := c
    have hj : k < j := h (j, x) (by simp)
    simp only [lookup]
    rw [if_neg (by omega)]
    exact ih (fun d hd => h d (List.mem_cons_of_mem _ hd))

end Sys2Proof.Machine
end

