-- ==== Sys2Proof/Laws/State.lean ====
section
/-! SUPPORT. One lemma per field per update: what the named updates of State and Fibre leave as it was. -/

namespace Sys2Proof.Machine


/-! ### setFibre -/

@[simp] theorem setFibre_tick (s : State) (k : Nat) (f : Fibre) : (setFibre s k f).tick = s.tick := rfl
@[simp] theorem setFibre_clock (s : State) (k : Nat) (f : Fibre) : (setFibre s k f).clock = s.clock := rfl
@[simp] theorem setFibre_time (s : State) (k : Nat) (f : Fibre) : (setFibre s k f).time = s.time := rfl
@[simp] theorem setFibre_agenda (s : State) (k : Nat) (f : Fibre) : (setFibre s k f).agenda = s.agenda := rfl
@[simp] theorem setFibre_cur (s : State) (k : Nat) (f : Fibre) : (setFibre s k f).cur = s.cur := rfl
@[simp] theorem setFibre_latch (s : State) (k : Nat) (f : Fibre) : (setFibre s k f).latch = s.latch := rfl
@[simp] theorem setFibre_mem (s : State) (k : Nat) (f : Fibre) : (setFibre s k f).mem = s.mem := rfl
@[simp] theorem setFibre_memLatent (s : State) (k : Nat) (f : Fibre) : (setFibre s k f).memLatent = s.memLatent := rfl
@[simp] theorem setFibre_poison (s : State) (k : Nat) (f : Fibre) : (setFibre s k f).poison = s.poison := rfl
@[simp] theorem setFibre_ciphered (s : State) (k : Nat) (f : Fibre) : (setFibre s k f).ciphered = s.ciphered := rfl
@[simp] theorem setFibre_plainSectors (s : State) (k : Nat) (f : Fibre) : (setFibre s k f).plainSectors = s.plainSectors := rfl
@[simp] theorem setFibre_tlb (s : State) (k : Nat) (f : Fibre) : (setFibre s k f).tlb = s.tlb := rfl
@[simp] theorem setFibre_l2 (s : State) (k : Nat) (f : Fibre) : (setFibre s k f).l2 = s.l2 := rfl
@[simp] theorem setFibre_slots (s : State) (k : Nat) (f : Fibre) : (setFibre s k f).slots = s.slots := rfl
@[simp] theorem setFibre_banks (s : State) (k : Nat) (f : Fibre) : (setFibre s k f).banks = s.banks := rfl
@[simp] theorem setFibre_crews (s : State) (k : Nat) (f : Fibre) : (setFibre s k f).crews = s.crews := rfl
@[simp] theorem setFibre_cores (s : State) (k : Nat) (f : Fibre) : (setFibre s k f).cores = s.cores := rfl
@[simp] theorem setFibre_lost (s : State) (k : Nat) (f : Fibre) : (setFibre s k f).lost = s.lost := rfl
@[simp] theorem setFibre_keptOutClusters (s : State) (k : Nat) (f : Fibre) : (setFibre s k f).keptOutClusters = s.keptOutClusters := rfl
@[simp] theorem setFibre_decks (s : State) (k : Nat) (f : Fibre) : (setFibre s k f).decks = s.decks := rfl
@[simp] theorem setFibre_engines (s : State) (k : Nat) (f : Fibre) : (setFibre s k f).engines = s.engines := rfl
@[simp] theorem setFibre_nextSerial (s : State) (k : Nat) (f : Fibre) : (setFibre s k f).nextSerial = s.nextSerial := rfl
@[simp] theorem setFibre_saved (s : State) (k : Nat) (f : Fibre) : (setFibre s k f).saved = s.saved := rfl
@[simp] theorem setFibre_contexts (s : State) (k : Nat) (f : Fibre) : (setFibre s k f).contexts = s.contexts := rfl
@[simp] theorem setFibre_partitions (s : State) (k : Nat) (f : Fibre) : (setFibre s k f).partitions = s.partitions := rfl
@[simp] theorem setFibre_keySerial (s : State) (k : Nat) (f : Fibre) : (setFibre s k f).keySerial = s.keySerial := rfl
@[simp] theorem setFibre_queue (s : State) (k : Nat) (f : Fibre) : (setFibre s k f).queue = s.queue := rfl
@[simp] theorem setFibre_launches (s : State) (k : Nat) (f : Fibre) : (setFibre s k f).launches = s.launches := rfl
@[simp] theorem setFibre_sealCounters (s : State) (k : Nat) (f : Fibre) : (setFibre s k f).sealCounters = s.sealCounters := rfl
@[simp] theorem setFibre_dies (s : State) (k : Nat) (f : Fibre) : (setFibre s k f).dies = s.dies := rfl
@[simp] theorem setFibre_memArmed (s : State) (k : Nat) (f : Fibre) : (setFibre s k f).memArmed = s.memArmed := rfl
@[simp] theorem setFibre_fabricOps (s : State) (k : Nat) (f : Fibre) : (setFibre s k f).fabricOps = s.fabricOps := rfl
@[simp] theorem setFibre_flushes (s : State) (k : Nat) (f : Fibre) : (setFibre s k f).flushes = s.flushes := rfl
@[simp] theorem setFibre_wire (s : State) (k : Nat) (f : Fibre) : (setFibre s k f).wire = s.wire := rfl
@[simp] theorem setFibre_ports (s : State) (k : Nat) (f : Fibre) : (setFibre s k f).ports = s.ports := rfl
@[simp] theorem setFibre_ptp (s : State) (k : Nat) (f : Fibre) : (setFibre s k f).ptp = s.ptp := rfl
@[simp] theorem setFibre_ptpInBounds (s : State) (k : Nat) (f : Fibre) : (setFibre s k f).ptpInBounds = s.ptpInBounds := rfl
@[simp] theorem setFibre_coordinators (s : State) (k : Nat) (f : Fibre) : (setFibre s k f).coordinators = s.coordinators := rfl
@[simp] theorem setFibre_heldJoined (s : State) (k : Nat) (f : Fibre) : (setFibre s k f).heldJoined = s.heldJoined := rfl
@[simp] theorem setFibre_pauses (s : State) (k : Nat) (f : Fibre) : (setFibre s k f).pauses = s.pauses := rfl
@[simp] theorem setFibre_sessions (s : State) (k : Nat) (f : Fibre) : (setFibre s k f).sessions = s.sessions := rfl
@[simp] theorem setFibre_tokens (s : State) (k : Nat) (f : Fibre) : (setFibre s k f).tokens = s.tokens := rfl
@[simp] theorem setFibre_earlyHeaders (s : State) (k : Nat) (f : Fibre) : (setFibre s k f).earlyHeaders = s.earlyHeaders := rfl
@[simp] theorem setFibre_flights (s : State) (k : Nat) (f : Fibre) : (setFibre s k f).flights = s.flights := rfl
@[simp] theorem setFibre_shutSessions (s : State) (k : Nat) (f : Fibre) : (setFibre s k f).shutSessions = s.shutSessions := rfl
@[simp] theorem setFibre_mailbox (s : State) (k : Nat) (f : Fibre) : (setFibre s k f).mailbox = s.mailbox := rfl
@[simp] theorem setFibre_submissions (s : State) (k : Nat) (f : Fibre) : (setFibre s k f).submissions = s.submissions := rfl
@[simp] theorem setFibre_keySlots (s : State) (k : Nat) (f : Fibre) : (setFibre s k f).keySlots = s.keySlots := rfl
@[simp] theorem setFibre_counters (s : State) (k : Nat) (f : Fibre) : (setFibre s k f).counters = s.counters := rfl
@[simp] theorem setFibre_boot (s : State) (k : Nat) (f : Fibre) : (setFibre s k f).boot = s.boot := rfl
@[simp] theorem setFibre_health (s : State) (k : Nat) (f : Fibre) : (setFibre s k f).health = s.health := rfl
@[simp] theorem setFibre_msix (s : State) (k : Nat) (f : Fibre) : (setFibre s k f).msix = s.msix := rfl
@[simp] theorem setFibre_reports (s : State) (k : Nat) (f : Fibre) : (setFibre s k f).reports = s.reports := rfl
@[simp] theorem setFibre_rangeBase (s : State) (k : Nat) (f : Fibre) : (setFibre s k f).rangeBase = s.rangeBase := rfl
@[simp] theorem setFibre_hostRead (s : State) (k : Nat) (f : Fibre) : (setFibre s k f).hostRead = s.hostRead := rfl

/-! ### onFibre -/

@[simp] theorem onFibre_tick (s : State) (k : Nat) (g : Fibre → Fibre) : (onFibre s k g).tick = s.tick := rfl
@[simp] theorem onFibre_clock (s : State) (k : Nat) (g : Fibre → Fibre) : (onFibre s k g).clock = s.clock := rfl
@[simp] theorem onFibre_time (s : State) (k : Nat) (g : Fibre → Fibre) : (onFibre s k g).time = s.time := rfl
@[simp] theorem onFibre_agenda (s : State) (k : Nat) (g : Fibre → Fibre) : (onFibre s k g).agenda = s.agenda := rfl
@[simp] theorem onFibre_cur (s : State) (k : Nat) (g : Fibre → Fibre) : (onFibre s k g).cur = s.cur := rfl
@[simp] theorem onFibre_latch (s : State) (k : Nat) (g : Fibre → Fibre) : (onFibre s k g).latch = s.latch := rfl
@[simp] theorem onFibre_mem (s : State) (k : Nat) (g : Fibre → Fibre) : (onFibre s k g).mem = s.mem := rfl
@[simp] theorem onFibre_memLatent (s : State) (k : Nat) (g : Fibre → Fibre) : (onFibre s k g).memLatent = s.memLatent := rfl
@[simp] theorem onFibre_poison (s : State) (k : Nat) (g : Fibre → Fibre) : (onFibre s k g).poison = s.poison := rfl
@[simp] theorem onFibre_ciphered (s : State) (k : Nat) (g : Fibre → Fibre) : (onFibre s k g).ciphered = s.ciphered := rfl
@[simp] theorem onFibre_plainSectors (s : State) (k : Nat) (g : Fibre → Fibre) : (onFibre s k g).plainSectors = s.plainSectors := rfl
@[simp] theorem onFibre_tlb (s : State) (k : Nat) (g : Fibre → Fibre) : (onFibre s k g).tlb = s.tlb := rfl
@[simp] theorem onFibre_l2 (s : State) (k : Nat) (g : Fibre → Fibre) : (onFibre s k g).l2 = s.l2 := rfl
@[simp] theorem onFibre_slots (s : State) (k : Nat) (g : Fibre → Fibre) : (onFibre s k g).slots = s.slots := rfl
@[simp] theorem onFibre_banks (s : State) (k : Nat) (g : Fibre → Fibre) : (onFibre s k g).banks = s.banks := rfl
@[simp] theorem onFibre_crews (s : State) (k : Nat) (g : Fibre → Fibre) : (onFibre s k g).crews = s.crews := rfl
@[simp] theorem onFibre_cores (s : State) (k : Nat) (g : Fibre → Fibre) : (onFibre s k g).cores = s.cores := rfl
@[simp] theorem onFibre_lost (s : State) (k : Nat) (g : Fibre → Fibre) : (onFibre s k g).lost = s.lost := rfl
@[simp] theorem onFibre_keptOutClusters (s : State) (k : Nat) (g : Fibre → Fibre) : (onFibre s k g).keptOutClusters = s.keptOutClusters := rfl
@[simp] theorem onFibre_decks (s : State) (k : Nat) (g : Fibre → Fibre) : (onFibre s k g).decks = s.decks := rfl
@[simp] theorem onFibre_engines (s : State) (k : Nat) (g : Fibre → Fibre) : (onFibre s k g).engines = s.engines := rfl
@[simp] theorem onFibre_nextSerial (s : State) (k : Nat) (g : Fibre → Fibre) : (onFibre s k g).nextSerial = s.nextSerial := rfl
@[simp] theorem onFibre_saved (s : State) (k : Nat) (g : Fibre → Fibre) : (onFibre s k g).saved = s.saved := rfl
@[simp] theorem onFibre_contexts (s : State) (k : Nat) (g : Fibre → Fibre) : (onFibre s k g).contexts = s.contexts := rfl
@[simp] theorem onFibre_partitions (s : State) (k : Nat) (g : Fibre → Fibre) : (onFibre s k g).partitions = s.partitions := rfl
@[simp] theorem onFibre_keySerial (s : State) (k : Nat) (g : Fibre → Fibre) : (onFibre s k g).keySerial = s.keySerial := rfl
@[simp] theorem onFibre_queue (s : State) (k : Nat) (g : Fibre → Fibre) : (onFibre s k g).queue = s.queue := rfl
@[simp] theorem onFibre_launches (s : State) (k : Nat) (g : Fibre → Fibre) : (onFibre s k g).launches = s.launches := rfl
@[simp] theorem onFibre_sealCounters (s : State) (k : Nat) (g : Fibre → Fibre) : (onFibre s k g).sealCounters = s.sealCounters := rfl
@[simp] theorem onFibre_dies (s : State) (k : Nat) (g : Fibre → Fibre) : (onFibre s k g).dies = s.dies := rfl
@[simp] theorem onFibre_memArmed (s : State) (k : Nat) (g : Fibre → Fibre) : (onFibre s k g).memArmed = s.memArmed := rfl
@[simp] theorem onFibre_fabricOps (s : State) (k : Nat) (g : Fibre → Fibre) : (onFibre s k g).fabricOps = s.fabricOps := rfl
@[simp] theorem onFibre_flushes (s : State) (k : Nat) (g : Fibre → Fibre) : (onFibre s k g).flushes = s.flushes := rfl
@[simp] theorem onFibre_wire (s : State) (k : Nat) (g : Fibre → Fibre) : (onFibre s k g).wire = s.wire := rfl
@[simp] theorem onFibre_ports (s : State) (k : Nat) (g : Fibre → Fibre) : (onFibre s k g).ports = s.ports := rfl
@[simp] theorem onFibre_ptp (s : State) (k : Nat) (g : Fibre → Fibre) : (onFibre s k g).ptp = s.ptp := rfl
@[simp] theorem onFibre_ptpInBounds (s : State) (k : Nat) (g : Fibre → Fibre) : (onFibre s k g).ptpInBounds = s.ptpInBounds := rfl
@[simp] theorem onFibre_coordinators (s : State) (k : Nat) (g : Fibre → Fibre) : (onFibre s k g).coordinators = s.coordinators := rfl
@[simp] theorem onFibre_heldJoined (s : State) (k : Nat) (g : Fibre → Fibre) : (onFibre s k g).heldJoined = s.heldJoined := rfl
@[simp] theorem onFibre_pauses (s : State) (k : Nat) (g : Fibre → Fibre) : (onFibre s k g).pauses = s.pauses := rfl
@[simp] theorem onFibre_sessions (s : State) (k : Nat) (g : Fibre → Fibre) : (onFibre s k g).sessions = s.sessions := rfl
@[simp] theorem onFibre_tokens (s : State) (k : Nat) (g : Fibre → Fibre) : (onFibre s k g).tokens = s.tokens := rfl
@[simp] theorem onFibre_earlyHeaders (s : State) (k : Nat) (g : Fibre → Fibre) : (onFibre s k g).earlyHeaders = s.earlyHeaders := rfl
@[simp] theorem onFibre_flights (s : State) (k : Nat) (g : Fibre → Fibre) : (onFibre s k g).flights = s.flights := rfl
@[simp] theorem onFibre_shutSessions (s : State) (k : Nat) (g : Fibre → Fibre) : (onFibre s k g).shutSessions = s.shutSessions := rfl
@[simp] theorem onFibre_mailbox (s : State) (k : Nat) (g : Fibre → Fibre) : (onFibre s k g).mailbox = s.mailbox := rfl
@[simp] theorem onFibre_submissions (s : State) (k : Nat) (g : Fibre → Fibre) : (onFibre s k g).submissions = s.submissions := rfl
@[simp] theorem onFibre_keySlots (s : State) (k : Nat) (g : Fibre → Fibre) : (onFibre s k g).keySlots = s.keySlots := rfl
@[simp] theorem onFibre_counters (s : State) (k : Nat) (g : Fibre → Fibre) : (onFibre s k g).counters = s.counters := rfl
@[simp] theorem onFibre_boot (s : State) (k : Nat) (g : Fibre → Fibre) : (onFibre s k g).boot = s.boot := rfl
@[simp] theorem onFibre_health (s : State) (k : Nat) (g : Fibre → Fibre) : (onFibre s k g).health = s.health := rfl
@[simp] theorem onFibre_msix (s : State) (k : Nat) (g : Fibre → Fibre) : (onFibre s k g).msix = s.msix := rfl
@[simp] theorem onFibre_reports (s : State) (k : Nat) (g : Fibre → Fibre) : (onFibre s k g).reports = s.reports := rfl
@[simp] theorem onFibre_rangeBase (s : State) (k : Nat) (g : Fibre → Fibre) : (onFibre s k g).rangeBase = s.rangeBase := rfl
@[simp] theorem onFibre_hostRead (s : State) (k : Nat) (g : Fibre → Fibre) : (onFibre s k g).hostRead = s.hostRead := rfl

/-! ### onCur -/

@[simp] theorem onCur_tick (s : State) (g : Fibre → Fibre) : (onCur s g).tick = s.tick := rfl
@[simp] theorem onCur_clock (s : State) (g : Fibre → Fibre) : (onCur s g).clock = s.clock := rfl
@[simp] theorem onCur_time (s : State) (g : Fibre → Fibre) : (onCur s g).time = s.time := rfl
@[simp] theorem onCur_agenda (s : State) (g : Fibre → Fibre) : (onCur s g).agenda = s.agenda := rfl
@[simp] theorem onCur_cur (s : State) (g : Fibre → Fibre) : (onCur s g).cur = s.cur := rfl
@[simp] theorem onCur_latch (s : State) (g : Fibre → Fibre) : (onCur s g).latch = s.latch := rfl
@[simp] theorem onCur_mem (s : State) (g : Fibre → Fibre) : (onCur s g).mem = s.mem := rfl
@[simp] theorem onCur_memLatent (s : State) (g : Fibre → Fibre) : (onCur s g).memLatent = s.memLatent := rfl
@[simp] theorem onCur_poison (s : State) (g : Fibre → Fibre) : (onCur s g).poison = s.poison := rfl
@[simp] theorem onCur_ciphered (s : State) (g : Fibre → Fibre) : (onCur s g).ciphered = s.ciphered := rfl
@[simp] theorem onCur_plainSectors (s : State) (g : Fibre → Fibre) : (onCur s g).plainSectors = s.plainSectors := rfl
@[simp] theorem onCur_tlb (s : State) (g : Fibre → Fibre) : (onCur s g).tlb = s.tlb := rfl
@[simp] theorem onCur_l2 (s : State) (g : Fibre → Fibre) : (onCur s g).l2 = s.l2 := rfl
@[simp] theorem onCur_slots (s : State) (g : Fibre → Fibre) : (onCur s g).slots = s.slots := rfl
@[simp] theorem onCur_banks (s : State) (g : Fibre → Fibre) : (onCur s g).banks = s.banks := rfl
@[simp] theorem onCur_crews (s : State) (g : Fibre → Fibre) : (onCur s g).crews = s.crews := rfl
@[simp] theorem onCur_cores (s : State) (g : Fibre → Fibre) : (onCur s g).cores = s.cores := rfl
@[simp] theorem onCur_lost (s : State) (g : Fibre → Fibre) : (onCur s g).lost = s.lost := rfl
@[simp] theorem onCur_keptOutClusters (s : State) (g : Fibre → Fibre) : (onCur s g).keptOutClusters = s.keptOutClusters := rfl
@[simp] theorem onCur_decks (s : State) (g : Fibre → Fibre) : (onCur s g).decks = s.decks := rfl
@[simp] theorem onCur_engines (s : State) (g : Fibre → Fibre) : (onCur s g).engines = s.engines := rfl
@[simp] theorem onCur_nextSerial (s : State) (g : Fibre → Fibre) : (onCur s g).nextSerial = s.nextSerial := rfl
@[simp] theorem onCur_saved (s : State) (g : Fibre → Fibre) : (onCur s g).saved = s.saved := rfl
@[simp] theorem onCur_contexts (s : State) (g : Fibre → Fibre) : (onCur s g).contexts = s.contexts := rfl
@[simp] theorem onCur_partitions (s : State) (g : Fibre → Fibre) : (onCur s g).partitions = s.partitions := rfl
@[simp] theorem onCur_keySerial (s : State) (g : Fibre → Fibre) : (onCur s g).keySerial = s.keySerial := rfl
@[simp] theorem onCur_queue (s : State) (g : Fibre → Fibre) : (onCur s g).queue = s.queue := rfl
@[simp] theorem onCur_launches (s : State) (g : Fibre → Fibre) : (onCur s g).launches = s.launches := rfl
@[simp] theorem onCur_sealCounters (s : State) (g : Fibre → Fibre) : (onCur s g).sealCounters = s.sealCounters := rfl
@[simp] theorem onCur_dies (s : State) (g : Fibre → Fibre) : (onCur s g).dies = s.dies := rfl
@[simp] theorem onCur_memArmed (s : State) (g : Fibre → Fibre) : (onCur s g).memArmed = s.memArmed := rfl
@[simp] theorem onCur_fabricOps (s : State) (g : Fibre → Fibre) : (onCur s g).fabricOps = s.fabricOps := rfl
@[simp] theorem onCur_flushes (s : State) (g : Fibre → Fibre) : (onCur s g).flushes = s.flushes := rfl
@[simp] theorem onCur_wire (s : State) (g : Fibre → Fibre) : (onCur s g).wire = s.wire := rfl
@[simp] theorem onCur_ports (s : State) (g : Fibre → Fibre) : (onCur s g).ports = s.ports := rfl
@[simp] theorem onCur_ptp (s : State) (g : Fibre → Fibre) : (onCur s g).ptp = s.ptp := rfl
@[simp] theorem onCur_ptpInBounds (s : State) (g : Fibre → Fibre) : (onCur s g).ptpInBounds = s.ptpInBounds := rfl
@[simp] theorem onCur_coordinators (s : State) (g : Fibre → Fibre) : (onCur s g).coordinators = s.coordinators := rfl
@[simp] theorem onCur_heldJoined (s : State) (g : Fibre → Fibre) : (onCur s g).heldJoined = s.heldJoined := rfl
@[simp] theorem onCur_pauses (s : State) (g : Fibre → Fibre) : (onCur s g).pauses = s.pauses := rfl
@[simp] theorem onCur_sessions (s : State) (g : Fibre → Fibre) : (onCur s g).sessions = s.sessions := rfl
@[simp] theorem onCur_tokens (s : State) (g : Fibre → Fibre) : (onCur s g).tokens = s.tokens := rfl
@[simp] theorem onCur_earlyHeaders (s : State) (g : Fibre → Fibre) : (onCur s g).earlyHeaders = s.earlyHeaders := rfl
@[simp] theorem onCur_flights (s : State) (g : Fibre → Fibre) : (onCur s g).flights = s.flights := rfl
@[simp] theorem onCur_shutSessions (s : State) (g : Fibre → Fibre) : (onCur s g).shutSessions = s.shutSessions := rfl
@[simp] theorem onCur_mailbox (s : State) (g : Fibre → Fibre) : (onCur s g).mailbox = s.mailbox := rfl
@[simp] theorem onCur_submissions (s : State) (g : Fibre → Fibre) : (onCur s g).submissions = s.submissions := rfl
@[simp] theorem onCur_keySlots (s : State) (g : Fibre → Fibre) : (onCur s g).keySlots = s.keySlots := rfl
@[simp] theorem onCur_counters (s : State) (g : Fibre → Fibre) : (onCur s g).counters = s.counters := rfl
@[simp] theorem onCur_boot (s : State) (g : Fibre → Fibre) : (onCur s g).boot = s.boot := rfl
@[simp] theorem onCur_health (s : State) (g : Fibre → Fibre) : (onCur s g).health = s.health := rfl
@[simp] theorem onCur_msix (s : State) (g : Fibre → Fibre) : (onCur s g).msix = s.msix := rfl
@[simp] theorem onCur_reports (s : State) (g : Fibre → Fibre) : (onCur s g).reports = s.reports := rfl
@[simp] theorem onCur_rangeBase (s : State) (g : Fibre → Fibre) : (onCur s g).rangeBase = s.rangeBase := rfl
@[simp] theorem onCur_hostRead (s : State) (g : Fibre → Fibre) : (onCur s g).hostRead = s.hostRead := rfl

/-! ### onCrew -/

@[simp] theorem onCrew_tick (s : State) (k : Nat) (g : Crew → Crew) : (onCrew s k g).tick = s.tick := rfl
@[simp] theorem onCrew_clock (s : State) (k : Nat) (g : Crew → Crew) : (onCrew s k g).clock = s.clock := rfl
@[simp] theorem onCrew_time (s : State) (k : Nat) (g : Crew → Crew) : (onCrew s k g).time = s.time := rfl
@[simp] theorem onCrew_agenda (s : State) (k : Nat) (g : Crew → Crew) : (onCrew s k g).agenda = s.agenda := rfl
@[simp] theorem onCrew_cur (s : State) (k : Nat) (g : Crew → Crew) : (onCrew s k g).cur = s.cur := rfl
@[simp] theorem onCrew_latch (s : State) (k : Nat) (g : Crew → Crew) : (onCrew s k g).latch = s.latch := rfl
@[simp] theorem onCrew_mem (s : State) (k : Nat) (g : Crew → Crew) : (onCrew s k g).mem = s.mem := rfl
@[simp] theorem onCrew_memLatent (s : State) (k : Nat) (g : Crew → Crew) : (onCrew s k g).memLatent = s.memLatent := rfl
@[simp] theorem onCrew_poison (s : State) (k : Nat) (g : Crew → Crew) : (onCrew s k g).poison = s.poison := rfl
@[simp] theorem onCrew_ciphered (s : State) (k : Nat) (g : Crew → Crew) : (onCrew s k g).ciphered = s.ciphered := rfl
@[simp] theorem onCrew_plainSectors (s : State) (k : Nat) (g : Crew → Crew) : (onCrew s k g).plainSectors = s.plainSectors := rfl
@[simp] theorem onCrew_tlb (s : State) (k : Nat) (g : Crew → Crew) : (onCrew s k g).tlb = s.tlb := rfl
@[simp] theorem onCrew_l2 (s : State) (k : Nat) (g : Crew → Crew) : (onCrew s k g).l2 = s.l2 := rfl
@[simp] theorem onCrew_fibres (s : State) (k : Nat) (g : Crew → Crew) : (onCrew s k g).fibres = s.fibres := rfl
@[simp] theorem onCrew_slots (s : State) (k : Nat) (g : Crew → Crew) : (onCrew s k g).slots = s.slots := rfl
@[simp] theorem onCrew_banks (s : State) (k : Nat) (g : Crew → Crew) : (onCrew s k g).banks = s.banks := rfl
@[simp] theorem onCrew_cores (s : State) (k : Nat) (g : Crew → Crew) : (onCrew s k g).cores = s.cores := rfl
@[simp] theorem onCrew_lost (s : State) (k : Nat) (g : Crew → Crew) : (onCrew s k g).lost = s.lost := rfl
@[simp] theorem onCrew_keptOutClusters (s : State) (k : Nat) (g : Crew → Crew) : (onCrew s k g).keptOutClusters = s.keptOutClusters := rfl
@[simp] theorem onCrew_decks (s : State) (k : Nat) (g : Crew → Crew) : (onCrew s k g).decks = s.decks := rfl
@[simp] theorem onCrew_engines (s : State) (k : Nat) (g : Crew → Crew) : (onCrew s k g).engines = s.engines := rfl
@[simp] theorem onCrew_nextSerial (s : State) (k : Nat) (g : Crew → Crew) : (onCrew s k g).nextSerial = s.nextSerial := rfl
@[simp] theorem onCrew_saved (s : State) (k : Nat) (g : Crew → Crew) : (onCrew s k g).saved = s.saved := rfl
@[simp] theorem onCrew_contexts (s : State) (k : Nat) (g : Crew → Crew) : (onCrew s k g).contexts = s.contexts := rfl
@[simp] theorem onCrew_partitions (s : State) (k : Nat) (g : Crew → Crew) : (onCrew s k g).partitions = s.partitions := rfl
@[simp] theorem onCrew_keySerial (s : State) (k : Nat) (g : Crew → Crew) : (onCrew s k g).keySerial = s.keySerial := rfl
@[simp] theorem onCrew_queue (s : State) (k : Nat) (g : Crew → Crew) : (onCrew s k g).queue = s.queue := rfl
@[simp] theorem onCrew_launches (s : State) (k : Nat) (g : Crew → Crew) : (onCrew s k g).launches = s.launches := rfl
@[simp] theorem onCrew_sealCounters (s : State) (k : Nat) (g : Crew → Crew) : (onCrew s k g).sealCounters = s.sealCounters := rfl
@[simp] theorem onCrew_dies (s : State) (k : Nat) (g : Crew → Crew) : (onCrew s k g).dies = s.dies := rfl
@[simp] theorem onCrew_memArmed (s : State) (k : Nat) (g : Crew → Crew) : (onCrew s k g).memArmed = s.memArmed := rfl
@[simp] theorem onCrew_fabricOps (s : State) (k : Nat) (g : Crew → Crew) : (onCrew s k g).fabricOps = s.fabricOps := rfl
@[simp] theorem onCrew_flushes (s : State) (k : Nat) (g : Crew → Crew) : (onCrew s k g).flushes = s.flushes := rfl
@[simp] theorem onCrew_wire (s : State) (k : Nat) (g : Crew → Crew) : (onCrew s k g).wire = s.wire := rfl
@[simp] theorem onCrew_ports (s : State) (k : Nat) (g : Crew → Crew) : (onCrew s k g).ports = s.ports := rfl
@[simp] theorem onCrew_ptp (s : State) (k : Nat) (g : Crew → Crew) : (onCrew s k g).ptp = s.ptp := rfl
@[simp] theorem onCrew_ptpInBounds (s : State) (k : Nat) (g : Crew → Crew) : (onCrew s k g).ptpInBounds = s.ptpInBounds := rfl
@[simp] theorem onCrew_coordinators (s : State) (k : Nat) (g : Crew → Crew) : (onCrew s k g).coordinators = s.coordinators := rfl
@[simp] theorem onCrew_heldJoined (s : State) (k : Nat) (g : Crew → Crew) : (onCrew s k g).heldJoined = s.heldJoined := rfl
@[simp] theorem onCrew_pauses (s : State) (k : Nat) (g : Crew → Crew) : (onCrew s k g).pauses = s.pauses := rfl
@[simp] theorem onCrew_sessions (s : State) (k : Nat) (g : Crew → Crew) : (onCrew s k g).sessions = s.sessions := rfl
@[simp] theorem onCrew_tokens (s : State) (k : Nat) (g : Crew → Crew) : (onCrew s k g).tokens = s.tokens := rfl
@[simp] theorem onCrew_earlyHeaders (s : State) (k : Nat) (g : Crew → Crew) : (onCrew s k g).earlyHeaders = s.earlyHeaders := rfl
@[simp] theorem onCrew_flights (s : State) (k : Nat) (g : Crew → Crew) : (onCrew s k g).flights = s.flights := rfl
@[simp] theorem onCrew_shutSessions (s : State) (k : Nat) (g : Crew → Crew) : (onCrew s k g).shutSessions = s.shutSessions := rfl
@[simp] theorem onCrew_mailbox (s : State) (k : Nat) (g : Crew → Crew) : (onCrew s k g).mailbox = s.mailbox := rfl
@[simp] theorem onCrew_submissions (s : State) (k : Nat) (g : Crew → Crew) : (onCrew s k g).submissions = s.submissions := rfl
@[simp] theorem onCrew_keySlots (s : State) (k : Nat) (g : Crew → Crew) : (onCrew s k g).keySlots = s.keySlots := rfl
@[simp] theorem onCrew_counters (s : State) (k : Nat) (g : Crew → Crew) : (onCrew s k g).counters = s.counters := rfl
@[simp] theorem onCrew_boot (s : State) (k : Nat) (g : Crew → Crew) : (onCrew s k g).boot = s.boot := rfl
@[simp] theorem onCrew_health (s : State) (k : Nat) (g : Crew → Crew) : (onCrew s k g).health = s.health := rfl
@[simp] theorem onCrew_msix (s : State) (k : Nat) (g : Crew → Crew) : (onCrew s k g).msix = s.msix := rfl
@[simp] theorem onCrew_reports (s : State) (k : Nat) (g : Crew → Crew) : (onCrew s k g).reports = s.reports := rfl
@[simp] theorem onCrew_rangeBase (s : State) (k : Nat) (g : Crew → Crew) : (onCrew s k g).rangeBase = s.rangeBase := rfl
@[simp] theorem onCrew_hostRead (s : State) (k : Nat) (g : Crew → Crew) : (onCrew s k g).hostRead = s.hostRead := rfl

/-! ### onBank -/

@[simp] theorem onBank_tick (s : State) (k : Nat) (g : Bank → Bank) : (onBank s k g).tick = s.tick := rfl
@[simp] theorem onBank_clock (s : State) (k : Nat) (g : Bank → Bank) : (onBank s k g).clock = s.clock := rfl
@[simp] theorem onBank_time (s : State) (k : Nat) (g : Bank → Bank) : (onBank s k g).time = s.time := rfl
@[simp] theorem onBank_agenda (s : State) (k : Nat) (g : Bank → Bank) : (onBank s k g).agenda = s.agenda := rfl
@[simp] theorem onBank_cur (s : State) (k : Nat) (g : Bank → Bank) : (onBank s k g).cur = s.cur := rfl
@[simp] theorem onBank_latch (s : State) (k : Nat) (g : Bank → Bank) : (onBank s k g).latch = s.latch := rfl
@[simp] theorem onBank_mem (s : State) (k : Nat) (g : Bank → Bank) : (onBank s k g).mem = s.mem := rfl
@[simp] theorem onBank_memLatent (s : State) (k : Nat) (g : Bank → Bank) : (onBank s k g).memLatent = s.memLatent := rfl
@[simp] theorem onBank_poison (s : State) (k : Nat) (g : Bank → Bank) : (onBank s k g).poison = s.poison := rfl
@[simp] theorem onBank_ciphered (s : State) (k : Nat) (g : Bank → Bank) : (onBank s k g).ciphered = s.ciphered := rfl
@[simp] theorem onBank_plainSectors (s : State) (k : Nat) (g : Bank → Bank) : (onBank s k g).plainSectors = s.plainSectors := rfl
@[simp] theorem onBank_tlb (s : State) (k : Nat) (g : Bank → Bank) : (onBank s k g).tlb = s.tlb := rfl
@[simp] theorem onBank_l2 (s : State) (k : Nat) (g : Bank → Bank) : (onBank s k g).l2 = s.l2 := rfl
@[simp] theorem onBank_fibres (s : State) (k : Nat) (g : Bank → Bank) : (onBank s k g).fibres = s.fibres := rfl
@[simp] theorem onBank_slots (s : State) (k : Nat) (g : Bank → Bank) : (onBank s k g).slots = s.slots := rfl
@[simp] theorem onBank_crews (s : State) (k : Nat) (g : Bank → Bank) : (onBank s k g).crews = s.crews := rfl
@[simp] theorem onBank_cores (s : State) (k : Nat) (g : Bank → Bank) : (onBank s k g).cores = s.cores := rfl
@[simp] theorem onBank_lost (s : State) (k : Nat) (g : Bank → Bank) : (onBank s k g).lost = s.lost := rfl
@[simp] theorem onBank_keptOutClusters (s : State) (k : Nat) (g : Bank → Bank) : (onBank s k g).keptOutClusters = s.keptOutClusters := rfl
@[simp] theorem onBank_decks (s : State) (k : Nat) (g : Bank → Bank) : (onBank s k g).decks = s.decks := rfl
@[simp] theorem onBank_engines (s : State) (k : Nat) (g : Bank → Bank) : (onBank s k g).engines = s.engines := rfl
@[simp] theorem onBank_nextSerial (s : State) (k : Nat) (g : Bank → Bank) : (onBank s k g).nextSerial = s.nextSerial := rfl
@[simp] theorem onBank_saved (s : State) (k : Nat) (g : Bank → Bank) : (onBank s k g).saved = s.saved := rfl
@[simp] theorem onBank_contexts (s : State) (k : Nat) (g : Bank → Bank) : (onBank s k g).contexts = s.contexts := rfl
@[simp] theorem onBank_partitions (s : State) (k : Nat) (g : Bank → Bank) : (onBank s k g).partitions = s.partitions := rfl
@[simp] theorem onBank_keySerial (s : State) (k : Nat) (g : Bank → Bank) : (onBank s k g).keySerial = s.keySerial := rfl
@[simp] theorem onBank_queue (s : State) (k : Nat) (g : Bank → Bank) : (onBank s k g).queue = s.queue := rfl
@[simp] theorem onBank_launches (s : State) (k : Nat) (g : Bank → Bank) : (onBank s k g).launches = s.launches := rfl
@[simp] theorem onBank_sealCounters (s : State) (k : Nat) (g : Bank → Bank) : (onBank s k g).sealCounters = s.sealCounters := rfl
@[simp] theorem onBank_dies (s : State) (k : Nat) (g : Bank → Bank) : (onBank s k g).dies = s.dies := rfl
@[simp] theorem onBank_memArmed (s : State) (k : Nat) (g : Bank → Bank) : (onBank s k g).memArmed = s.memArmed := rfl
@[simp] theorem onBank_fabricOps (s : State) (k : Nat) (g : Bank → Bank) : (onBank s k g).fabricOps = s.fabricOps := rfl
@[simp] theorem onBank_flushes (s : State) (k : Nat) (g : Bank → Bank) : (onBank s k g).flushes = s.flushes := rfl
@[simp] theorem onBank_wire (s : State) (k : Nat) (g : Bank → Bank) : (onBank s k g).wire = s.wire := rfl
@[simp] theorem onBank_ports (s : State) (k : Nat) (g : Bank → Bank) : (onBank s k g).ports = s.ports := rfl
@[simp] theorem onBank_ptp (s : State) (k : Nat) (g : Bank → Bank) : (onBank s k g).ptp = s.ptp := rfl
@[simp] theorem onBank_ptpInBounds (s : State) (k : Nat) (g : Bank → Bank) : (onBank s k g).ptpInBounds = s.ptpInBounds := rfl
@[simp] theorem onBank_coordinators (s : State) (k : Nat) (g : Bank → Bank) : (onBank s k g).coordinators = s.coordinators := rfl
@[simp] theorem onBank_heldJoined (s : State) (k : Nat) (g : Bank → Bank) : (onBank s k g).heldJoined = s.heldJoined := rfl
@[simp] theorem onBank_pauses (s : State) (k : Nat) (g : Bank → Bank) : (onBank s k g).pauses = s.pauses := rfl
@[simp] theorem onBank_sessions (s : State) (k : Nat) (g : Bank → Bank) : (onBank s k g).sessions = s.sessions := rfl
@[simp] theorem onBank_tokens (s : State) (k : Nat) (g : Bank → Bank) : (onBank s k g).tokens = s.tokens := rfl
@[simp] theorem onBank_earlyHeaders (s : State) (k : Nat) (g : Bank → Bank) : (onBank s k g).earlyHeaders = s.earlyHeaders := rfl
@[simp] theorem onBank_flights (s : State) (k : Nat) (g : Bank → Bank) : (onBank s k g).flights = s.flights := rfl
@[simp] theorem onBank_shutSessions (s : State) (k : Nat) (g : Bank → Bank) : (onBank s k g).shutSessions = s.shutSessions := rfl
@[simp] theorem onBank_mailbox (s : State) (k : Nat) (g : Bank → Bank) : (onBank s k g).mailbox = s.mailbox := rfl
@[simp] theorem onBank_submissions (s : State) (k : Nat) (g : Bank → Bank) : (onBank s k g).submissions = s.submissions := rfl
@[simp] theorem onBank_keySlots (s : State) (k : Nat) (g : Bank → Bank) : (onBank s k g).keySlots = s.keySlots := rfl
@[simp] theorem onBank_counters (s : State) (k : Nat) (g : Bank → Bank) : (onBank s k g).counters = s.counters := rfl
@[simp] theorem onBank_boot (s : State) (k : Nat) (g : Bank → Bank) : (onBank s k g).boot = s.boot := rfl
@[simp] theorem onBank_health (s : State) (k : Nat) (g : Bank → Bank) : (onBank s k g).health = s.health := rfl
@[simp] theorem onBank_msix (s : State) (k : Nat) (g : Bank → Bank) : (onBank s k g).msix = s.msix := rfl
@[simp] theorem onBank_reports (s : State) (k : Nat) (g : Bank → Bank) : (onBank s k g).reports = s.reports := rfl
@[simp] theorem onBank_rangeBase (s : State) (k : Nat) (g : Bank → Bank) : (onBank s k g).rangeBase = s.rangeBase := rfl
@[simp] theorem onBank_hostRead (s : State) (k : Nat) (g : Bank → Bank) : (onBank s k g).hostRead = s.hostRead := rfl

/-! ### count -/

@[simp] theorem count_tick (s : State) (l i c n : Nat) : (count s l i c n).tick = s.tick := rfl
@[simp] theorem count_clock (s : State) (l i c n : Nat) : (count s l i c n).clock = s.clock := rfl
@[simp] theorem count_time (s : State) (l i c n : Nat) : (count s l i c n).time = s.time := rfl
@[simp] theorem count_agenda (s : State) (l i c n : Nat) : (count s l i c n).agenda = s.agenda := rfl
@[simp] theorem count_cur (s : State) (l i c n : Nat) : (count s l i c n).cur = s.cur := rfl
@[simp] theorem count_latch (s : State) (l i c n : Nat) : (count s l i c n).latch = s.latch := rfl
@[simp] theorem count_mem (s : State) (l i c n : Nat) : (count s l i c n).mem = s.mem := rfl
@[simp] theorem count_memLatent (s : State) (l i c n : Nat) : (count s l i c n).memLatent = s.memLatent := rfl
@[simp] theorem count_poison (s : State) (l i c n : Nat) : (count s l i c n).poison = s.poison := rfl
@[simp] theorem count_ciphered (s : State) (l i c n : Nat) : (count s l i c n).ciphered = s.ciphered := rfl
@[simp] theorem count_plainSectors (s : State) (l i c n : Nat) : (count s l i c n).plainSectors = s.plainSectors := rfl
@[simp] theorem count_tlb (s : State) (l i c n : Nat) : (count s l i c n).tlb = s.tlb := rfl
@[simp] theorem count_l2 (s : State) (l i c n : Nat) : (count s l i c n).l2 = s.l2 := rfl
@[simp] theorem count_fibres (s : State) (l i c n : Nat) : (count s l i c n).fibres = s.fibres := rfl
@[simp] theorem count_slots (s : State) (l i c n : Nat) : (count s l i c n).slots = s.slots := rfl
@[simp] theorem count_banks (s : State) (l i c n : Nat) : (count s l i c n).banks = s.banks := rfl
@[simp] theorem count_crews (s : State) (l i c n : Nat) : (count s l i c n).crews = s.crews := rfl
@[simp] theorem count_cores (s : State) (l i c n : Nat) : (count s l i c n).cores = s.cores := rfl
@[simp] theorem count_lost (s : State) (l i c n : Nat) : (count s l i c n).lost = s.lost := rfl
@[simp] theorem count_keptOutClusters (s : State) (l i c n : Nat) : (count s l i c n).keptOutClusters = s.keptOutClusters := rfl
@[simp] theorem count_decks (s : State) (l i c n : Nat) : (count s l i c n).decks = s.decks := rfl
@[simp] theorem count_engines (s : State) (l i c n : Nat) : (count s l i c n).engines = s.engines := rfl
@[simp] theorem count_nextSerial (s : State) (l i c n : Nat) : (count s l i c n).nextSerial = s.nextSerial := rfl
@[simp] theorem count_saved (s : State) (l i c n : Nat) : (count s l i c n).saved = s.saved := rfl
@[simp] theorem count_contexts (s : State) (l i c n : Nat) : (count s l i c n).contexts = s.contexts := rfl
@[simp] theorem count_partitions (s : State) (l i c n : Nat) : (count s l i c n).partitions = s.partitions := rfl
@[simp] theorem count_keySerial (s : State) (l i c n : Nat) : (count s l i c n).keySerial = s.keySerial := rfl
@[simp] theorem count_queue (s : State) (l i c n : Nat) : (count s l i c n).queue = s.queue := rfl
@[simp] theorem count_launches (s : State) (l i c n : Nat) : (count s l i c n).launches = s.launches := rfl
@[simp] theorem count_sealCounters (s : State) (l i c n : Nat) : (count s l i c n).sealCounters = s.sealCounters := rfl
@[simp] theorem count_dies (s : State) (l i c n : Nat) : (count s l i c n).dies = s.dies := rfl
@[simp] theorem count_memArmed (s : State) (l i c n : Nat) : (count s l i c n).memArmed = s.memArmed := rfl
@[simp] theorem count_fabricOps (s : State) (l i c n : Nat) : (count s l i c n).fabricOps = s.fabricOps := rfl
@[simp] theorem count_flushes (s : State) (l i c n : Nat) : (count s l i c n).flushes = s.flushes := rfl
@[simp] theorem count_wire (s : State) (l i c n : Nat) : (count s l i c n).wire = s.wire := rfl
@[simp] theorem count_ports (s : State) (l i c n : Nat) : (count s l i c n).ports = s.ports := rfl
@[simp] theorem count_ptp (s : State) (l i c n : Nat) : (count s l i c n).ptp = s.ptp := rfl
@[simp] theorem count_ptpInBounds (s : State) (l i c n : Nat) : (count s l i c n).ptpInBounds = s.ptpInBounds := rfl
@[simp] theorem count_coordinators (s : State) (l i c n : Nat) : (count s l i c n).coordinators = s.coordinators := rfl
@[simp] theorem count_heldJoined (s : State) (l i c n : Nat) : (count s l i c n).heldJoined = s.heldJoined := rfl
@[simp] theorem count_pauses (s : State) (l i c n : Nat) : (count s l i c n).pauses = s.pauses := rfl
@[simp] theorem count_sessions (s : State) (l i c n : Nat) : (count s l i c n).sessions = s.sessions := rfl
@[simp] theorem count_tokens (s : State) (l i c n : Nat) : (count s l i c n).tokens = s.tokens := rfl
@[simp] theorem count_earlyHeaders (s : State) (l i c n : Nat) : (count s l i c n).earlyHeaders = s.earlyHeaders := rfl
@[simp] theorem count_flights (s : State) (l i c n : Nat) : (count s l i c n).flights = s.flights := rfl
@[simp] theorem count_shutSessions (s : State) (l i c n : Nat) : (count s l i c n).shutSessions = s.shutSessions := rfl
@[simp] theorem count_mailbox (s : State) (l i c n : Nat) : (count s l i c n).mailbox = s.mailbox := rfl
@[simp] theorem count_submissions (s : State) (l i c n : Nat) : (count s l i c n).submissions = s.submissions := rfl
@[simp] theorem count_keySlots (s : State) (l i c n : Nat) : (count s l i c n).keySlots = s.keySlots := rfl
@[simp] theorem count_boot (s : State) (l i c n : Nat) : (count s l i c n).boot = s.boot := rfl
@[simp] theorem count_health (s : State) (l i c n : Nat) : (count s l i c n).health = s.health := rfl
@[simp] theorem count_msix (s : State) (l i c n : Nat) : (count s l i c n).msix = s.msix := rfl
@[simp] theorem count_reports (s : State) (l i c n : Nat) : (count s l i c n).reports = s.reports := rfl
@[simp] theorem count_rangeBase (s : State) (l i c n : Nat) : (count s l i c n).rangeBase = s.rangeBase := rfl
@[simp] theorem count_hostRead (s : State) (l i c n : Nat) : (count s l i c n).hostRead = s.hostRead := rfl

/-! ### countCore -/

@[simp] theorem countCore_tick (s : State) (i c n : Nat) : (countCore s i c n).tick = s.tick := by
  unfold countCore; split <;> rfl
@[simp] theorem countCore_clock (s : State) (i c n : Nat) : (countCore s i c n).clock = s.clock := by
  unfold countCore; split <;> rfl
@[simp] theorem countCore_time (s : State) (i c n : Nat) : (countCore s i c n).time = s.time := by
  unfold countCore; split <;> rfl
@[simp] theorem countCore_agenda (s : State) (i c n : Nat) : (countCore s i c n).agenda = s.agenda := by
  unfold countCore; split <;> rfl
@[simp] theorem countCore_cur (s : State) (i c n : Nat) : (countCore s i c n).cur = s.cur := by
  unfold countCore; split <;> rfl
@[simp] theorem countCore_latch (s : State) (i c n : Nat) : (countCore s i c n).latch = s.latch := by
  unfold countCore; split <;> rfl
@[simp] theorem countCore_mem (s : State) (i c n : Nat) : (countCore s i c n).mem = s.mem := by
  unfold countCore; split <;> rfl
@[simp] theorem countCore_memLatent (s : State) (i c n : Nat) : (countCore s i c n).memLatent = s.memLatent := by
  unfold countCore; split <;> rfl
@[simp] theorem countCore_poison (s : State) (i c n : Nat) : (countCore s i c n).poison = s.poison := by
  unfold countCore; split <;> rfl
@[simp] theorem countCore_ciphered (s : State) (i c n : Nat) : (countCore s i c n).ciphered = s.ciphered := by
  unfold countCore; split <;> rfl
@[simp] theorem countCore_plainSectors (s : State) (i c n : Nat) : (countCore s i c n).plainSectors = s.plainSectors := by
  unfold countCore; split <;> rfl
@[simp] theorem countCore_tlb (s : State) (i c n : Nat) : (countCore s i c n).tlb = s.tlb := by
  unfold countCore; split <;> rfl
@[simp] theorem countCore_l2 (s : State) (i c n : Nat) : (countCore s i c n).l2 = s.l2 := by
  unfold countCore; split <;> rfl
@[simp] theorem countCore_fibres (s : State) (i c n : Nat) : (countCore s i c n).fibres = s.fibres := by
  unfold countCore; split <;> rfl
@[simp] theorem countCore_slots (s : State) (i c n : Nat) : (countCore s i c n).slots = s.slots := by
  unfold countCore; split <;> rfl
@[simp] theorem countCore_banks (s : State) (i c n : Nat) : (countCore s i c n).banks = s.banks := by
  unfold countCore; split <;> rfl
@[simp] theorem countCore_crews (s : State) (i c n : Nat) : (countCore s i c n).crews = s.crews := by
  unfold countCore; split <;> rfl
@[simp] theorem countCore_cores (s : State) (i c n : Nat) : (countCore s i c n).cores = s.cores := by
  unfold countCore; split <;> rfl
@[simp] theorem countCore_lost (s : State) (i c n : Nat) : (countCore s i c n).lost = s.lost := by
  unfold countCore; split <;> rfl
@[simp] theorem countCore_keptOutClusters (s : State) (i c n : Nat) : (countCore s i c n).keptOutClusters = s.keptOutClusters := by
  unfold countCore; split <;> rfl
@[simp] theorem countCore_decks (s : State) (i c n : Nat) : (countCore s i c n).decks = s.decks := by
  unfold countCore; split <;> rfl
@[simp] theorem countCore_engines (s : State) (i c n : Nat) : (countCore s i c n).engines = s.engines := by
  unfold countCore; split <;> rfl
@[simp] theorem countCore_nextSerial (s : State) (i c n : Nat) : (countCore s i c n).nextSerial = s.nextSerial := by
  unfold countCore; split <;> rfl
@[simp] theorem countCore_saved (s : State) (i c n : Nat) : (countCore s i c n).saved = s.saved := by
  unfold countCore; split <;> rfl
@[simp] theorem countCore_contexts (s : State) (i c n : Nat) : (countCore s i c n).contexts = s.contexts := by
  unfold countCore; split <;> rfl
@[simp] theorem countCore_partitions (s : State) (i c n : Nat) : (countCore s i c n).partitions = s.partitions := by
  unfold countCore; split <;> rfl
@[simp] theorem countCore_keySerial (s : State) (i c n : Nat) : (countCore s i c n).keySerial = s.keySerial := by
  unfold countCore; split <;> rfl
@[simp] theorem countCore_queue (s : State) (i c n : Nat) : (countCore s i c n).queue = s.queue := by
  unfold countCore; split <;> rfl
@[simp] theorem countCore_launches (s : State) (i c n : Nat) : (countCore s i c n).launches = s.launches := by
  unfold countCore; split <;> rfl
@[simp] theorem countCore_sealCounters (s : State) (i c n : Nat) : (countCore s i c n).sealCounters = s.sealCounters := by
  unfold countCore; split <;> rfl
@[simp] theorem countCore_dies (s : State) (i c n : Nat) : (countCore s i c n).dies = s.dies := by
  unfold countCore; split <;> rfl
@[simp] theorem countCore_memArmed (s : State) (i c n : Nat) : (countCore s i c n).memArmed = s.memArmed := by
  unfold countCore; split <;> rfl
@[simp] theorem countCore_fabricOps (s : State) (i c n : Nat) : (countCore s i c n).fabricOps = s.fabricOps := by
  unfold countCore; split <;> rfl
@[simp] theorem countCore_flushes (s : State) (i c n : Nat) : (countCore s i c n).flushes = s.flushes := by
  unfold countCore; split <;> rfl
@[simp] theorem countCore_wire (s : State) (i c n : Nat) : (countCore s i c n).wire = s.wire := by
  unfold countCore; split <;> rfl
@[simp] theorem countCore_ports (s : State) (i c n : Nat) : (countCore s i c n).ports = s.ports := by
  unfold countCore; split <;> rfl
@[simp] theorem countCore_ptp (s : State) (i c n : Nat) : (countCore s i c n).ptp = s.ptp := by
  unfold countCore; split <;> rfl
@[simp] theorem countCore_ptpInBounds (s : State) (i c n : Nat) : (countCore s i c n).ptpInBounds = s.ptpInBounds := by
  unfold countCore; split <;> rfl
@[simp] theorem countCore_coordinators (s : State) (i c n : Nat) : (countCore s i c n).coordinators = s.coordinators := by
  unfold countCore; split <;> rfl
@[simp] theorem countCore_heldJoined (s : State) (i c n : Nat) : (countCore s i c n).heldJoined = s.heldJoined := by
  unfold countCore; split <;> rfl
@[simp] theorem countCore_pauses (s : State) (i c n : Nat) : (countCore s i c n).pauses = s.pauses := by
  unfold countCore; split <;> rfl
@[simp] theorem countCore_sessions (s : State) (i c n : Nat) : (countCore s i c n).sessions = s.sessions := by
  unfold countCore; split <;> rfl
@[simp] theorem countCore_tokens (s : State) (i c n : Nat) : (countCore s i c n).tokens = s.tokens := by
  unfold countCore; split <;> rfl
@[simp] theorem countCore_earlyHeaders (s : State) (i c n : Nat) : (countCore s i c n).earlyHeaders = s.earlyHeaders := by
  unfold countCore; split <;> rfl
@[simp] theorem countCore_flights (s : State) (i c n : Nat) : (countCore s i c n).flights = s.flights := by
  unfold countCore; split <;> rfl
@[simp] theorem countCore_shutSessions (s : State) (i c n : Nat) : (countCore s i c n).shutSessions = s.shutSessions := by
  unfold countCore; split <;> rfl
@[simp] theorem countCore_mailbox (s : State) (i c n : Nat) : (countCore s i c n).mailbox = s.mailbox := by
  unfold countCore; split <;> rfl
@[simp] theorem countCore_submissions (s : State) (i c n : Nat) : (countCore s i c n).submissions = s.submissions := by
  unfold countCore; split <;> rfl
@[simp] theorem countCore_keySlots (s : State) (i c n : Nat) : (countCore s i c n).keySlots = s.keySlots := by
  unfold countCore; split <;> rfl
@[simp] theorem countCore_boot (s : State) (i c n : Nat) : (countCore s i c n).boot = s.boot := by
  unfold countCore; split <;> rfl
@[simp] theorem countCore_health (s : State) (i c n : Nat) : (countCore s i c n).health = s.health := by
  unfold countCore; split <;> rfl
@[simp] theorem countCore_msix (s : State) (i c n : Nat) : (countCore s i c n).msix = s.msix := by
  unfold countCore; split <;> rfl
@[simp] theorem countCore_reports (s : State) (i c n : Nat) : (countCore s i c n).reports = s.reports := by
  unfold countCore; split <;> rfl
@[simp] theorem countCore_rangeBase (s : State) (i c n : Nat) : (countCore s i c n).rangeBase = s.rangeBase := by
  unfold countCore; split <;> rfl
@[simp] theorem countCore_hostRead (s : State) (i c n : Nat) : (countCore s i c n).hostRead = s.hostRead := by
  unfold countCore; split <;> rfl

/-! ### countCluster -/

@[simp] theorem countCluster_tick (s : State) (i c n : Nat) : (countCluster s i c n).tick = s.tick := by
  unfold countCluster; split <;> rfl
@[simp] theorem countCluster_clock (s : State) (i c n : Nat) : (countCluster s i c n).clock = s.clock := by
  unfold countCluster; split <;> rfl
@[simp] theorem countCluster_time (s : State) (i c n : Nat) : (countCluster s i c n).time = s.time := by
  unfold countCluster; split <;> rfl
@[simp] theorem countCluster_agenda (s : State) (i c n : Nat) : (countCluster s i c n).agenda = s.agenda := by
  unfold countCluster; split <;> rfl
@[simp] theorem countCluster_cur (s : State) (i c n : Nat) : (countCluster s i c n).cur = s.cur := by
  unfold countCluster; split <;> rfl
@[simp] theorem countCluster_latch (s : State) (i c n : Nat) : (countCluster s i c n).latch = s.latch := by
  unfold countCluster; split <;> rfl
@[simp] theorem countCluster_mem (s : State) (i c n : Nat) : (countCluster s i c n).mem = s.mem := by
  unfold countCluster; split <;> rfl
@[simp] theorem countCluster_memLatent (s : State) (i c n : Nat) : (countCluster s i c n).memLatent = s.memLatent := by
  unfold countCluster; split <;> rfl
@[simp] theorem countCluster_poison (s : State) (i c n : Nat) : (countCluster s i c n).poison = s.poison := by
  unfold countCluster; split <;> rfl
@[simp] theorem countCluster_ciphered (s : State) (i c n : Nat) : (countCluster s i c n).ciphered = s.ciphered := by
  unfold countCluster; split <;> rfl
@[simp] theorem countCluster_plainSectors (s : State) (i c n : Nat) : (countCluster s i c n).plainSectors = s.plainSectors := by
  unfold countCluster; split <;> rfl
@[simp] theorem countCluster_tlb (s : State) (i c n : Nat) : (countCluster s i c n).tlb = s.tlb := by
  unfold countCluster; split <;> rfl
@[simp] theorem countCluster_l2 (s : State) (i c n : Nat) : (countCluster s i c n).l2 = s.l2 := by
  unfold countCluster; split <;> rfl
@[simp] theorem countCluster_fibres (s : State) (i c n : Nat) : (countCluster s i c n).fibres = s.fibres := by
  unfold countCluster; split <;> rfl
@[simp] theorem countCluster_slots (s : State) (i c n : Nat) : (countCluster s i c n).slots = s.slots := by
  unfold countCluster; split <;> rfl
@[simp] theorem countCluster_banks (s : State) (i c n : Nat) : (countCluster s i c n).banks = s.banks := by
  unfold countCluster; split <;> rfl
@[simp] theorem countCluster_crews (s : State) (i c n : Nat) : (countCluster s i c n).crews = s.crews := by
  unfold countCluster; split <;> rfl
@[simp] theorem countCluster_cores (s : State) (i c n : Nat) : (countCluster s i c n).cores = s.cores := by
  unfold countCluster; split <;> rfl
@[simp] theorem countCluster_lost (s : State) (i c n : Nat) : (countCluster s i c n).lost = s.lost := by
  unfold countCluster; split <;> rfl
@[simp] theorem countCluster_keptOutClusters (s : State) (i c n : Nat) : (countCluster s i c n).keptOutClusters = s.keptOutClusters := by
  unfold countCluster; split <;> rfl
@[simp] theorem countCluster_decks (s : State) (i c n : Nat) : (countCluster s i c n).decks = s.decks := by
  unfold countCluster; split <;> rfl
@[simp] theorem countCluster_engines (s : State) (i c n : Nat) : (countCluster s i c n).engines = s.engines := by
  unfold countCluster; split <;> rfl
@[simp] theorem countCluster_nextSerial (s : State) (i c n : Nat) : (countCluster s i c n).nextSerial = s.nextSerial := by
  unfold countCluster; split <;> rfl
@[simp] theorem countCluster_saved (s : State) (i c n : Nat) : (countCluster s i c n).saved = s.saved := by
  unfold countCluster; split <;> rfl
@[simp] theorem countCluster_contexts (s : State) (i c n : Nat) : (countCluster s i c n).contexts = s.contexts := by
  unfold countCluster; split <;> rfl
@[simp] theorem countCluster_partitions (s : State) (i c n : Nat) : (countCluster s i c n).partitions = s.partitions := by
  unfold countCluster; split <;> rfl
@[simp] theorem countCluster_keySerial (s : State) (i c n : Nat) : (countCluster s i c n).keySerial = s.keySerial := by
  unfold countCluster; split <;> rfl
@[simp] theorem countCluster_queue (s : State) (i c n : Nat) : (countCluster s i c n).queue = s.queue := by
  unfold countCluster; split <;> rfl
@[simp] theorem countCluster_launches (s : State) (i c n : Nat) : (countCluster s i c n).launches = s.launches := by
  unfold countCluster; split <;> rfl
@[simp] theorem countCluster_sealCounters (s : State) (i c n : Nat) : (countCluster s i c n).sealCounters = s.sealCounters := by
  unfold countCluster; split <;> rfl
@[simp] theorem countCluster_dies (s : State) (i c n : Nat) : (countCluster s i c n).dies = s.dies := by
  unfold countCluster; split <;> rfl
@[simp] theorem countCluster_memArmed (s : State) (i c n : Nat) : (countCluster s i c n).memArmed = s.memArmed := by
  unfold countCluster; split <;> rfl
@[simp] theorem countCluster_fabricOps (s : State) (i c n : Nat) : (countCluster s i c n).fabricOps = s.fabricOps := by
  unfold countCluster; split <;> rfl
@[simp] theorem countCluster_flushes (s : State) (i c n : Nat) : (countCluster s i c n).flushes = s.flushes := by
  unfold countCluster; split <;> rfl
@[simp] theorem countCluster_wire (s : State) (i c n : Nat) : (countCluster s i c n).wire = s.wire := by
  unfold countCluster; split <;> rfl
@[simp] theorem countCluster_ports (s : State) (i c n : Nat) : (countCluster s i c n).ports = s.ports := by
  unfold countCluster; split <;> rfl
@[simp] theorem countCluster_ptp (s : State) (i c n : Nat) : (countCluster s i c n).ptp = s.ptp := by
  unfold countCluster; split <;> rfl
@[simp] theorem countCluster_ptpInBounds (s : State) (i c n : Nat) : (countCluster s i c n).ptpInBounds = s.ptpInBounds := by
  unfold countCluster; split <;> rfl
@[simp] theorem countCluster_coordinators (s : State) (i c n : Nat) : (countCluster s i c n).coordinators = s.coordinators := by
  unfold countCluster; split <;> rfl
@[simp] theorem countCluster_heldJoined (s : State) (i c n : Nat) : (countCluster s i c n).heldJoined = s.heldJoined := by
  unfold countCluster; split <;> rfl
@[simp] theorem countCluster_pauses (s : State) (i c n : Nat) : (countCluster s i c n).pauses = s.pauses := by
  unfold countCluster; split <;> rfl
@[simp] theorem countCluster_sessions (s : State) (i c n : Nat) : (countCluster s i c n).sessions = s.sessions := by
  unfold countCluster; split <;> rfl
@[simp] theorem countCluster_tokens (s : State) (i c n : Nat) : (countCluster s i c n).tokens = s.tokens := by
  unfold countCluster; split <;> rfl
@[simp] theorem countCluster_earlyHeaders (s : State) (i c n : Nat) : (countCluster s i c n).earlyHeaders = s.earlyHeaders := by
  unfold countCluster; split <;> rfl
@[simp] theorem countCluster_flights (s : State) (i c n : Nat) : (countCluster s i c n).flights = s.flights := by
  unfold countCluster; split <;> rfl
@[simp] theorem countCluster_shutSessions (s : State) (i c n : Nat) : (countCluster s i c n).shutSessions = s.shutSessions := by
  unfold countCluster; split <;> rfl
@[simp] theorem countCluster_mailbox (s : State) (i c n : Nat) : (countCluster s i c n).mailbox = s.mailbox := by
  unfold countCluster; split <;> rfl
@[simp] theorem countCluster_submissions (s : State) (i c n : Nat) : (countCluster s i c n).submissions = s.submissions := by
  unfold countCluster; split <;> rfl
@[simp] theorem countCluster_keySlots (s : State) (i c n : Nat) : (countCluster s i c n).keySlots = s.keySlots := by
  unfold countCluster; split <;> rfl
@[simp] theorem countCluster_boot (s : State) (i c n : Nat) : (countCluster s i c n).boot = s.boot := by
  unfold countCluster; split <;> rfl
@[simp] theorem countCluster_health (s : State) (i c n : Nat) : (countCluster s i c n).health = s.health := by
  unfold countCluster; split <;> rfl
@[simp] theorem countCluster_msix (s : State) (i c n : Nat) : (countCluster s i c n).msix = s.msix := by
  unfold countCluster; split <;> rfl
@[simp] theorem countCluster_reports (s : State) (i c n : Nat) : (countCluster s i c n).reports = s.reports := by
  unfold countCluster; split <;> rfl
@[simp] theorem countCluster_rangeBase (s : State) (i c n : Nat) : (countCluster s i c n).rangeBase = s.rangeBase := by
  unfold countCluster; split <;> rfl
@[simp] theorem countCluster_hostRead (s : State) (i c n : Nat) : (countCluster s i c n).hostRead = s.hostRead := by
  unfold countCluster; split <;> rfl

/-! ### countDie -/

@[simp] theorem countDie_tick (s : State) (i c n : Nat) : (countDie s i c n).tick = s.tick := rfl
@[simp] theorem countDie_clock (s : State) (i c n : Nat) : (countDie s i c n).clock = s.clock := rfl
@[simp] theorem countDie_time (s : State) (i c n : Nat) : (countDie s i c n).time = s.time := rfl
@[simp] theorem countDie_agenda (s : State) (i c n : Nat) : (countDie s i c n).agenda = s.agenda := rfl
@[simp] theorem countDie_cur (s : State) (i c n : Nat) : (countDie s i c n).cur = s.cur := rfl
@[simp] theorem countDie_latch (s : State) (i c n : Nat) : (countDie s i c n).latch = s.latch := rfl
@[simp] theorem countDie_mem (s : State) (i c n : Nat) : (countDie s i c n).mem = s.mem := rfl
@[simp] theorem countDie_memLatent (s : State) (i c n : Nat) : (countDie s i c n).memLatent = s.memLatent := rfl
@[simp] theorem countDie_poison (s : State) (i c n : Nat) : (countDie s i c n).poison = s.poison := rfl
@[simp] theorem countDie_ciphered (s : State) (i c n : Nat) : (countDie s i c n).ciphered = s.ciphered := rfl
@[simp] theorem countDie_plainSectors (s : State) (i c n : Nat) : (countDie s i c n).plainSectors = s.plainSectors := rfl
@[simp] theorem countDie_tlb (s : State) (i c n : Nat) : (countDie s i c n).tlb = s.tlb := rfl
@[simp] theorem countDie_l2 (s : State) (i c n : Nat) : (countDie s i c n).l2 = s.l2 := rfl
@[simp] theorem countDie_fibres (s : State) (i c n : Nat) : (countDie s i c n).fibres = s.fibres := rfl
@[simp] theorem countDie_slots (s : State) (i c n : Nat) : (countDie s i c n).slots = s.slots := rfl
@[simp] theorem countDie_banks (s : State) (i c n : Nat) : (countDie s i c n).banks = s.banks := rfl
@[simp] theorem countDie_crews (s : State) (i c n : Nat) : (countDie s i c n).crews = s.crews := rfl
@[simp] theorem countDie_cores (s : State) (i c n : Nat) : (countDie s i c n).cores = s.cores := rfl
@[simp] theorem countDie_lost (s : State) (i c n : Nat) : (countDie s i c n).lost = s.lost := rfl
@[simp] theorem countDie_keptOutClusters (s : State) (i c n : Nat) : (countDie s i c n).keptOutClusters = s.keptOutClusters := rfl
@[simp] theorem countDie_decks (s : State) (i c n : Nat) : (countDie s i c n).decks = s.decks := rfl
@[simp] theorem countDie_engines (s : State) (i c n : Nat) : (countDie s i c n).engines = s.engines := rfl
@[simp] theorem countDie_nextSerial (s : State) (i c n : Nat) : (countDie s i c n).nextSerial = s.nextSerial := rfl
@[simp] theorem countDie_saved (s : State) (i c n : Nat) : (countDie s i c n).saved = s.saved := rfl
@[simp] theorem countDie_contexts (s : State) (i c n : Nat) : (countDie s i c n).contexts = s.contexts := rfl
@[simp] theorem countDie_partitions (s : State) (i c n : Nat) : (countDie s i c n).partitions = s.partitions := rfl
@[simp] theorem countDie_keySerial (s : State) (i c n : Nat) : (countDie s i c n).keySerial = s.keySerial := rfl
@[simp] theorem countDie_queue (s : State) (i c n : Nat) : (countDie s i c n).queue = s.queue := rfl
@[simp] theorem countDie_launches (s : State) (i c n : Nat) : (countDie s i c n).launches = s.launches := rfl
@[simp] theorem countDie_sealCounters (s : State) (i c n : Nat) : (countDie s i c n).sealCounters = s.sealCounters := rfl
@[simp] theorem countDie_dies (s : State) (i c n : Nat) : (countDie s i c n).dies = s.dies := rfl
@[simp] theorem countDie_memArmed (s : State) (i c n : Nat) : (countDie s i c n).memArmed = s.memArmed := rfl
@[simp] theorem countDie_fabricOps (s : State) (i c n : Nat) : (countDie s i c n).fabricOps = s.fabricOps := rfl
@[simp] theorem countDie_flushes (s : State) (i c n : Nat) : (countDie s i c n).flushes = s.flushes := rfl
@[simp] theorem countDie_wire (s : State) (i c n : Nat) : (countDie s i c n).wire = s.wire := rfl
@[simp] theorem countDie_ports (s : State) (i c n : Nat) : (countDie s i c n).ports = s.ports := rfl
@[simp] theorem countDie_ptp (s : State) (i c n : Nat) : (countDie s i c n).ptp = s.ptp := rfl
@[simp] theorem countDie_ptpInBounds (s : State) (i c n : Nat) : (countDie s i c n).ptpInBounds = s.ptpInBounds := rfl
@[simp] theorem countDie_coordinators (s : State) (i c n : Nat) : (countDie s i c n).coordinators = s.coordinators := rfl
@[simp] theorem countDie_heldJoined (s : State) (i c n : Nat) : (countDie s i c n).heldJoined = s.heldJoined := rfl
@[simp] theorem countDie_pauses (s : State) (i c n : Nat) : (countDie s i c n).pauses = s.pauses := rfl
@[simp] theorem countDie_sessions (s : State) (i c n : Nat) : (countDie s i c n).sessions = s.sessions := rfl
@[simp] theorem countDie_tokens (s : State) (i c n : Nat) : (countDie s i c n).tokens = s.tokens := rfl
@[simp] theorem countDie_earlyHeaders (s : State) (i c n : Nat) : (countDie s i c n).earlyHeaders = s.earlyHeaders := rfl
@[simp] theorem countDie_flights (s : State) (i c n : Nat) : (countDie s i c n).flights = s.flights := rfl
@[simp] theorem countDie_shutSessions (s : State) (i c n : Nat) : (countDie s i c n).shutSessions = s.shutSessions := rfl
@[simp] theorem countDie_mailbox (s : State) (i c n : Nat) : (countDie s i c n).mailbox = s.mailbox := rfl
@[simp] theorem countDie_submissions (s : State) (i c n : Nat) : (countDie s i c n).submissions = s.submissions := rfl
@[simp] theorem countDie_keySlots (s : State) (i c n : Nat) : (countDie s i c n).keySlots = s.keySlots := rfl
@[simp] theorem countDie_boot (s : State) (i c n : Nat) : (countDie s i c n).boot = s.boot := rfl
@[simp] theorem countDie_health (s : State) (i c n : Nat) : (countDie s i c n).health = s.health := rfl
@[simp] theorem countDie_msix (s : State) (i c n : Nat) : (countDie s i c n).msix = s.msix := rfl
@[simp] theorem countDie_reports (s : State) (i c n : Nat) : (countDie s i c n).reports = s.reports := rfl
@[simp] theorem countDie_rangeBase (s : State) (i c n : Nat) : (countDie s i c n).rangeBase = s.rangeBase := rfl
@[simp] theorem countDie_hostRead (s : State) (i c n : Nat) : (countDie s i c n).hostRead = s.hostRead := rfl

/-! ### Fibre.writeS -/

@[simp] theorem Fibre.writeS_preds (f : Fibre) (r : BitVec 6) (v : Word) : (Fibre.writeS f r v).preds = f.preds := by
  unfold Fibre.writeS; split <;> rfl
@[simp] theorem Fibre.writeS_em (f : Fibre) (r : BitVec 6) (v : Word) : (Fibre.writeS f r v).em = f.em := by
  unfold Fibre.writeS; split <;> rfl
@[simp] theorem Fibre.writeS_flags (f : Fibre) (r : BitVec 6) (v : Word) : (Fibre.writeS f r v).flags = f.flags := by
  unfold Fibre.writeS; split <;> rfl
@[simp] theorem Fibre.writeS_aflags (f : Fibre) (r : BitVec 6) (v : Word) : (Fibre.writeS f r v).aflags = f.aflags := by
  unfold Fibre.writeS; split <;> rfl
@[simp] theorem Fibre.writeS_gens (f : Fibre) (r : BitVec 6) (v : Word) : (Fibre.writeS f r v).gens = f.gens := by
  unfold Fibre.writeS; split <;> rfl
@[simp] theorem Fibre.writeS_spc (f : Fibre) (r : BitVec 6) (v : Word) : (Fibre.writeS f r v).spc = f.spc := by
  unfold Fibre.writeS; split <;> rfl
@[simp] theorem Fibre.writeS_lcbase (f : Fibre) (r : BitVec 6) (v : Word) : (Fibre.writeS f r v).lcbase = f.lcbase := by
  unfold Fibre.writeS; split <;> rfl
@[simp] theorem Fibre.writeS_window (f : Fibre) (r : BitVec 6) (v : Word) : (Fibre.writeS f r v).window = f.window := by
  unfold Fibre.writeS; split <;> rfl
@[simp] theorem Fibre.writeS_role (f : Fibre) (r : BitVec 6) (v : Word) : (Fibre.writeS f r v).role = f.role := by
  unfold Fibre.writeS; split <;> rfl
@[simp] theorem Fibre.writeS_index (f : Fibre) (r : BitVec 6) (v : Word) : (Fibre.writeS f r v).index = f.index := by
  unfold Fibre.writeS; split <;> rfl
@[simp] theorem Fibre.writeS_clauses (f : Fibre) (r : BitVec 6) (v : Word) : (Fibre.writeS f r v).clauses = f.clauses := by
  unfold Fibre.writeS; split <;> rfl
@[simp] theorem Fibre.writeS_running (f : Fibre) (r : BitVec 6) (v : Word) : (Fibre.writeS f r v).running = f.running := by
  unfold Fibre.writeS; split <;> rfl
@[simp] theorem Fibre.writeS_lpend (f : Fibre) (r : BitVec 6) (v : Word) : (Fibre.writeS f r v).lpend = f.lpend := by
  unfold Fibre.writeS; split <;> rfl
@[simp] theorem Fibre.writeS_nextId (f : Fibre) (r : BitVec 6) (v : Word) : (Fibre.writeS f r v).nextId = f.nextId := by
  unfold Fibre.writeS; split <;> rfl
@[simp] theorem Fibre.writeS_sStall (f : Fibre) (r : BitVec 6) (v : Word) : (Fibre.writeS f r v).sStall = f.sStall := by
  unfold Fibre.writeS; split <;> rfl
@[simp] theorem Fibre.writeS_lStall (f : Fibre) (r : BitVec 6) (v : Word) : (Fibre.writeS f r v).lStall = f.lStall := by
  unfold Fibre.writeS; split <;> rfl
@[simp] theorem Fibre.writeS_sWait (f : Fibre) (r : BitVec 6) (v : Word) : (Fibre.writeS f r v).sWait = f.sWait := by
  unfold Fibre.writeS; split <;> rfl
@[simp] theorem Fibre.writeS_waitWord (f : Fibre) (r : BitVec 6) (v : Word) : (Fibre.writeS f r v).waitWord = f.waitWord := by
  unfold Fibre.writeS; split <;> rfl
@[simp] theorem Fibre.writeS_handler (f : Fibre) (r : BitVec 6) (v : Word) : (Fibre.writeS f r v).handler = f.handler := by
  unfold Fibre.writeS; split <;> rfl
@[simp] theorem Fibre.writeS_frozen (f : Fibre) (r : BitVec 6) (v : Word) : (Fibre.writeS f r v).frozen = f.frozen := by
  unfold Fibre.writeS; split <;> rfl
@[simp] theorem Fibre.writeS_parked (f : Fibre) (r : BitVec 6) (v : Word) : (Fibre.writeS f r v).parked = f.parked := by
  unfold Fibre.writeS; split <;> rfl
@[simp] theorem Fibre.writeS_sReplay (f : Fibre) (r : BitVec 6) (v : Word) : (Fibre.writeS f r v).sReplay = f.sReplay := by
  unfold Fibre.writeS; split <;> rfl
@[simp] theorem Fibre.writeS_lReplay (f : Fibre) (r : BitVec 6) (v : Word) : (Fibre.writeS f r v).lReplay = f.lReplay := by
  unfold Fibre.writeS; split <;> rfl
@[simp] theorem Fibre.writeS_lRaised (f : Fibre) (r : BitVec 6) (v : Word) : (Fibre.writeS f r v).lRaised = f.lRaised := by
  unfold Fibre.writeS; split <;> rfl
@[simp] theorem Fibre.writeS_replayOf (f : Fibre) (r : BitVec 6) (v : Word) : (Fibre.writeS f r v).replayOf = f.replayOf := by
  unfold Fibre.writeS; split <;> rfl
@[simp] theorem Fibre.writeS_fetchOf (f : Fibre) (r : BitVec 6) (v : Word) : (Fibre.writeS f r v).fetchOf = f.fetchOf := by
  unfold Fibre.writeS; split <;> rfl
@[simp] theorem Fibre.writeS_cbarDone (f : Fibre) (r : BitVec 6) (v : Word) : (Fibre.writeS f r v).cbarDone = f.cbarDone := by
  unfold Fibre.writeS; split <;> rfl
@[simp] theorem Fibre.writeS_trapped (f : Fibre) (r : BitVec 6) (v : Word) : (Fibre.writeS f r v).trapped = f.trapped := by
  unfold Fibre.writeS; split <;> rfl
@[simp] theorem Fibre.writeS_ended (f : Fibre) (r : BitVec 6) (v : Word) : (Fibre.writeS f r v).ended = f.ended := by
  unfold Fibre.writeS; split <;> rfl
@[simp] theorem Fibre.writeS_arrived (f : Fibre) (r : BitVec 6) (v : Word) : (Fibre.writeS f r v).arrived = f.arrived := by
  unfold Fibre.writeS; split <;> rfl
@[simp] theorem Fibre.writeS_fence (f : Fibre) (r : BitVec 6) (v : Word) : (Fibre.writeS f r v).fence = f.fence := by
  unfold Fibre.writeS; split <;> rfl
@[simp] theorem Fibre.writeS_q0 (f : Fibre) (r : BitVec 6) (v : Word) : (Fibre.writeS f r v).q0 = f.q0 := by
  unfold Fibre.writeS; split <;> rfl
@[simp] theorem Fibre.writeS_q1 (f : Fibre) (r : BitVec 6) (v : Word) : (Fibre.writeS f r v).q1 = f.q1 := by
  unfold Fibre.writeS; split <;> rfl
@[simp] theorem Fibre.writeS_q2 (f : Fibre) (r : BitVec 6) (v : Word) : (Fibre.writeS f r v).q2 = f.q2 := by
  unfold Fibre.writeS; split <;> rfl
@[simp] theorem Fibre.writeS_q3 (f : Fibre) (r : BitVec 6) (v : Word) : (Fibre.writeS f r v).q3 = f.q3 := by
  unfold Fibre.writeS; split <;> rfl
@[simp] theorem Fibre.writeS_q3lost (f : Fibre) (r : BitVec 6) (v : Word) : (Fibre.writeS f r v).q3lost = f.q3lost := by
  unfold Fibre.writeS; split <;> rfl
@[simp] theorem Fibre.writeS_q4 (f : Fibre) (r : BitVec 6) (v : Word) : (Fibre.writeS f r v).q4 = f.q4 := by
  unfold Fibre.writeS; split <;> rfl
@[simp] theorem Fibre.writeS_q5 (f : Fibre) (r : BitVec 6) (v : Word) : (Fibre.writeS f r v).q5 = f.q5 := by
  unfold Fibre.writeS; split <;> rfl
@[simp] theorem Fibre.writeS_session (f : Fibre) (r : BitVec 6) (v : Word) : (Fibre.writeS f r v).session = f.session := by
  unfold Fibre.writeS; split <;> rfl
@[simp] theorem Fibre.writeS_routeAsked (f : Fibre) (r : BitVec 6) (v : Word) : (Fibre.writeS f r v).routeAsked = f.routeAsked := by
  unfold Fibre.writeS; split <;> rfl

/-! ### Fibre.writeP -/

@[simp] theorem Fibre.writeP_sregs (f : Fibre) (n : BitVec 3) (v : Mask) : (Fibre.writeP f n v).sregs = f.sregs := by
  unfold Fibre.writeP; split <;> rfl
@[simp] theorem Fibre.writeP_em (f : Fibre) (n : BitVec 3) (v : Mask) : (Fibre.writeP f n v).em = f.em := by
  unfold Fibre.writeP; split <;> rfl
@[simp] theorem Fibre.writeP_flags (f : Fibre) (n : BitVec 3) (v : Mask) : (Fibre.writeP f n v).flags = f.flags := by
  unfold Fibre.writeP; split <;> rfl
@[simp] theorem Fibre.writeP_aflags (f : Fibre) (n : BitVec 3) (v : Mask) : (Fibre.writeP f n v).aflags = f.aflags := by
  unfold Fibre.writeP; split <;> rfl
@[simp] theorem Fibre.writeP_gens (f : Fibre) (n : BitVec 3) (v : Mask) : (Fibre.writeP f n v).gens = f.gens := by
  unfold Fibre.writeP; split <;> rfl
@[simp] theorem Fibre.writeP_spc (f : Fibre) (n : BitVec 3) (v : Mask) : (Fibre.writeP f n v).spc = f.spc := by
  unfold Fibre.writeP; split <;> rfl
@[simp] theorem Fibre.writeP_lcbase (f : Fibre) (n : BitVec 3) (v : Mask) : (Fibre.writeP f n v).lcbase = f.lcbase := by
  unfold Fibre.writeP; split <;> rfl
@[simp] theorem Fibre.writeP_window (f : Fibre) (n : BitVec 3) (v : Mask) : (Fibre.writeP f n v).window = f.window := by
  unfold Fibre.writeP; split <;> rfl
@[simp] theorem Fibre.writeP_role (f : Fibre) (n : BitVec 3) (v : Mask) : (Fibre.writeP f n v).role = f.role := by
  unfold Fibre.writeP; split <;> rfl
@[simp] theorem Fibre.writeP_index (f : Fibre) (n : BitVec 3) (v : Mask) : (Fibre.writeP f n v).index = f.index := by
  unfold Fibre.writeP; split <;> rfl
@[simp] theorem Fibre.writeP_clauses (f : Fibre) (n : BitVec 3) (v : Mask) : (Fibre.writeP f n v).clauses = f.clauses := by
  unfold Fibre.writeP; split <;> rfl
@[simp] theorem Fibre.writeP_running (f : Fibre) (n : BitVec 3) (v : Mask) : (Fibre.writeP f n v).running = f.running := by
  unfold Fibre.writeP; split <;> rfl
@[simp] theorem Fibre.writeP_spend (f : Fibre) (n : BitVec 3) (v : Mask) : (Fibre.writeP f n v).spend = f.spend := by
  unfold Fibre.writeP; split <;> rfl
@[simp] theorem Fibre.writeP_lpend (f : Fibre) (n : BitVec 3) (v : Mask) : (Fibre.writeP f n v).lpend = f.lpend := by
  unfold Fibre.writeP; split <;> rfl
@[simp] theorem Fibre.writeP_nextId (f : Fibre) (n : BitVec 3) (v : Mask) : (Fibre.writeP f n v).nextId = f.nextId := by
  unfold Fibre.writeP; split <;> rfl
@[simp] theorem Fibre.writeP_sStall (f : Fibre) (n : BitVec 3) (v : Mask) : (Fibre.writeP f n v).sStall = f.sStall := by
  unfold Fibre.writeP; split <;> rfl
@[simp] theorem Fibre.writeP_lStall (f : Fibre) (n : BitVec 3) (v : Mask) : (Fibre.writeP f n v).lStall = f.lStall := by
  unfold Fibre.writeP; split <;> rfl
@[simp] theorem Fibre.writeP_sWait (f : Fibre) (n : BitVec 3) (v : Mask) : (Fibre.writeP f n v).sWait = f.sWait := by
  unfold Fibre.writeP; split <;> rfl
@[simp] theorem Fibre.writeP_waitWord (f : Fibre) (n : BitVec 3) (v : Mask) : (Fibre.writeP f n v).waitWord = f.waitWord := by
  unfold Fibre.writeP; split <;> rfl
@[simp] theorem Fibre.writeP_handler (f : Fibre) (n : BitVec 3) (v : Mask) : (Fibre.writeP f n v).handler = f.handler := by
  unfold Fibre.writeP; split <;> rfl
@[simp] theorem Fibre.writeP_frozen (f : Fibre) (n : BitVec 3) (v : Mask) : (Fibre.writeP f n v).frozen = f.frozen := by
  unfold Fibre.writeP; split <;> rfl
@[simp] theorem Fibre.writeP_parked (f : Fibre) (n : BitVec 3) (v : Mask) : (Fibre.writeP f n v).parked = f.parked := by
  unfold Fibre.writeP; split <;> rfl
@[simp] theorem Fibre.writeP_sReplay (f : Fibre) (n : BitVec 3) (v : Mask) : (Fibre.writeP f n v).sReplay = f.sReplay := by
  unfold Fibre.writeP; split <;> rfl
@[simp] theorem Fibre.writeP_lReplay (f : Fibre) (n : BitVec 3) (v : Mask) : (Fibre.writeP f n v).lReplay = f.lReplay := by
  unfold Fibre.writeP; split <;> rfl
@[simp] theorem Fibre.writeP_lRaised (f : Fibre) (n : BitVec 3) (v : Mask) : (Fibre.writeP f n v).lRaised = f.lRaised := by
  unfold Fibre.writeP; split <;> rfl
@[simp] theorem Fibre.writeP_replayOf (f : Fibre) (n : BitVec 3) (v : Mask) : (Fibre.writeP f n v).replayOf = f.replayOf := by
  unfold Fibre.writeP; split <;> rfl
@[simp] theorem Fibre.writeP_fetchOf (f : Fibre) (n : BitVec 3) (v : Mask) : (Fibre.writeP f n v).fetchOf = f.fetchOf := by
  unfold Fibre.writeP; split <;> rfl
@[simp] theorem Fibre.writeP_cbarDone (f : Fibre) (n : BitVec 3) (v : Mask) : (Fibre.writeP f n v).cbarDone = f.cbarDone := by
  unfold Fibre.writeP; split <;> rfl
@[simp] theorem Fibre.writeP_trapped (f : Fibre) (n : BitVec 3) (v : Mask) : (Fibre.writeP f n v).trapped = f.trapped := by
  unfold Fibre.writeP; split <;> rfl
@[simp] theorem Fibre.writeP_ended (f : Fibre) (n : BitVec 3) (v : Mask) : (Fibre.writeP f n v).ended = f.ended := by
  unfold Fibre.writeP; split <;> rfl
@[simp] theorem Fibre.writeP_arrived (f : Fibre) (n : BitVec 3) (v : Mask) : (Fibre.writeP f n v).arrived = f.arrived := by
  unfold Fibre.writeP; split <;> rfl
@[simp] theorem Fibre.writeP_fence (f : Fibre) (n : BitVec 3) (v : Mask) : (Fibre.writeP f n v).fence = f.fence := by
  unfold Fibre.writeP; split <;> rfl
@[simp] theorem Fibre.writeP_q0 (f : Fibre) (n : BitVec 3) (v : Mask) : (Fibre.writeP f n v).q0 = f.q0 := by
  unfold Fibre.writeP; split <;> rfl
@[simp] theorem Fibre.writeP_q1 (f : Fibre) (n : BitVec 3) (v : Mask) : (Fibre.writeP f n v).q1 = f.q1 := by
  unfold Fibre.writeP; split <;> rfl
@[simp] theorem Fibre.writeP_q2 (f : Fibre) (n : BitVec 3) (v : Mask) : (Fibre.writeP f n v).q2 = f.q2 := by
  unfold Fibre.writeP; split <;> rfl
@[simp] theorem Fibre.writeP_q3 (f : Fibre) (n : BitVec 3) (v : Mask) : (Fibre.writeP f n v).q3 = f.q3 := by
  unfold Fibre.writeP; split <;> rfl
@[simp] theorem Fibre.writeP_q3lost (f : Fibre) (n : BitVec 3) (v : Mask) : (Fibre.writeP f n v).q3lost = f.q3lost := by
  unfold Fibre.writeP; split <;> rfl
@[simp] theorem Fibre.writeP_q4 (f : Fibre) (n : BitVec 3) (v : Mask) : (Fibre.writeP f n v).q4 = f.q4 := by
  unfold Fibre.writeP; split <;> rfl
@[simp] theorem Fibre.writeP_q5 (f : Fibre) (n : BitVec 3) (v : Mask) : (Fibre.writeP f n v).q5 = f.q5 := by
  unfold Fibre.writeP; split <;> rfl
@[simp] theorem Fibre.writeP_session (f : Fibre) (n : BitVec 3) (v : Mask) : (Fibre.writeP f n v).session = f.session := by
  unfold Fibre.writeP; split <;> rfl
@[simp] theorem Fibre.writeP_routeAsked (f : Fibre) (n : BitVec 3) (v : Mask) : (Fibre.writeP f n v).routeAsked = f.routeAsked := by
  unfold Fibre.writeP; split <;> rfl

/-! ### Fibre.raise -/

@[simp] theorem Fibre.raise_sregs (f : Fibre) (k : Option Nat) : (Fibre.raise f k).sregs = f.sregs := by
  unfold Fibre.raise; split <;> rfl
@[simp] theorem Fibre.raise_preds (f : Fibre) (k : Option Nat) : (Fibre.raise f k).preds = f.preds := by
  unfold Fibre.raise; split <;> rfl
@[simp] theorem Fibre.raise_em (f : Fibre) (k : Option Nat) : (Fibre.raise f k).em = f.em := by
  unfold Fibre.raise; split <;> rfl
@[simp] theorem Fibre.raise_aflags (f : Fibre) (k : Option Nat) : (Fibre.raise f k).aflags = f.aflags := by
  unfold Fibre.raise; split <;> rfl
@[simp] theorem Fibre.raise_gens (f : Fibre) (k : Option Nat) : (Fibre.raise f k).gens = f.gens := by
  unfold Fibre.raise; split <;> rfl
@[simp] theorem Fibre.raise_spc (f : Fibre) (k : Option Nat) : (Fibre.raise f k).spc = f.spc := by
  unfold Fibre.raise; split <;> rfl
@[simp] theorem Fibre.raise_lcbase (f : Fibre) (k : Option Nat) : (Fibre.raise f k).lcbase = f.lcbase := by
  unfold Fibre.raise; split <;> rfl
@[simp] theorem Fibre.raise_window (f : Fibre) (k : Option Nat) : (Fibre.raise f k).window = f.window := by
  unfold Fibre.raise; split <;> rfl
@[simp] theorem Fibre.raise_role (f : Fibre) (k : Option Nat) : (Fibre.raise f k).role = f.role := by
  unfold Fibre.raise; split <;> rfl
@[simp] theorem Fibre.raise_index (f : Fibre) (k : Option Nat) : (Fibre.raise f k).index = f.index := by
  unfold Fibre.raise; split <;> rfl
@[simp] theorem Fibre.raise_clauses (f : Fibre) (k : Option Nat) : (Fibre.raise f k).clauses = f.clauses := by
  unfold Fibre.raise; split <;> rfl
@[simp] theorem Fibre.raise_running (f : Fibre) (k : Option Nat) : (Fibre.raise f k).running = f.running := by
  unfold Fibre.raise; split <;> rfl
@[simp] theorem Fibre.raise_spend (f : Fibre) (k : Option Nat) : (Fibre.raise f k).spend = f.spend := by
  unfold Fibre.raise; split <;> rfl
@[simp] theorem Fibre.raise_lpend (f : Fibre) (k : Option Nat) : (Fibre.raise f k).lpend = f.lpend := by
  unfold Fibre.raise; split <;> rfl
@[simp] theorem Fibre.raise_nextId (f : Fibre) (k : Option Nat) : (Fibre.raise f k).nextId = f.nextId := by
  unfold Fibre.raise; split <;> rfl
@[simp] theorem Fibre.raise_sStall (f : Fibre) (k : Option Nat) : (Fibre.raise f k).sStall = f.sStall := by
  unfold Fibre.raise; split <;> rfl
@[simp] theorem Fibre.raise_lStall (f : Fibre) (k : Option Nat) : (Fibre.raise f k).lStall = f.lStall := by
  unfold Fibre.raise; split <;> rfl
@[simp] theorem Fibre.raise_sWait (f : Fibre) (k : Option Nat) : (Fibre.raise f k).sWait = f.sWait := by
  unfold Fibre.raise; split <;> rfl
@[simp] theorem Fibre.raise_waitWord (f : Fibre) (k : Option Nat) : (Fibre.raise f k).waitWord = f.waitWord := by
  unfold Fibre.raise; split <;> rfl
@[simp] theorem Fibre.raise_handler (f : Fibre) (k : Option Nat) : (Fibre.raise f k).handler = f.handler := by
  unfold Fibre.raise; split <;> rfl
@[simp] theorem Fibre.raise_frozen (f : Fibre) (k : Option Nat) : (Fibre.raise f k).frozen = f.frozen := by
  unfold Fibre.raise; split <;> rfl
@[simp] theorem Fibre.raise_parked (f : Fibre) (k : Option Nat) : (Fibre.raise f k).parked = f.parked := by
  unfold Fibre.raise; split <;> rfl
@[simp] theorem Fibre.raise_sReplay (f : Fibre) (k : Option Nat) : (Fibre.raise f k).sReplay = f.sReplay := by
  unfold Fibre.raise; split <;> rfl
@[simp] theorem Fibre.raise_lReplay (f : Fibre) (k : Option Nat) : (Fibre.raise f k).lReplay = f.lReplay := by
  unfold Fibre.raise; split <;> rfl
@[simp] theorem Fibre.raise_lRaised (f : Fibre) (k : Option Nat) : (Fibre.raise f k).lRaised = f.lRaised := by
  unfold Fibre.raise; split <;> rfl
@[simp] theorem Fibre.raise_replayOf (f : Fibre) (k : Option Nat) : (Fibre.raise f k).replayOf = f.replayOf := by
  unfold Fibre.raise; split <;> rfl
@[simp] theorem Fibre.raise_fetchOf (f : Fibre) (k : Option Nat) : (Fibre.raise f k).fetchOf = f.fetchOf := by
  unfold Fibre.raise; split <;> rfl
@[simp] theorem Fibre.raise_cbarDone (f : Fibre) (k : Option Nat) : (Fibre.raise f k).cbarDone = f.cbarDone := by
  unfold Fibre.raise; split <;> rfl
@[simp] theorem Fibre.raise_trapped (f : Fibre) (k : Option Nat) : (Fibre.raise f k).trapped = f.trapped := by
  unfold Fibre.raise; split <;> rfl
@[simp] theorem Fibre.raise_ended (f : Fibre) (k : Option Nat) : (Fibre.raise f k).ended = f.ended := by
  unfold Fibre.raise; split <;> rfl
@[simp] theorem Fibre.raise_arrived (f : Fibre) (k : Option Nat) : (Fibre.raise f k).arrived = f.arrived := by
  unfold Fibre.raise; split <;> rfl
@[simp] theorem Fibre.raise_fence (f : Fibre) (k : Option Nat) : (Fibre.raise f k).fence = f.fence := by
  unfold Fibre.raise; split <;> rfl
@[simp] theorem Fibre.raise_q0 (f : Fibre) (k : Option Nat) : (Fibre.raise f k).q0 = f.q0 := by
  unfold Fibre.raise; split <;> rfl
@[simp] theorem Fibre.raise_q1 (f : Fibre) (k : Option Nat) : (Fibre.raise f k).q1 = f.q1 := by
  unfold Fibre.raise; split <;> rfl
@[simp] theorem Fibre.raise_q2 (f : Fibre) (k : Option Nat) : (Fibre.raise f k).q2 = f.q2 := by
  unfold Fibre.raise; split <;> rfl
@[simp] theorem Fibre.raise_q3 (f : Fibre) (k : Option Nat) : (Fibre.raise f k).q3 = f.q3 := by
  unfold Fibre.raise; split <;> rfl
@[simp] theorem Fibre.raise_q3lost (f : Fibre) (k : Option Nat) : (Fibre.raise f k).q3lost = f.q3lost := by
  unfold Fibre.raise; split <;> rfl
@[simp] theorem Fibre.raise_q4 (f : Fibre) (k : Option Nat) : (Fibre.raise f k).q4 = f.q4 := by
  unfold Fibre.raise; split <;> rfl
@[simp] theorem Fibre.raise_q5 (f : Fibre) (k : Option Nat) : (Fibre.raise f k).q5 = f.q5 := by
  unfold Fibre.raise; split <;> rfl
@[simp] theorem Fibre.raise_session (f : Fibre) (k : Option Nat) : (Fibre.raise f k).session = f.session := by
  unfold Fibre.raise; split <;> rfl
@[simp] theorem Fibre.raise_routeAsked (f : Fibre) (k : Option Nat) : (Fibre.raise f k).routeAsked = f.routeAsked := by
  unfold Fibre.raise; split <;> rfl

/-! ### Fibre.lower -/

@[simp] theorem Fibre.lower_sregs (f : Fibre) (k : Option Nat) : (Fibre.lower f k).sregs = f.sregs := by
  unfold Fibre.lower; split <;> rfl
@[simp] theorem Fibre.lower_preds (f : Fibre) (k : Option Nat) : (Fibre.lower f k).preds = f.preds := by
  unfold Fibre.lower; split <;> rfl
@[simp] theorem Fibre.lower_em (f : Fibre) (k : Option Nat) : (Fibre.lower f k).em = f.em := by
  unfold Fibre.lower; split <;> rfl
@[simp] theorem Fibre.lower_aflags (f : Fibre) (k : Option Nat) : (Fibre.lower f k).aflags = f.aflags := by
  unfold Fibre.lower; split <;> rfl
@[simp] theorem Fibre.lower_gens (f : Fibre) (k : Option Nat) : (Fibre.lower f k).gens = f.gens := by
  unfold Fibre.lower; split <;> rfl
@[simp] theorem Fibre.lower_spc (f : Fibre) (k : Option Nat) : (Fibre.lower f k).spc = f.spc := by
  unfold Fibre.lower; split <;> rfl
@[simp] theorem Fibre.lower_lcbase (f : Fibre) (k : Option Nat) : (Fibre.lower f k).lcbase = f.lcbase := by
  unfold Fibre.lower; split <;> rfl
@[simp] theorem Fibre.lower_window (f : Fibre) (k : Option Nat) : (Fibre.lower f k).window = f.window := by
  unfold Fibre.lower; split <;> rfl
@[simp] theorem Fibre.lower_role (f : Fibre) (k : Option Nat) : (Fibre.lower f k).role = f.role := by
  unfold Fibre.lower; split <;> rfl
@[simp] theorem Fibre.lower_index (f : Fibre) (k : Option Nat) : (Fibre.lower f k).index = f.index := by
  unfold Fibre.lower; split <;> rfl
@[simp] theorem Fibre.lower_clauses (f : Fibre) (k : Option Nat) : (Fibre.lower f k).clauses = f.clauses := by
  unfold Fibre.lower; split <;> rfl
@[simp] theorem Fibre.lower_running (f : Fibre) (k : Option Nat) : (Fibre.lower f k).running = f.running := by
  unfold Fibre.lower; split <;> rfl
@[simp] theorem Fibre.lower_spend (f : Fibre) (k : Option Nat) : (Fibre.lower f k).spend = f.spend := by
  unfold Fibre.lower; split <;> rfl
@[simp] theorem Fibre.lower_lpend (f : Fibre) (k : Option Nat) : (Fibre.lower f k).lpend = f.lpend := by
  unfold Fibre.lower; split <;> rfl
@[simp] theorem Fibre.lower_nextId (f : Fibre) (k : Option Nat) : (Fibre.lower f k).nextId = f.nextId := by
  unfold Fibre.lower; split <;> rfl
@[simp] theorem Fibre.lower_sStall (f : Fibre) (k : Option Nat) : (Fibre.lower f k).sStall = f.sStall := by
  unfold Fibre.lower; split <;> rfl
@[simp] theorem Fibre.lower_lStall (f : Fibre) (k : Option Nat) : (Fibre.lower f k).lStall = f.lStall := by
  unfold Fibre.lower; split <;> rfl
@[simp] theorem Fibre.lower_sWait (f : Fibre) (k : Option Nat) : (Fibre.lower f k).sWait = f.sWait := by
  unfold Fibre.lower; split <;> rfl
@[simp] theorem Fibre.lower_waitWord (f : Fibre) (k : Option Nat) : (Fibre.lower f k).waitWord = f.waitWord := by
  unfold Fibre.lower; split <;> rfl
@[simp] theorem Fibre.lower_handler (f : Fibre) (k : Option Nat) : (Fibre.lower f k).handler = f.handler := by
  unfold Fibre.lower; split <;> rfl
@[simp] theorem Fibre.lower_frozen (f : Fibre) (k : Option Nat) : (Fibre.lower f k).frozen = f.frozen := by
  unfold Fibre.lower; split <;> rfl
@[simp] theorem Fibre.lower_parked (f : Fibre) (k : Option Nat) : (Fibre.lower f k).parked = f.parked := by
  unfold Fibre.lower; split <;> rfl
@[simp] theorem Fibre.lower_sReplay (f : Fibre) (k : Option Nat) : (Fibre.lower f k).sReplay = f.sReplay := by
  unfold Fibre.lower; split <;> rfl
@[simp] theorem Fibre.lower_lReplay (f : Fibre) (k : Option Nat) : (Fibre.lower f k).lReplay = f.lReplay := by
  unfold Fibre.lower; split <;> rfl
@[simp] theorem Fibre.lower_lRaised (f : Fibre) (k : Option Nat) : (Fibre.lower f k).lRaised = f.lRaised := by
  unfold Fibre.lower; split <;> rfl
@[simp] theorem Fibre.lower_replayOf (f : Fibre) (k : Option Nat) : (Fibre.lower f k).replayOf = f.replayOf := by
  unfold Fibre.lower; split <;> rfl
@[simp] theorem Fibre.lower_fetchOf (f : Fibre) (k : Option Nat) : (Fibre.lower f k).fetchOf = f.fetchOf := by
  unfold Fibre.lower; split <;> rfl
@[simp] theorem Fibre.lower_cbarDone (f : Fibre) (k : Option Nat) : (Fibre.lower f k).cbarDone = f.cbarDone := by
  unfold Fibre.lower; split <;> rfl
@[simp] theorem Fibre.lower_trapped (f : Fibre) (k : Option Nat) : (Fibre.lower f k).trapped = f.trapped := by
  unfold Fibre.lower; split <;> rfl
@[simp] theorem Fibre.lower_ended (f : Fibre) (k : Option Nat) : (Fibre.lower f k).ended = f.ended := by
  unfold Fibre.lower; split <;> rfl
@[simp] theorem Fibre.lower_arrived (f : Fibre) (k : Option Nat) : (Fibre.lower f k).arrived = f.arrived := by
  unfold Fibre.lower; split <;> rfl
@[simp] theorem Fibre.lower_fence (f : Fibre) (k : Option Nat) : (Fibre.lower f k).fence = f.fence := by
  unfold Fibre.lower; split <;> rfl
@[simp] theorem Fibre.lower_q0 (f : Fibre) (k : Option Nat) : (Fibre.lower f k).q0 = f.q0 := by
  unfold Fibre.lower; split <;> rfl
@[simp] theorem Fibre.lower_q1 (f : Fibre) (k : Option Nat) : (Fibre.lower f k).q1 = f.q1 := by
  unfold Fibre.lower; split <;> rfl
@[simp] theorem Fibre.lower_q2 (f : Fibre) (k : Option Nat) : (Fibre.lower f k).q2 = f.q2 := by
  unfold Fibre.lower; split <;> rfl
@[simp] theorem Fibre.lower_q3 (f : Fibre) (k : Option Nat) : (Fibre.lower f k).q3 = f.q3 := by
  unfold Fibre.lower; split <;> rfl
@[simp] theorem Fibre.lower_q3lost (f : Fibre) (k : Option Nat) : (Fibre.lower f k).q3lost = f.q3lost := by
  unfold Fibre.lower; split <;> rfl
@[simp] theorem Fibre.lower_q4 (f : Fibre) (k : Option Nat) : (Fibre.lower f k).q4 = f.q4 := by
  unfold Fibre.lower; split <;> rfl
@[simp] theorem Fibre.lower_q5 (f : Fibre) (k : Option Nat) : (Fibre.lower f k).q5 = f.q5 := by
  unfold Fibre.lower; split <;> rfl
@[simp] theorem Fibre.lower_session (f : Fibre) (k : Option Nat) : (Fibre.lower f k).session = f.session := by
  unfold Fibre.lower; split <;> rfl
@[simp] theorem Fibre.lower_routeAsked (f : Fibre) (k : Option Nat) : (Fibre.lower f k).routeAsked = f.routeAsked := by
  unfold Fibre.lower; split <;> rfl

/-! ### Fibre.orFlags -/

@[simp] theorem Fibre.orFlags_sregs (f : Fibre) (x : BitVec 6) : (Fibre.orFlags f x).sregs = f.sregs := rfl
@[simp] theorem Fibre.orFlags_preds (f : Fibre) (x : BitVec 6) : (Fibre.orFlags f x).preds = f.preds := rfl
@[simp] theorem Fibre.orFlags_em (f : Fibre) (x : BitVec 6) : (Fibre.orFlags f x).em = f.em := rfl
@[simp] theorem Fibre.orFlags_flags (f : Fibre) (x : BitVec 6) : (Fibre.orFlags f x).flags = f.flags := rfl
@[simp] theorem Fibre.orFlags_gens (f : Fibre) (x : BitVec 6) : (Fibre.orFlags f x).gens = f.gens := rfl
@[simp] theorem Fibre.orFlags_spc (f : Fibre) (x : BitVec 6) : (Fibre.orFlags f x).spc = f.spc := rfl
@[simp] theorem Fibre.orFlags_lcbase (f : Fibre) (x : BitVec 6) : (Fibre.orFlags f x).lcbase = f.lcbase := rfl
@[simp] theorem Fibre.orFlags_window (f : Fibre) (x : BitVec 6) : (Fibre.orFlags f x).window = f.window := rfl
@[simp] theorem Fibre.orFlags_role (f : Fibre) (x : BitVec 6) : (Fibre.orFlags f x).role = f.role := rfl
@[simp] theorem Fibre.orFlags_index (f : Fibre) (x : BitVec 6) : (Fibre.orFlags f x).index = f.index := rfl
@[simp] theorem Fibre.orFlags_clauses (f : Fibre) (x : BitVec 6) : (Fibre.orFlags f x).clauses = f.clauses := rfl
@[simp] theorem Fibre.orFlags_running (f : Fibre) (x : BitVec 6) : (Fibre.orFlags f x).running = f.running := rfl
@[simp] theorem Fibre.orFlags_spend (f : Fibre) (x : BitVec 6) : (Fibre.orFlags f x).spend = f.spend := rfl
@[simp] theorem Fibre.orFlags_lpend (f : Fibre) (x : BitVec 6) : (Fibre.orFlags f x).lpend = f.lpend := rfl
@[simp] theorem Fibre.orFlags_nextId (f : Fibre) (x : BitVec 6) : (Fibre.orFlags f x).nextId = f.nextId := rfl
@[simp] theorem Fibre.orFlags_sStall (f : Fibre) (x : BitVec 6) : (Fibre.orFlags f x).sStall = f.sStall := rfl
@[simp] theorem Fibre.orFlags_lStall (f : Fibre) (x : BitVec 6) : (Fibre.orFlags f x).lStall = f.lStall := rfl
@[simp] theorem Fibre.orFlags_sWait (f : Fibre) (x : BitVec 6) : (Fibre.orFlags f x).sWait = f.sWait := rfl
@[simp] theorem Fibre.orFlags_waitWord (f : Fibre) (x : BitVec 6) : (Fibre.orFlags f x).waitWord = f.waitWord := rfl
@[simp] theorem Fibre.orFlags_handler (f : Fibre) (x : BitVec 6) : (Fibre.orFlags f x).handler = f.handler := rfl
@[simp] theorem Fibre.orFlags_frozen (f : Fibre) (x : BitVec 6) : (Fibre.orFlags f x).frozen = f.frozen := rfl
@[simp] theorem Fibre.orFlags_parked (f : Fibre) (x : BitVec 6) : (Fibre.orFlags f x).parked = f.parked := rfl
@[simp] theorem Fibre.orFlags_sReplay (f : Fibre) (x : BitVec 6) : (Fibre.orFlags f x).sReplay = f.sReplay := rfl
@[simp] theorem Fibre.orFlags_lReplay (f : Fibre) (x : BitVec 6) : (Fibre.orFlags f x).lReplay = f.lReplay := rfl
@[simp] theorem Fibre.orFlags_lRaised (f : Fibre) (x : BitVec 6) : (Fibre.orFlags f x).lRaised = f.lRaised := rfl
@[simp] theorem Fibre.orFlags_replayOf (f : Fibre) (x : BitVec 6) : (Fibre.orFlags f x).replayOf = f.replayOf := rfl
@[simp] theorem Fibre.orFlags_fetchOf (f : Fibre) (x : BitVec 6) : (Fibre.orFlags f x).fetchOf = f.fetchOf := rfl
@[simp] theorem Fibre.orFlags_cbarDone (f : Fibre) (x : BitVec 6) : (Fibre.orFlags f x).cbarDone = f.cbarDone := rfl
@[simp] theorem Fibre.orFlags_trapped (f : Fibre) (x : BitVec 6) : (Fibre.orFlags f x).trapped = f.trapped := rfl
@[simp] theorem Fibre.orFlags_ended (f : Fibre) (x : BitVec 6) : (Fibre.orFlags f x).ended = f.ended := rfl
@[simp] theorem Fibre.orFlags_arrived (f : Fibre) (x : BitVec 6) : (Fibre.orFlags f x).arrived = f.arrived := rfl
@[simp] theorem Fibre.orFlags_fence (f : Fibre) (x : BitVec 6) : (Fibre.orFlags f x).fence = f.fence := rfl
@[simp] theorem Fibre.orFlags_q0 (f : Fibre) (x : BitVec 6) : (Fibre.orFlags f x).q0 = f.q0 := rfl
@[simp] theorem Fibre.orFlags_q1 (f : Fibre) (x : BitVec 6) : (Fibre.orFlags f x).q1 = f.q1 := rfl
@[simp] theorem Fibre.orFlags_q2 (f : Fibre) (x : BitVec 6) : (Fibre.orFlags f x).q2 = f.q2 := rfl
@[simp] theorem Fibre.orFlags_q3 (f : Fibre) (x : BitVec 6) : (Fibre.orFlags f x).q3 = f.q3 := rfl
@[simp] theorem Fibre.orFlags_q3lost (f : Fibre) (x : BitVec 6) : (Fibre.orFlags f x).q3lost = f.q3lost := rfl
@[simp] theorem Fibre.orFlags_q4 (f : Fibre) (x : BitVec 6) : (Fibre.orFlags f x).q4 = f.q4 := rfl
@[simp] theorem Fibre.orFlags_q5 (f : Fibre) (x : BitVec 6) : (Fibre.orFlags f x).q5 = f.q5 := rfl
@[simp] theorem Fibre.orFlags_session (f : Fibre) (x : BitVec 6) : (Fibre.orFlags f x).session = f.session := rfl
@[simp] theorem Fibre.orFlags_routeAsked (f : Fibre) (x : BitVec 6) : (Fibre.orFlags f x).routeAsked = f.routeAsked := rfl

/-! ### Fibre.pend -/

@[simp] theorem Fibre.pend_sregs (f : Fibre) (r : BitVec 6) (v : Option Word) : (Fibre.pend f r v).sregs = f.sregs := rfl
@[simp] theorem Fibre.pend_preds (f : Fibre) (r : BitVec 6) (v : Option Word) : (Fibre.pend f r v).preds = f.preds := rfl
@[simp] theorem Fibre.pend_em (f : Fibre) (r : BitVec 6) (v : Option Word) : (Fibre.pend f r v).em = f.em := rfl
@[simp] theorem Fibre.pend_flags (f : Fibre) (r : BitVec 6) (v : Option Word) : (Fibre.pend f r v).flags = f.flags := rfl
@[simp] theorem Fibre.pend_aflags (f : Fibre) (r : BitVec 6) (v : Option Word) : (Fibre.pend f r v).aflags = f.aflags := rfl
@[simp] theorem Fibre.pend_gens (f : Fibre) (r : BitVec 6) (v : Option Word) : (Fibre.pend f r v).gens = f.gens := rfl
@[simp] theorem Fibre.pend_spc (f : Fibre) (r : BitVec 6) (v : Option Word) : (Fibre.pend f r v).spc = f.spc := rfl
@[simp] theorem Fibre.pend_lcbase (f : Fibre) (r : BitVec 6) (v : Option Word) : (Fibre.pend f r v).lcbase = f.lcbase := rfl
@[simp] theorem Fibre.pend_window (f : Fibre) (r : BitVec 6) (v : Option Word) : (Fibre.pend f r v).window = f.window := rfl
@[simp] theorem Fibre.pend_role (f : Fibre) (r : BitVec 6) (v : Option Word) : (Fibre.pend f r v).role = f.role := rfl
@[simp] theorem Fibre.pend_index (f : Fibre) (r : BitVec 6) (v : Option Word) : (Fibre.pend f r v).index = f.index := rfl
@[simp] theorem Fibre.pend_clauses (f : Fibre) (r : BitVec 6) (v : Option Word) : (Fibre.pend f r v).clauses = f.clauses := rfl
@[simp] theorem Fibre.pend_running (f : Fibre) (r : BitVec 6) (v : Option Word) : (Fibre.pend f r v).running = f.running := rfl
@[simp] theorem Fibre.pend_lpend (f : Fibre) (r : BitVec 6) (v : Option Word) : (Fibre.pend f r v).lpend = f.lpend := rfl
@[simp] theorem Fibre.pend_sStall (f : Fibre) (r : BitVec 6) (v : Option Word) : (Fibre.pend f r v).sStall = f.sStall := rfl
@[simp] theorem Fibre.pend_lStall (f : Fibre) (r : BitVec 6) (v : Option Word) : (Fibre.pend f r v).lStall = f.lStall := rfl
@[simp] theorem Fibre.pend_sWait (f : Fibre) (r : BitVec 6) (v : Option Word) : (Fibre.pend f r v).sWait = f.sWait := rfl
@[simp] theorem Fibre.pend_waitWord (f : Fibre) (r : BitVec 6) (v : Option Word) : (Fibre.pend f r v).waitWord = f.waitWord := rfl
@[simp] theorem Fibre.pend_handler (f : Fibre) (r : BitVec 6) (v : Option Word) : (Fibre.pend f r v).handler = f.handler := rfl
@[simp] theorem Fibre.pend_frozen (f : Fibre) (r : BitVec 6) (v : Option Word) : (Fibre.pend f r v).frozen = f.frozen := rfl
@[simp] theorem Fibre.pend_parked (f : Fibre) (r : BitVec 6) (v : Option Word) : (Fibre.pend f r v).parked = f.parked := rfl
@[simp] theorem Fibre.pend_sReplay (f : Fibre) (r : BitVec 6) (v : Option Word) : (Fibre.pend f r v).sReplay = f.sReplay := rfl
@[simp] theorem Fibre.pend_lReplay (f : Fibre) (r : BitVec 6) (v : Option Word) : (Fibre.pend f r v).lReplay = f.lReplay := rfl
@[simp] theorem Fibre.pend_lRaised (f : Fibre) (r : BitVec 6) (v : Option Word) : (Fibre.pend f r v).lRaised = f.lRaised := rfl
@[simp] theorem Fibre.pend_replayOf (f : Fibre) (r : BitVec 6) (v : Option Word) : (Fibre.pend f r v).replayOf = f.replayOf := rfl
@[simp] theorem Fibre.pend_fetchOf (f : Fibre) (r : BitVec 6) (v : Option Word) : (Fibre.pend f r v).fetchOf = f.fetchOf := rfl
@[simp] theorem Fibre.pend_cbarDone (f : Fibre) (r : BitVec 6) (v : Option Word) : (Fibre.pend f r v).cbarDone = f.cbarDone := rfl
@[simp] theorem Fibre.pend_trapped (f : Fibre) (r : BitVec 6) (v : Option Word) : (Fibre.pend f r v).trapped = f.trapped := rfl
@[simp] theorem Fibre.pend_ended (f : Fibre) (r : BitVec 6) (v : Option Word) : (Fibre.pend f r v).ended = f.ended := rfl
@[simp] theorem Fibre.pend_arrived (f : Fibre) (r : BitVec 6) (v : Option Word) : (Fibre.pend f r v).arrived = f.arrived := rfl
@[simp] theorem Fibre.pend_fence (f : Fibre) (r : BitVec 6) (v : Option Word) : (Fibre.pend f r v).fence = f.fence := rfl
@[simp] theorem Fibre.pend_q0 (f : Fibre) (r : BitVec 6) (v : Option Word) : (Fibre.pend f r v).q0 = f.q0 := rfl
@[simp] theorem Fibre.pend_q1 (f : Fibre) (r : BitVec 6) (v : Option Word) : (Fibre.pend f r v).q1 = f.q1 := rfl
@[simp] theorem Fibre.pend_q2 (f : Fibre) (r : BitVec 6) (v : Option Word) : (Fibre.pend f r v).q2 = f.q2 := rfl
@[simp] theorem Fibre.pend_q3 (f : Fibre) (r : BitVec 6) (v : Option Word) : (Fibre.pend f r v).q3 = f.q3 := rfl
@[simp] theorem Fibre.pend_q3lost (f : Fibre) (r : BitVec 6) (v : Option Word) : (Fibre.pend f r v).q3lost = f.q3lost := rfl
@[simp] theorem Fibre.pend_q4 (f : Fibre) (r : BitVec 6) (v : Option Word) : (Fibre.pend f r v).q4 = f.q4 := rfl
@[simp] theorem Fibre.pend_q5 (f : Fibre) (r : BitVec 6) (v : Option Word) : (Fibre.pend f r v).q5 = f.q5 := rfl
@[simp] theorem Fibre.pend_session (f : Fibre) (r : BitVec 6) (v : Option Word) : (Fibre.pend f r v).session = f.session := rfl
@[simp] theorem Fibre.pend_routeAsked (f : Fibre) (r : BitVec 6) (v : Option Word) : (Fibre.pend f r v).routeAsked = f.routeAsked := rfl

/-! ### Fibre.next4 -/

@[simp] theorem Fibre.next4_sregs (f : Fibre) : (Fibre.next4 f).sregs = f.sregs := rfl
@[simp] theorem Fibre.next4_preds (f : Fibre) : (Fibre.next4 f).preds = f.preds := rfl
@[simp] theorem Fibre.next4_em (f : Fibre) : (Fibre.next4 f).em = f.em := rfl
@[simp] theorem Fibre.next4_flags (f : Fibre) : (Fibre.next4 f).flags = f.flags := rfl
@[simp] theorem Fibre.next4_aflags (f : Fibre) : (Fibre.next4 f).aflags = f.aflags := rfl
@[simp] theorem Fibre.next4_gens (f : Fibre) : (Fibre.next4 f).gens = f.gens := rfl
@[simp] theorem Fibre.next4_lcbase (f : Fibre) : (Fibre.next4 f).lcbase = f.lcbase := rfl
@[simp] theorem Fibre.next4_window (f : Fibre) : (Fibre.next4 f).window = f.window := rfl
@[simp] theorem Fibre.next4_role (f : Fibre) : (Fibre.next4 f).role = f.role := rfl
@[simp] theorem Fibre.next4_index (f : Fibre) : (Fibre.next4 f).index = f.index := rfl
@[simp] theorem Fibre.next4_clauses (f : Fibre) : (Fibre.next4 f).clauses = f.clauses := rfl
@[simp] theorem Fibre.next4_running (f : Fibre) : (Fibre.next4 f).running = f.running := rfl
@[simp] theorem Fibre.next4_spend (f : Fibre) : (Fibre.next4 f).spend = f.spend := rfl
@[simp] theorem Fibre.next4_lpend (f : Fibre) : (Fibre.next4 f).lpend = f.lpend := rfl
@[simp] theorem Fibre.next4_nextId (f : Fibre) : (Fibre.next4 f).nextId = f.nextId := rfl
@[simp] theorem Fibre.next4_sStall (f : Fibre) : (Fibre.next4 f).sStall = f.sStall := rfl
@[simp] theorem Fibre.next4_lStall (f : Fibre) : (Fibre.next4 f).lStall = f.lStall := rfl
@[simp] theorem Fibre.next4_sWait (f : Fibre) : (Fibre.next4 f).sWait = f.sWait := rfl
@[simp] theorem Fibre.next4_waitWord (f : Fibre) : (Fibre.next4 f).waitWord = f.waitWord := rfl
@[simp] theorem Fibre.next4_handler (f : Fibre) : (Fibre.next4 f).handler = f.handler := rfl
@[simp] theorem Fibre.next4_frozen (f : Fibre) : (Fibre.next4 f).frozen = f.frozen := rfl
@[simp] theorem Fibre.next4_parked (f : Fibre) : (Fibre.next4 f).parked = f.parked := rfl
@[simp] theorem Fibre.next4_sReplay (f : Fibre) : (Fibre.next4 f).sReplay = f.sReplay := rfl
@[simp] theorem Fibre.next4_lReplay (f : Fibre) : (Fibre.next4 f).lReplay = f.lReplay := rfl
@[simp] theorem Fibre.next4_lRaised (f : Fibre) : (Fibre.next4 f).lRaised = f.lRaised := rfl
@[simp] theorem Fibre.next4_replayOf (f : Fibre) : (Fibre.next4 f).replayOf = f.replayOf := rfl
@[simp] theorem Fibre.next4_fetchOf (f : Fibre) : (Fibre.next4 f).fetchOf = f.fetchOf := rfl
@[simp] theorem Fibre.next4_cbarDone (f : Fibre) : (Fibre.next4 f).cbarDone = f.cbarDone := rfl
@[simp] theorem Fibre.next4_trapped (f : Fibre) : (Fibre.next4 f).trapped = f.trapped := rfl
@[simp] theorem Fibre.next4_ended (f : Fibre) : (Fibre.next4 f).ended = f.ended := rfl
@[simp] theorem Fibre.next4_arrived (f : Fibre) : (Fibre.next4 f).arrived = f.arrived := rfl
@[simp] theorem Fibre.next4_fence (f : Fibre) : (Fibre.next4 f).fence = f.fence := rfl
@[simp] theorem Fibre.next4_q0 (f : Fibre) : (Fibre.next4 f).q0 = f.q0 := rfl
@[simp] theorem Fibre.next4_q1 (f : Fibre) : (Fibre.next4 f).q1 = f.q1 := rfl
@[simp] theorem Fibre.next4_q2 (f : Fibre) : (Fibre.next4 f).q2 = f.q2 := rfl
@[simp] theorem Fibre.next4_q3 (f : Fibre) : (Fibre.next4 f).q3 = f.q3 := rfl
@[simp] theorem Fibre.next4_q3lost (f : Fibre) : (Fibre.next4 f).q3lost = f.q3lost := rfl
@[simp] theorem Fibre.next4_q4 (f : Fibre) : (Fibre.next4 f).q4 = f.q4 := rfl
@[simp] theorem Fibre.next4_q5 (f : Fibre) : (Fibre.next4 f).q5 = f.q5 := rfl
@[simp] theorem Fibre.next4_session (f : Fibre) : (Fibre.next4 f).session = f.session := rfl
@[simp] theorem Fibre.next4_routeAsked (f : Fibre) : (Fibre.next4 f).routeAsked = f.routeAsked := rfl

/-! ### Bank.set -/

@[simp] theorem Bank.set_state (b : Bank) (o : Nat) (v : Byte) : (Bank.set b o v).state = b.state := rfl
@[simp] theorem Bank.set_latent (b : Bank) (o : Nat) (v : Byte) : (Bank.set b o v).latent = b.latent := rfl
@[simp] theorem Bank.set_poison (b : Bank) (o : Nat) (v : Byte) : (Bank.set b o v).poison = b.poison := rfl
@[simp] theorem Bank.set_armed (b : Bank) (o : Nat) (v : Byte) : (Bank.set b o v).armed = b.armed := rfl

@[simp] theorem Fibre.next4_spc (f : Fibre) : f.next4.spc = f.spc + 4#64 := rfl

/-- What a scalar register reads after a write (R25). -/
@[simp] theorem Fibre.readS_writeS (f : Fibre) (d r : BitVec 6) (v : Word) :
    (f.writeS d v).readS r = if r = d ∧ r ≠ 0#6 then v else f.readS r := by
  unfold Fibre.writeS Fibre.readS
  by_cases hr : r = 0#6
  · simp [hr]
  · by_cases hd : d = 0#6
    · subst hd; simp [hr]
    · by_cases h : r = d
      · subst h; simp [hr]
      · have : d.toNat ≠ r.toNat := fun e => h (BitVec.eq_of_toNat_eq e.symm)
        simp [hr, hd, h, this]

@[simp] theorem Fibre.readS_next4 (f : Fibre) (r : BitVec 6) : f.next4.readS r = f.readS r := rfl

/-- What a predicate register reads after a write (R25). -/
@[simp] theorem Fibre.readP_writeP (f : Fibre) (d r : BitVec 3) (v : Mask) :
    (f.writeP d v).readP r = if r = d ∧ r ≠ 0#3 then v else f.readP r := by
  unfold Fibre.writeP Fibre.readP
  by_cases hr : r = 0#3
  · simp [hr]
  · by_cases hd : d = 0#3
    · subst hd; simp [hr]
    · by_cases h : r = d
      · subst h; simp [hr]
      · have : d.toNat ≠ r.toNat := fun e => h (BitVec.eq_of_toNat_eq e.symm)
        simp [hr, hd, h, this]

@[simp] theorem lookup_setFibre (s : State) (k j : Nat) (f : Fibre) :
    lookup (setFibre s k f).fibres j = if k = j then some f else lookup s.fibres j := lookup_put ..

@[simp] theorem lookup_onFibre (s : State) (k j : Nat) (g : Fibre → Fibre) :
    lookup (onFibre s k g).fibres j = if k = j then (lookup s.fibres k).map g else lookup s.fibres j := lookup_alter ..

@[simp] theorem lookup_onCur (s : State) (j : Nat) (g : Fibre → Fibre) :
    lookup (onCur s g).fibres j = if s.cur = j then (lookup s.fibres s.cur).map g else lookup s.fibres j := lookup_alter ..

@[simp] theorem lookup_onCrew (s : State) (k j : Nat) (g : Crew → Crew) :
    lookup (onCrew s k g).crews j = if k = j then (lookup s.crews k).map g else lookup s.crews j := lookup_alter ..

@[simp] theorem lookup_onBank (s : State) (k j : Nat) (g : Bank → Bank) :
    lookup (onBank s k g).banks j = if k = j then some (g (bankOf s k)) else lookup s.banks j := lookup_put ..

@[simp] theorem bankOf_onBank (s : State) (k j : Nat) (g : Bank → Bank) :
    bankOf (onBank s k g) j = if k = j then g (bankOf s k) else bankOf s j := by
  unfold bankOf lookupD
  rw [lookup_onBank]
  split <;> rfl

end Sys2Proof.Machine
end

