-- ==== Sys2Proof/Laws/Issue.lean ====
section
/-! SUPPORT. What the issue of an instruction does, said once: a charge, a tick of grace, the counters, and nothing else (R116, R334, R335). -/

namespace Sys2Proof.Machine

/-! ### Changes of crews alone -/

/-- Two states that differ at most in what a charge may change of crews, and in event counters. -/
def OnlyGrace (s t : State) : Prop :=
  CrewsCalm s t ∧
    (∀ k, (lookup t.crews k).map (fun w => (w.bi.toNat, w.bm.toNat)) = (lookup s.crews k).map (fun w => (w.bi.toNat, w.bm.toNat))) ∧
    { t with crews := s.crews, counters := s.counters } = s

theorem CrewsCalm.refl (s : State) : CrewsCalm s s := ⟨fun _ => rfl, fun _ => Iff.rfl⟩

theorem CrewsCalm.trans {s t u : State} (h : CrewsCalm s t) (h' : CrewsCalm t u) : CrewsCalm s u :=
  ⟨fun k => (h'.1 k).trans (h.1 k), fun x => (h'.2 x).trans (h.2 x)⟩

/-- What a table lists at a key. -/
theorem mem_of_lookup {α : Type} {t : Tab α} {k : Nat} {v : α} (h : lookup t k = some v) : (k, v) ∈ t := by
  induction t with
  | nil => cases h
  | cons c r ih =>
    obtain ⟨j, x⟩ := c
    simp only [lookup] at h
    split at h
    · cases h; simp_all
    · exact List.mem_cons_of_mem _ (ih h)

/-- A put of a value that looks as the one at its key lists the same. -/
theorem mem_map_put {α β : Type} (f : α → β) {t : Tab α} {k : Nat} {v v' : α} (h : lookup t k = some v) (hv : f v' = f v) (y : Nat × β) :
    y ∈ (put t k v').map (fun x => (x.1, f x.2)) ↔ y ∈ t.map (fun x => (x.1, f x.2)) := by
  induction t with
  | nil => cases h
  | cons c r ih =>
    obtain ⟨j, x⟩ := c
    have hm := mem_of_lookup h
    simp only [put]
    split
    · rw [List.map_cons, List.mem_cons, hv]
      refine ⟨fun e => ?_, Or.inr⟩
      obtain rfl | e := e
      · exact List.mem_map_of_mem (f := fun x => (x.1, f x.2)) hm
      · exact e
    · split
      · rename_i e; subst e
        simp only [lookup, if_true] at h
        cases h
        simp [hv]
      · rename_i hne
        simp only [lookup, Ne.symm hne, if_false] at h
        simp only [List.map_cons, List.mem_cons, ih h]

/-- A crew changed in what an issue may change. -/
theorem CrewsCalm.onCrew (s : State) (bk : Nat) (g : Crew → Crew) (hc : ∀ w, (g w).calm = w.calm) : CrewsCalm s (onCrew s bk g) := by
  refine ⟨fun k => ?_, fun x => ?_⟩
  · rw [lookup_onCrew]
    split
    · rename_i e; subst e; cases lookup s.crews bk <;> simp [hc]
    · rfl
  · unfold Machine.onCrew alter
    cases h : lookup s.crews bk with
    | none => exact Iff.rfl
    | some w => exact mem_map_put Crew.calm h (hc w) x

theorem OnlyGrace.refl (s : State) : OnlyGrace s s := ⟨CrewsCalm.refl s, fun _ => rfl, rfl⟩

theorem OnlyGrace.trans {s t u : State} (h : OnlyGrace s t) (h' : OnlyGrace t u) : OnlyGrace s u := by
  refine ⟨h.1.trans h'.1, fun k => (h'.2.1 k).trans (h.2.1 k), ?_⟩
  have e := h'.2.2
  rw [← h.2.2, ← e]

/-- A crew changed in its grace and notices alone. -/
theorem OnlyGrace.onCrew (s : State) (bk : Nat) (g : Crew → Crew) (hc : ∀ w, (g w).calm = w.calm) (hb : ∀ w, (g w).bi = w.bi)
    (hm : ∀ w, (g w).bm = w.bm) : OnlyGrace s (onCrew s bk g) := by
  refine ⟨CrewsCalm.onCrew s bk g hc, fun k => ?_, rfl⟩
  rw [lookup_onCrew]
  split
  · rename_i e; subst e; cases lookup s.crews bk <;> simp [hb, hm]
  · rfl

theorem OnlyGrace.postNotice (s : State) (bk : Nat) (x : Word) : OnlyGrace s (postNotice s bk x) := by
  unfold Machine.postNotice
  apply OnlyGrace.onCrew <;> intro w <;> split <;> (try split) <;> rfl

theorem OnlyGrace.countCore (s : State) (i c n : Nat) : OnlyGrace s (countCore s i c n) := by
  unfold Machine.countCore
  split
  · exact OnlyGrace.refl s
  · exact ⟨CrewsCalm.refl s, fun _ => rfl, rfl⟩

/-- Starting grace changes nothing but grace and notices (R255, R331, R347). -/
theorem OnlyGrace.startGrace (s : State) (bk fk : Nat) (spc : Word) : OnlyGrace s (startGrace s bk fk spc) := by
  unfold Machine.startGrace
  split
  · exact OnlyGrace.refl s
  · rename_i w hw
    generalize deckMembers s w = l
    suffices ∀ (l : List Nat) (t : State), OnlyGrace s t → OnlyGrace s (l.foldl (fun t k =>
        match lookup t.crews k with
        | none => t
        | some m => if m.g then t
          else Machine.postNotice (Machine.onCrew t k (fun m => { m with g := true, grace := 256#9, graceClock := t.clock })) k
            (noticeWord 3 0 fk spc)) t) from this l s (OnlyGrace.refl s)
    intro l
    induction l with
    | nil => exact fun t h => h
    | cons k r ih =>
      intro t h
      apply ih
      dsimp only
      split
      · exact h
      · split
        · exact h
        · have := OnlyGrace.onCrew t k (fun m => { m with g := true, grace := 256#9, graceClock := t.clock })
            (fun _ => rfl) (fun _ => rfl) (fun _ => rfl)
          exact h.trans (this.trans (OnlyGrace.postNotice _ _ _))

theorem OnlyGrace.graceTick (s : State) (bk : Nat) : OnlyGrace s (graceTick s bk) := by
  unfold Machine.graceTick
  split
  · exact OnlyGrace.refl s
  · split
    · exact OnlyGrace.onCrew _ _ _ (fun _ => rfl) (fun _ => rfl) (fun _ => rfl)
    · exact OnlyGrace.refl s

/-! ### The charge -/

/-- LEFT after a charge (R334). -/
theorem spend_toNat (left : BitVec 32) (n : Nat) : (spend left n).toNat = left.toNat - n := by
  unfold spend
  rw [BitVec.toNat_ofNat, Nat.mod_eq_of_lt]
  have := left.isLt
  omega

/-- A change that charges the crew of bank `bk` and changes nothing else but grace, notices and counters. -/
def Charges (s t : State) (bk bi bm : Nat) : Prop :=
  CrewsCharged s t bk bi bm ∧ CrewsCalm s t ∧ { t with crews := s.crews, counters := s.counters } = s

theorem OnlyGrace.charges {s t : State} (h : OnlyGrace s t) (bk : Nat) : Charges s t bk 0 0 :=
  ⟨⟨h.1.1, fun k => by rw [h.2.1]; congr 1; funext w; simp⟩, h.1, h.2.2⟩

theorem Charges.before {s t u : State} {bk bi bm : Nat} (h : OnlyGrace s t) (h' : Charges t u bk bi bm) : Charges s u bk bi bm := by
  refine ⟨⟨fun k => (h'.1.1 k).trans (h.1.1 k), fun k => ?_⟩, h.1.trans h'.2.1, ?_⟩
  · have e := h.2.1 k
    have e' := h'.1.2 k
    rw [e']
    cases hs : lookup s.crews k <;> cases ht : lookup t.crews k <;> simp [hs, ht] at e ⊢
    rw [e.1, e.2]
  · have e := h'.2.2
    rw [← h.2.2, ← e]

theorem Charges.after {s t u : State} {bk bi bm : Nat} (h : Charges s t bk bi bm) (h' : OnlyGrace t u) : Charges s u bk bi bm := by
  refine ⟨⟨fun k => (h'.1.1 k).trans (h.1.1 k), fun k => (h'.2.1 k).trans (h.1.2 k)⟩, h.2.1.trans h'.1, ?_⟩
  have e := h'.2.2
  rw [← h.2.2, ← e]

/-- What a charge does: LEFT of the two budgets falls, and grace may start (R331, R334, R335). -/
theorem charge_charges (s : State) (bk fk : Nat) (spc : Word) (bi bm : Nat) : Charges s (charge s bk fk spc bi bm) bk bi bm := by
  unfold charge
  cases hw : lookup s.crews bk with
  | none =>
    refine ⟨⟨fun _ => rfl, fun k => ?_⟩, CrewsCalm.refl s, rfl⟩
    by_cases e : k = bk
    · subst e; simp [hw]
    · congr 1; funext w; simp [e]
  | some w =>
    have h : Charges s (onCrew s bk (fun w => { w with bi := spend w.bi bi, bm := spend w.bm bm })) bk bi bm := by
      have hc : CrewsCalm s (onCrew s bk (fun w => { w with bi := spend w.bi bi, bm := spend w.bm bm })) := CrewsCalm.onCrew _ _ _ (fun _ => rfl)
      refine ⟨⟨hc.1, fun k => ?_⟩, hc, rfl⟩
      · rw [lookup_onCrew]
        by_cases e : bk = k
        · subst e; simp [hw, spend_toNat]
        · simp only [e, if_false]; congr 1; funext w; simp [Ne.symm e]
    dsimp only
    split
    · exact h.after (OnlyGrace.startGrace ..)
    · exact h

/-! ### The issue of a scalar instruction -/

/-- The issue of a scalar instruction changes of crews only what an issue may (R334). -/
theorem issueScalar_calm (s : State) (spc : Word) (bi bm : Nat) : CrewsCalm s (issueScalar s spc bi bm) :=
  ((((OnlyGrace.countCore _ _ _ _).trans (OnlyGrace.graceTick _ _)) |> fun h => Charges.before h (charge_charges _ _ _ _ _ _)).2.1 :
    CrewsCalm (onCur s Fibre.issued) _)

/-- What the issue of a scalar instruction does (R116, R334, R335). -/
theorem issueScalar_becomes {s : State} {f : Fibre} (hf : lookup s.fibres s.cur = some f) (spc : Word) (bi bm : Nat) :
    Becomes s (issueScalar s spc bi bm) f.issued bi bm := by
  have key : ∀ u, Charges (onCur s Fibre.issued) u (bankOfFibre s.cur) bi bm → Becomes s u f.issued bi bm := by
    intro u h
    have e := h.2.2
    have hfib : u.fibres = (onCur s Fibre.issued).fibres := by have := congrArg State.fibres e; exact this
    have hmem : u.mem = s.mem := by have := congrArg State.mem e; exact this
    have hbank : u.banks = s.banks := by have := congrArg State.banks e; exact this
    refine ⟨?_, fun k hk => ?_, ⟨h.1.1, h.1.2⟩, ?_, fun p => ?_⟩
    · rw [hfib]; simp [hf]
    · rw [hfib]; simp [Ne.symm hk]
    · have : ({ ({ u with crews := s.crews, counters := s.counters } : State) with fibres := s.fibres } : State) =
          { onCur s Fibre.issued with fibres := s.fibres } := by rw [← e]; rfl
      exact this
    · unfold byteAt bankOf; rw [hmem, hbank]
  apply key
  unfold issueScalar
  exact ((OnlyGrace.countCore _ _ _ _).trans (OnlyGrace.graceTick _ _)) |> fun h => Charges.before h (charge_charges _ _ _ _ _ _)

/-- A change of the current fibre after an issue. -/
theorem Becomes.onCur {s t : State} {f : Fibre} {bi bm : Nat} (h : Becomes s t f bi bm) (g : Fibre → Fibre) :
    Becomes s (onCur t g) (g f) bi bm := by
  obtain ⟨h1, h2, h3, h4, h5⟩ := h
  have hc : t.cur = s.cur := by have := congrArg State.cur h4; exact this
  refine ⟨?_, fun k hk => ?_, h3, ?_, h5⟩
  · rw [lookup_onCur, hc, if_pos rfl, h1]; rfl
  · rw [lookup_onCur, hc, if_neg (Ne.symm hk), h2 k hk]
  · exact h4

/-! ### Scalar instructions -/

/-- The current fibre is there. -/
theorem Runs.here {s : State} {f : Fibre} {w : Crew} (h : Runs s f w) : ∃ e, envOf s w = some e ∧ here s =
    some { f := f, w := w, sl := slotOf s (slotOfFibre s.cur), env := e } := by
  obtain ⟨h1, h2, h3⟩ := h
  obtain ⟨c, hc⟩ := Option.isSome_iff_exists.1 h3
  have he : envOf s w = some (envWith s w.ctx c w.own w.heapBase w.heapLimit w.heapOffset w.heapRejected) := by
    unfold envOf envOfView
    rw [hc]
    rfl
  refine ⟨_, he, ?_⟩
  unfold Machine.here
  rw [h1, h2]
  simp [he]

/-- An instruction whose registers are ready reaches its body. -/
theorem scalarOp_body {s : State} {f : Fibre} {w : Crew} (h : Runs s f w) (sw : Bool) {reads : List (BitVec 6)} (hr : Ready f reads)
    (body : Here → Out) : ∃ x : Here, x.f = f ∧ x.w = w ∧ envOf s w = some x.env ∧ x.sl = slotOf s (slotOfFibre s.cur) ∧
      scalarOp sw reads s body = body x := by
  obtain ⟨e, hv, he⟩ := h.here
  refine ⟨{ f := f, w := w, sl := slotOf s (slotOfFibre s.cur), env := e }, rfl, rfl, hv, rfl, ?_⟩
  unfold scalarOp
  rw [he]
  have : reads.find? f.outstanding = none := by
    rw [List.find?_eq_none]
    intro r hr'
    simp [hr r hr']
  simp only [this]

theorem Fibre.issued_still (f : Fibre) : f.issued.still = f.still := by
  unfold Fibre.issued Fibre.still
  cases f.fence <;> rfl

theorem Fibre.writeS_still (f : Fibre) (d : BitVec 6) (v : Word) : (f.writeS d v).still = f.still := by
  unfold Fibre.writeS
  split <;> rfl

theorem Fibre.next4_still (f : Fibre) : f.next4.still = f.still := rfl

/-- A write discards older results of its register alone (R115). -/
theorem Fibre.writeS_due (f : Fibre) (d r : BitVec 6) (v : Word) (h : r ≠ d) : (f.writeS d v).due r = f.due r := by
  unfold Fibre.writeS
  split
  · rfl
  · unfold Fibre.due
    dsimp only
    induction f.spend with
    | nil => rfl
    | cons p l ih =>
      by_cases e : p.dest = d
      · have : (p.dest == r) = false := by simp [e, Ne.symm h]
        simp only [List.map_cons, List.filter_cons, if_pos e, this, Bool.and_false, ih]
        rfl
      · simp only [List.map_cons, List.filter_cons, e, if_false, ih]

@[simp] theorem Fibre.next4_due (f : Fibre) (r : BitVec 6) : f.next4.due r = f.due r := rfl

@[simp] theorem Fibre.issued_due (f : Fibre) (r : BitVec 6) : f.issued.due r = f.due r := rfl

@[simp] theorem Fibre.issued_spc (f : Fibre) : f.issued.spc = f.spc := rfl

@[simp] theorem Fibre.issued_readS (f : Fibre) (r : BitVec 6) : f.issued.readS r = f.readS r := rfl

/-- What a register result does (R114, R116): `compute` of a ready instruction completes. -/
theorem compute_next {s : State} {f : Fibre} {w : Crew} (h : Runs s f w) (sw : Bool) {reads : List (BitVec 6)} (hr : Ready f reads)
    (d : BitVec 6) (v : Fibre → Word) :
    ∃ t f', compute sw reads d v s = .next t ∧ Becomes s t f' 1 0 ∧ Wrote f f' d (v f) := by
  obtain ⟨x, hx, -, -, -, e⟩ := scalarOp_body h sw hr
    (fun h => .next (onCur (issueScalar s h.f.spc 1 0) (fun f => (f.writeS d (v h.f)).next4)))
  subst hx
  refine ⟨_, _, e, (issueScalar_becomes h.1 _ _ _).onCur _, fun r => ?_, ?_, ?_, fun r hr => ?_⟩
  · simp
  · simp
  rotate_left
  · rw [Fibre.next4_due, Fibre.writeS_due _ _ _ _ hr, Fibre.issued_due]
  · rw [Fibre.next4_still, Fibre.writeS_still, Fibre.issued_still]

end Sys2Proof.Machine
end

