-- ==== Sys2Proof/Laws/Memory.lean ====
section
/-! SUPPORT. The memory laws: a write is read back and leaves every other place alone, and every memory operation keeps the
canonical form. -/

namespace Sys2Proof.Machine

theorem canonical_reset : Canonical State.reset := ⟨rfl, fun _ _ h => by simp [State.reset] at h⟩

/-- Canonical form depends on memory and the banks' stores alone. -/
theorem Canonical.of_eq {s t : State} (h : Canonical s) (hm : t.mem = s.mem) (hb : t.banks = s.banks) : Canonical t := by
  unfold Canonical; rw [hm, hb]; exact h

theorem Canonical.bankOf {s : State} (h : Canonical s) (k : Nat) : Memory.wf (bankOf s k).store = true := by
  unfold Machine.bankOf lookupD
  cases hk : lookup s.banks k with
  | none => rfl
  | some b => exact h.2 k b hk

/-- A bank changed keeps the canonical form where its store does. -/
theorem Canonical.onBank {s : State} (h : Canonical s) (k : Nat) (g : Bank → Bank)
    (hg : Memory.wf (g (Machine.bankOf s k)).store = true) : Canonical (onBank s k g) := by
  refine ⟨h.1, fun j b hb => ?_⟩
  rw [lookup_onBank] at hb
  split at hb
  · cases hb; exact hg
  · exact h.2 j b hb

theorem Canonical.countCore {s : State} (h : Canonical s) (i c n : Nat) : Canonical (countCore s i c n) :=
  h.of_eq (countCore_mem ..) (countCore_banks ..)

/-- What each element of a fold keeps, the fold keeps. -/
theorem foldl_keeps {σ β : Type} (P : σ → Prop) (f : σ → β → σ) (hf : ∀ s x, P s → P (f s x)) (l : List β) (s : σ) (h : P s) :
    P (l.foldl f s) := by
  induction l generalizing s with
  | nil => exact h
  | cons x r ih => exact ih _ (hf s x h)

/-! ### One byte -/

/-- A place of memory and a place of a store never meet, and two places of stores meet only in the same byte of one bank. -/
theorem place_eq {p q : Nat} (hp : inStore p = true) (hq : inStore q = true) (hb : placeBank p = placeBank q)
    (ho : placeOffset p = placeOffset q) : p = q := by
  simp only [inStore, decide_eq_true_eq, placeBank, placeOffset] at *
  omega

/-- A byte written to memory itself. -/
theorem setByte_mem {s : State} {p : Nat} (h : inStore p = false) (v : Byte) : setByte s p v = { s with mem := putByte s.mem p v } := by
  unfold setByte; rw [h]; rfl

/-- A byte written to a store: a bank changed, in a state with the same memory and banks. -/
theorem setByte_store {s : State} {p : Nat} (h : inStore p = true) (v : Byte) :
    ∃ s', s'.mem = s.mem ∧ s'.banks = s.banks ∧ setByte s p v = onBank s' (placeBank p) (fun b => b.set (placeOffset p) v) := by
  refine ⟨if unitOf (placeOffset p) ∈ (bankOf s (placeBank p)).units then s else countCore s (placeBank p % 1024) 0x16 1, ?_, ?_, ?_⟩
  · split <;> simp
  · split <;> simp
  · unfold setByte; rw [h]; rfl

/-- Reading a place after one byte has been written. -/
theorem byteAt_setByte (s : State) (p q : Nat) (v : Byte) : byteAt (setByte s p v) q = if p = q then v else byteAt s q := by
  cases hp : inStore p with
  | true =>
    obtain ⟨s', hm, hb, e⟩ := setByte_store hp v
    rw [e]
    cases hq : inStore q with
    | true =>
      have hk : ∀ k, bankOf s' k = bankOf s k := fun k => by unfold bankOf; rw [hb]
      simp only [byteAt, hq, if_true, bankOf_onBank, hk]
      by_cases h : placeBank p = placeBank q
      · by_cases ho : placeOffset p = placeOffset q
        · have := place_eq hp hq h ho
          subst this; simp [Bank.set]
        · have : p ≠ q := fun e => ho (by rw [e])
          simp [h, ho, this, Bank.set]
      · have : p ≠ q := fun e => h (by rw [e])
        simp [h, this]
    | false =>
      have : p ≠ q := fun e => by rw [e, hq] at hp; cases hp
      simp [byteAt, hq, this, hm]
  | false =>
    rw [setByte_mem hp]
    cases hq : inStore q with
    | true =>
      have : p ≠ q := fun e => by rw [e, hq] at hp; cases hp
      simp [byteAt, hq, this, bankOf]
    | false => simp [byteAt, hq]

/-- Reading a place outside the bytes that have been written. -/
theorem byteAt_setCells (l : List (Nat × Byte)) (s : State) (q : Nat) (h : ∀ c ∈ l, c.1 ≠ q) :
    byteAt (setCells s l) q = byteAt s q := by
  induction l generalizing s with
  | nil => rfl
  | cons c r ih =>
    show byteAt (setCells (setByte s c.1 c.2) r) q = _
    rw [ih _ (fun d hd => h d (List.mem_cons_of_mem _ hd)), byteAt_setByte, if_neg (h c (by simp))]

/-! ### The canonical form -/

theorem Canonical.setByte {s : State} (h : Canonical s) (p : Nat) (v : Byte) : Canonical (setByte s p v) := by
  unfold Machine.setByte
  split
  · have h' : Canonical (if unitOf (placeOffset p) ∈ (Machine.bankOf s (placeBank p)).units then s
        else Machine.countCore s (placeBank p % 1024) 0x16 1) := by
      split
      · exact h
      · exact h.countCore ..
    exact h'.onBank _ _ (wf_putByte _ _ _ (h'.bankOf _))
  · exact ⟨wf_putByte _ _ _ h.1, h.2⟩

theorem Canonical.setCells {s : State} (h : Canonical s) (l : List (Nat × Byte)) : Canonical (setCells s l) :=
  foldl_keeps Canonical _ (fun _ c h => h.setByte c.1 c.2) l s h

theorem Canonical.poisonSector {s : State} (h : Canonical s) (q : Nat) : Canonical (poisonSector s q) := by
  unfold Machine.poisonSector
  split <;> exact h

theorem Canonical.poisonUnit {s : State} (h : Canonical s) (k u : Nat) : Canonical (poisonUnit s k u) :=
  h.onBank _ _ (h.bankOf k)

theorem Canonical.meetOne {s : State} (h : Canonical s) (p : Nat) : Canonical (meetOne s p) := by
  unfold Machine.meetOne
  split
  · dsimp only
    split
    · exact h
    · have h' := h.onBank (placeBank p) (fun b => { b with latent := del b.latent (placeOffset p / 8) }) (h.bankOf _)
      split
      · exact h'.countCore ..
      · exact h'.poisonUnit ..
  · split
    · exact h
    · dsimp only
      have h' : Canonical { s with memLatent := del s.memLatent (p / 64) } := h
      split
      · exact h'
      · exact h'.poisonSector _

theorem Canonical.meet {s : State} (h : Canonical s) (l : List Nat) : Canonical (meet s l) :=
  foldl_keeps Canonical _ (fun _ p h => h.meetOne p) l s h

theorem Canonical.clearWhole {s : State} (h : Canonical s) (l : List Nat) : Canonical (clearWhole s l) := by
  refine foldl_keeps Canonical _ (fun t k h => ?_) _ _ ?_
  · dsimp only
    split
    · exact h
    · exact h.onBank _ _ (h.bankOf k)
  · exact h

theorem Canonical.tagFailures {s : State} (h : Canonical s) (l : List Nat) (key : Option Nat) : Canonical (tagFailures s l key) := by
  refine foldl_keeps Canonical _ (fun t q h => ?_) _ _ h
  split
  · exact Canonical.poisonSector (s := countController t (q * 64) 0x85 1) h q
  · exact h

theorem Canonical.storeForm {s : State} (h : Canonical s) (l : List Nat) (key : Option Nat) : Canonical (storeForm s l key) := by
  refine foldl_keeps Canonical _ (fun t q h => ?_) _ _ h
  have hp : ∀ u : State, Canonical u → Canonical (Machine.poisonSector (countController u (q * 64) 0x85 1) q) := fun u hu =>
    Canonical.poisonSector (s := countController u (q * 64) 0x85 1) hu q
  have hm : Canonical (markPlain t q) := h
  cases lookup t.ciphered q <;> cases key <;> dsimp only
  · exact hm
  · split
    · exact h
    · exact hp _ hm
  · exact ⟨wf_putBytes _ _ _ h.1, h.2⟩
  · split
    · exact h
    · split
      · exact h
      · exact hp _ h

theorem Canonical.rollback {s : State} (h : Canonical s) (k : Nat) : Canonical (rollback s k) := by
  unfold Machine.rollback
  split
  · exact h
  · split <;> exact h

theorem Canonical.conflict {s : State} (h : Canonical s) (l : List Nat) : Canonical (conflict s l) := by
  refine foldl_keeps Canonical _ (fun t e h => ?_) _ _ h
  split
  · exact h
  · split
    · exact h.rollback _
    · exact h

/-- Every write keeps the canonical form. -/
theorem Canonical.write {s : State} (h : Canonical s) (key : Option Nat) (l : List (Nat × Byte)) :
    Canonical (write s key l) :=
  (((h.storeForm _ _).setCells _).clearWhole _).conflict _

end Sys2Proof.Machine
end

