-- ==== Sys2Proof/Laws/Write.lean ====
section
/-! SUPPORT. What one write leaves at every place (R298, R300): the bytes written, and elsewhere what the writer's mapping read before. -/

namespace Sys2Proof.Machine

/-! ### Bytes of a table -/

theorem byteOf_putBytes_outside (l : List Byte) (t : Tab Byte) (a k : Nat) (h : k < a ∨ a + l.length ≤ k) :
    byteOf (putBytes t a l) k = byteOf t k := by
  induction l generalizing t a with
  | nil => rfl
  | cons b r ih =>
    simp only [List.length_cons] at h
    rw [putBytes, ih _ _ (by omega), byteOf_putByte, if_neg (by omega)]

theorem byteOf_putBytes_inside (l : List Byte) (t : Tab Byte) (a i : Nat) (h : i < l.length) :
    byteOf (putBytes t a l) (a + i) = l.getD i 0#8 := by
  induction l generalizing t a i with
  | nil => simp at h
  | cons b r ih =>
    rw [putBytes]
    cases i with
    | zero => rw [byteOf_putBytes_outside _ _ _ _ (by omega), byteOf_putByte]; simp
    | succ i =>
      have := ih (putByte t a b) (a + 1) i (by simpa using h)
      rw [show a + (i + 1) = a + 1 + i by omega, this]; simp

/-! ### What no write touches -/

/-- Bytes, the stored forms and nothing else. -/
def SameBytes (s t : State) : Prop := (∀ p, byteAt t p = byteAt s p) ∧ t.ciphered = s.ciphered ∧ t.plainSectors = s.plainSectors

theorem SameBytes.refl (s : State) : SameBytes s s := ⟨fun _ => rfl, rfl, rfl⟩

theorem SameBytes.trans {s t u : State} (h : SameBytes s t) (h' : SameBytes t u) : SameBytes s u :=
  ⟨fun p => (h'.1 p).trans (h.1 p), h'.2.1.trans h.2.1, h'.2.2.trans h.2.2⟩

theorem SameBytes.of_eq {s t : State} (hm : t.mem = s.mem) (hb : t.banks = s.banks) (hc : t.ciphered = s.ciphered)
    (hp : t.plainSectors = s.plainSectors) : SameBytes s t :=
  ⟨fun p => by unfold byteAt bankOf; rw [hm, hb], hc, hp⟩

/-- Whether nothing has written a sector rests on its bytes and its mark alone. -/
theorem untouched_eq {s t : State} (q : Nat) (hb : ∀ i < 64, byteAt t (q * 64 + i) = byteAt s (q * 64 + i))
    (hp : lookup t.plainSectors q = lookup s.plainSectors q) : untouched t q = untouched s q := by
  unfold untouched
  rw [hp]
  congr 1
  rw [Bool.eq_iff_iff]
  simp only [List.all_eq_true, List.mem_range]
  exact ⟨fun h i hi => by rw [← hb i hi]; exact h i hi, fun h i hi => by rw [hb i hi]; exact h i hi⟩

theorem SameBytes.viewByte {s t : State} (h : SameBytes s t) (p : Nat) (key : Option Nat) :
    viewByte t p key = viewByte s p key := by
  unfold Machine.viewByte
  simp only [h.1, h.2.1, untouched_eq (p / 64) (fun i _ => h.1 _) (by rw [h.2.2])]

/-- A bank changed without its bytes. -/
theorem SameBytes.onBank (s : State) (k : Nat) (g : Bank → Bank) (hg : ∀ b, (g b).store = b.store) : SameBytes s (onBank s k g) := by
  refine ⟨fun p => ?_, rfl, rfl⟩
  unfold byteAt
  split
  · rw [bankOf_onBank]
    split
    · rename_i h; rw [hg, h]
    · rfl
  · rfl

/-- A fold of such changes. -/
theorem SameBytes.foldl {β : Type} (f : State → β → State) (hf : ∀ s x, SameBytes s (f s x)) (l : List β) (s : State) :
    SameBytes s (l.foldl f s) :=
  foldl_keeps (SameBytes s) f (fun _ x h => h.trans (hf _ x)) l s (SameBytes.refl s)

theorem SameBytes.clearWhole (s : State) (l : List Nat) : SameBytes s (clearWhole s l) := by
  refine SameBytes.trans (t := { s with
    poison := s.poison.filter (fun q => !covers l 64 (q * 64))
    memLatent := s.memLatent.filter (fun x => !covers l 64 (x.1 * 64)) }) (SameBytes.of_eq rfl rfl rfl rfl) ?_
  refine SameBytes.foldl _ (fun t k => ?_) _ _
  dsimp only
  split
  · exact SameBytes.refl t
  · exact SameBytes.onBank t k _ (fun b => rfl)

theorem SameBytes.rollback (s : State) (k : Nat) : SameBytes s (rollback s k) := by
  unfold Machine.rollback
  split
  · exact SameBytes.refl s
  · split
    · exact SameBytes.refl s
    · exact SameBytes.of_eq rfl rfl rfl rfl

theorem SameBytes.conflict (s : State) (l : List Nat) : SameBytes s (conflict s l) := by
  refine SameBytes.foldl _ (fun t e => ?_) _ _
  split
  · exact SameBytes.refl t
  · split
    · exact SameBytes.rollback t _
    · exact SameBytes.refl t

theorem SameBytes.poisonSector (s : State) (q : Nat) : SameBytes s (poisonSector s q) := by
  unfold Machine.poisonSector
  split <;> exact SameBytes.of_eq rfl rfl rfl rfl

/-! ### One write -/

/-- Cells written change the stored form of no sector. -/
theorem setCells_ciphered (l : List (Nat × Byte)) (s : State) : (setCells s l).ciphered = s.ciphered := by
  refine foldl_keeps (fun t => t.ciphered = s.ciphered) _ (fun t c h => ?_) l s rfl
  rw [← h]
  unfold setByte
  split
  · show (if _ then t else countCore t _ _ _).ciphered = t.ciphered
    split <;> simp
  · rfl

/-- Cells written mark no sector. -/
theorem setCells_plainSectors (l : List (Nat × Byte)) (s : State) : (setCells s l).plainSectors = s.plainSectors := by
  refine foldl_keeps (fun t => t.plainSectors = s.plainSectors) _ (fun t c h => ?_) l s rfl
  rw [← h]
  unfold setByte
  split
  · show (if _ then t else countCore t _ _ _).plainSectors = t.plainSectors
    split <;> simp
  · rfl

/-- Cells written at distinct places are read back. -/
theorem byteAt_setCells_inside (l : List (Nat × Byte)) (s : State) (h : (l.map (·.1)).Nodup) {c : Nat × Byte} (hc : c ∈ l) :
    byteAt (setCells s l) c.1 = c.2 := by
  induction l generalizing s with
  | nil => simp at hc
  | cons d r ih =>
    simp only [List.map_cons, List.nodup_cons] at h
    show byteAt (setCells (setByte s d.1 d.2) r) c.1 = c.2
    rcases List.mem_cons.1 hc with rfl | hc
    · rw [byteAt_setCells _ _ _ (fun e he h' => h.1 (by rw [← h']; exact List.mem_map_of_mem he)), byteAt_setByte, if_pos rfl]
    · exact ih _ h.2 hc

/-- A sector that takes 64 given bytes and loses its encrypted form (R298). -/
def plainSector (s : State) (q : Nat) (b : Nat → Byte) : State :=
  { markPlain s q with ciphered := del s.ciphered q, mem := putBytes s.mem (q * 64) ((List.range 64).map b) }

theorem byteAt_plainSector (s : State) (q : Nat) (b : Nat → Byte) (p : Nat) :
    byteAt (plainSector s q b) p = if inStore p = false ∧ p / 64 = q then b (p % 64) else byteAt s p := by
  cases hs : inStore p with
  | true => unfold byteAt; simp only [hs, if_true]; rfl
  | false =>
    unfold byteAt plainSector
    simp only [hs, Bool.false_eq_true, if_false, true_and]
    split
    · rename_i e
      subst e
      have := byteOf_putBytes_inside ((List.range 64).map b) s.mem (p / 64 * 64) (p % 64) (by simp; omega)
      rw [show p / 64 * 64 + p % 64 = p by omega] at this
      rw [this]
      simp [List.getD, Nat.mod_lt]
    · rw [byteOf_putBytes_outside]
      simp; omega

/-- A sector as a plain mapping reads it is what it holds once it has lost its encrypted form. -/
theorem viewByte_plainSector (s : State) (q k : Nat) (h : lookup s.ciphered q = some k) (p : Nat) :
    viewByte (plainSector s q (fun i =>
      (Config.storedCipher k q ((List.range 64).map (fun i => byteAt s (q * 64 + i)))).getD i 0#8)) p none = viewByte s p none := by
  generalize hb : (fun i => (Config.storedCipher k q ((List.range 64).map (fun i => byteAt s (q * 64 + i)))).getD i 0#8) = b
  have hc : ∀ j, lookup (plainSector s q b).ciphered j = if q = j then none else lookup s.ciphered j := fun j => lookup_del ..
  cases hs : inStore p with
  | true => unfold viewByte; simp only [hs, if_true]; rw [byteAt_plainSector]; simp [hs]
  | false =>
    unfold viewByte
    simp only [hs, Bool.false_eq_true, if_false, hc]
    by_cases e : q = p / 64
    · subst e
      simp only [if_true, h]
      rw [byteAt_plainSector]
      simp [hs, ← hb]
    · simp only [e, if_false]
      have hp : p / 64 ≠ q := fun h => e h.symm
      cases hl : lookup s.ciphered (p / 64) with
      | none => simp only [byteAt_plainSector]; simp [hp]
      | some k' =>
        simp only [byteAt_plainSector]
        have : ∀ i < 64, ¬ (inStore (p / 64 * 64 + i) = false ∧ (p / 64 * 64 + i) / 64 = q) := by
          intro i hi h; omega
        congr 3
        apply List.map_congr_left
        intro i hi
        rw [if_neg (this i (List.mem_range.1 hi))]

/-- A plain mapping does not see a mark. -/
theorem viewByte_markPlain (s : State) (q p : Nat) : viewByte (markPlain s q) p none = viewByte s p none := by
  have hb : ∀ p, byteAt (markPlain s q) p = byteAt s p := fun _ => rfl
  have hc : (markPlain s q).ciphered = s.ciphered := rfl
  unfold viewByte
  simp only [hb, hc]
  cases inStore p <;> cases lookup s.ciphered (p / 64) <;> rfl

/-- Another sector's mark or stored form is no part of what a place reads as. -/
theorem viewByte_other {s t : State} {p q : Nat} (hne : p / 64 ≠ q) (hb : ∀ p, byteAt t p = byteAt s p)
    (hc : ∀ j, j ≠ q → lookup t.ciphered j = lookup s.ciphered j) (hp : ∀ j, j ≠ q → lookup t.plainSectors j = lookup s.plainSectors j)
    (key : Option Nat) : viewByte t p key = viewByte s p key := by
  unfold viewByte
  simp only [hb, hc _ hne, untouched_eq (p / 64) (fun i _ => hb _) (hp _ hne)]

theorem lookup_put_other {α : Type} (t : Tab α) {q j : Nat} (v : α) (h : j ≠ q) : lookup (put t q v) j = lookup t j := by
  rw [lookup_put, if_neg (Ne.symm h)]

theorem lookup_del_other {α : Type} (t : Tab α) {q j : Nat} (h : j ≠ q) : lookup (del t q) j = lookup t j := by
  rw [lookup_del, if_neg (Ne.symm h)]

/-- What the change of stored form does to a place that the writer does not cover: the writer's mapping reads it as before. -/
theorem viewByte_storeForm (s : State) (l : List Nat) (key : Option Nat) (p : Nat) (hp : p ∉ l) :
    viewByte (storeForm s l key) p key = viewByte s p key := by
  refine foldl_keeps (fun t => viewByte t p key = viewByte s p key) _ (fun t q h => ?_) _ s rfl
  rw [← h]
  have hpoison : ∀ u : State, viewByte (poisonSector (countController u (q * 64) 0x85 1) q) p key = viewByte u p key := by
    intro u; rw [(SameBytes.poisonSector _ _).viewByte]; rfl
  have hcover : covers l 64 (q * 64) = true → p / 64 ≠ q := by
    intro hc e
    simp only [covers, List.all_eq_true, List.mem_range, decide_eq_true_eq] at hc
    have := hc (p % 64) (Nat.mod_lt _ (by omega))
    rw [show q * 64 / 64 * 64 + p % 64 = p by omega] at this
    exact hp this
  cases hl : lookup t.ciphered q <;> cases key <;> dsimp only
  · exact viewByte_markPlain t q p
  · rename_i k'
    split
    · rename_i hcu
      by_cases e : p / 64 = q
      · have hu : untouched t q = true := by
          rcases Bool.or_eq_true _ _ ▸ hcu with hc | hu
          · exact absurd e (hcover hc)
          · exact hu
        unfold viewByte
        simp only [e, hl, hu, lookup_put, if_true]
        rfl
      · exact viewByte_other (s := t) (t := { t with ciphered := put t.ciphered q k', plainSectors := del t.plainSectors q }) e (fun _ => rfl)
          (fun j hj => lookup_put_other _ _ hj) (fun j hj => lookup_del_other _ hj) _
    · rename_i hcu
      rw [hpoison]
      by_cases e : p / 64 = q
      · have hu : untouched t q = false := by
          cases h : untouched t q with
          | false => rfl
          | true => simp [h] at hcu
        have hu' : untouched (markPlain t q) q = false := by
          unfold untouched markPlain
          simp
        unfold viewByte
        show (if inStore p = true then some (byteAt t p) else match lookup t.ciphered (p / 64), (some k' : Option Nat) with
          | none, none => some (byteAt t p) | some k, some k' => if k = k' then some (byteAt t p) else none
          | none, some _ => if untouched (markPlain t q) (p / 64) then some (byteAt t p) else none | some k, none => _) = _
        simp only [e, hl, hu, hu']
      · exact viewByte_other (s := t) (t := markPlain t q) (q := q) e (fun _ => rfl) (fun j _ => rfl) (fun j hj => lookup_put_other _ _ hj) _
  · exact viewByte_plainSector t q _ hl p
  · rename_i k k'
    split
    · rfl
    · split
      · exact viewByte_other (s := t) (t := { t with ciphered := put t.ciphered q k' }) (hcover ‹_›) (fun _ => rfl)
          (fun j hj => lookup_put_other _ _ hj) (fun _ _ => rfl) _
      · exact hpoison t

/-- What a plain write does to the stored form of one sector. -/
def plainStep (s : State) (q : Nat) : State :=
  match lookup s.ciphered q with
  | none => markPlain s q
  | some k => plainSector s q (fun i =>
      (Config.storedCipher k q ((List.range 64).map (fun i => byteAt s (q * 64 + i)))).getD i 0#8)

theorem storeForm_none (s : State) (l : List Nat) :
    storeForm s l none = (distinct ((l.filter (fun p => !inStore p)).map (· / 64))).foldl plainStep s := by
  unfold storeForm
  congr 1
  funext t q
  unfold plainStep
  cases lookup t.ciphered q <;> rfl

theorem plainStep_ciphered (s : State) (q j : Nat) :
    lookup (plainStep s q).ciphered j = if q = j then none else lookup s.ciphered j := by
  unfold plainStep
  cases h : lookup s.ciphered q with
  | none => show lookup s.ciphered j = _; split <;> simp_all
  | some k => exact lookup_del ..

/-- After the change of stored form, a plain writer's sectors are plain. -/
theorem storeForm_plain (s : State) (l : List Nat) (p : Nat) (hp : p ∈ l) (hs : inStore p = false) :
    lookup (storeForm s l none).ciphered (p / 64) = none := by
  rw [storeForm_none]
  have hmem : p / 64 ∈ distinct ((l.filter (fun p => !inStore p)).map (· / 64)) := by
    unfold distinct
    rw [List.mem_eraseDups]
    exact List.mem_map.2 ⟨p, List.mem_filter.2 ⟨hp, by simp [hs]⟩, rfl⟩
  generalize distinct _ = qs at hmem
  have keep : ∀ (r : List Nat) (t : State), lookup t.ciphered (p / 64) = none →
      lookup (r.foldl plainStep t).ciphered (p / 64) = none := fun r t h =>
    foldl_keeps (fun t => lookup t.ciphered (p / 64) = none) _
      (fun u q hu => by rw [plainStep_ciphered]; split <;> simp_all) r t h
  induction qs generalizing s with
  | nil => simp at hmem
  | cons q r ih =>
    rcases List.mem_cons.1 hmem with e | e
    · exact keep r _ (by rw [plainStep_ciphered, if_pos e.symm])
    · exact ih _ e

/-- What a write under a key does to the stored form of one sector. -/
def keyedStep (l : List Nat) (k' : Nat) (t : State) (q : Nat) : State :=
  match lookup t.ciphered q with
  | some k =>
    if k = k' then t
    else if covers l 64 (q * 64) then { t with ciphered := put t.ciphered q k' }
    else poisonSector (countController t (q * 64) 0x85 1) q
  | none =>
    if covers l 64 (q * 64) || untouched t q then { t with ciphered := put t.ciphered q k', plainSectors := del t.plainSectors q }
    else poisonSector (countController (markPlain t q) (q * 64) 0x85 1) q

theorem storeForm_some (s : State) (l : List Nat) (k : Nat) :
    storeForm s l (some k) = (distinct ((l.filter (fun p => !inStore p)).map (· / 64))).foldl (keyedStep l k) s := by
  unfold storeForm
  congr 1
  funext t q
  unfold keyedStep
  cases lookup t.ciphered q <;> rfl

/-- After the change of stored form, a keyed writer's sectors have a form. -/
theorem storeForm_keyed (s : State) (l : List Nat) (k p : Nat) (hp : p ∈ l) (hs : inStore p = false) :
    lookup (storeForm s l (some k)).ciphered (p / 64) ≠ none ∨ lookup (storeForm s l (some k)).plainSectors (p / 64) ≠ none := by
  have hmem : p / 64 ∈ distinct ((l.filter (fun p => !inStore p)).map (· / 64)) := by
    unfold distinct
    rw [List.mem_eraseDups]
    exact List.mem_map.2 ⟨p, List.mem_filter.2 ⟨hp, by simp [hs]⟩, rfl⟩
  rw [storeForm_some]
  generalize distinct _ = qs at hmem
  have hpo : ∀ (u : State) q, (poisonSector (countController u (q * 64) 0x85 1) q).ciphered = u.ciphered ∧
      (poisonSector (countController u (q * 64) 0x85 1) q).plainSectors = u.plainSectors := fun u q =>
    ⟨(SameBytes.poisonSector _ _).2.1, (SameBytes.poisonSector _ _).2.2⟩
  generalize hstep : keyedStep l k = step
  have made : ∀ (t : State) q, lookup (step t q).ciphered q ≠ none ∨ lookup (step t q).plainSectors q ≠ none := by
    intro t q
    subst hstep
    unfold keyedStep
    cases hl : lookup t.ciphered q <;> dsimp only
    · split
      · left; simp
      · right; rw [(hpo _ q).2]; simp [markPlain]
    · left
      split
      · simp [hl]
      · split
        · simp
        · rw [(hpo _ q).1]; simp [hl]
  have other : ∀ (t : State) q j, j ≠ q → lookup (step t q).ciphered j = lookup t.ciphered j ∧
      lookup (step t q).plainSectors j = lookup t.plainSectors j := by
    intro t q j hj
    subst hstep
    unfold keyedStep
    cases hl : lookup t.ciphered q <;> dsimp only
    · split
      · exact ⟨lookup_put_other _ _ hj, lookup_del_other _ hj⟩
      · rw [(hpo _ q).1, (hpo _ q).2]; exact ⟨rfl, lookup_put_other _ _ hj⟩
    · split
      · exact ⟨rfl, rfl⟩
      · split
        · exact ⟨lookup_put_other _ _ hj, rfl⟩
        · rw [(hpo _ q).1, (hpo _ q).2]; exact ⟨rfl, rfl⟩
  have keep : ∀ (r : List Nat) (t : State), (lookup t.ciphered (p / 64) ≠ none ∨ lookup t.plainSectors (p / 64) ≠ none) →
      (lookup (r.foldl step t).ciphered (p / 64) ≠ none ∨ lookup (r.foldl step t).plainSectors (p / 64) ≠ none) := fun r t h =>
    foldl_keeps (fun t => lookup t.ciphered (p / 64) ≠ none ∨ lookup t.plainSectors (p / 64) ≠ none) _
      (fun u q hu => by
        by_cases e : p / 64 = q
        · subst e; exact made u _
        · rw [(other u q _ e).1, (other u q _ e).2]; exact hu) r t h
  induction qs generalizing s with
  | nil => simp at hmem
  | cons q r ih =>
    rcases List.mem_cons.1 hmem with e | e
    · exact keep r _ (by rw [e]; exact made s q)
    · exact ih _ e

/-- A write leaves every place outside it as the writer's mapping read it (R298, R300). -/
theorem viewByte_write_outside (s : State) (key : Option Nat) (l : List (Nat × Byte)) (p : Nat) (hp : ∀ c ∈ l, c.1 ≠ p) :
    viewByte (write s key l) p key = viewByte s p key := by
  have hp' : p ∉ l.map (·.1) := fun h => by
    obtain ⟨c, hc, e⟩ := List.mem_map.1 h
    exact hp c hc e
  unfold write
  dsimp only
  rw [(SameBytes.conflict _ _).viewByte, (SameBytes.clearWhole _ _).viewByte, ← viewByte_storeForm s _ key p hp']
  generalize hu : storeForm s (l.map (·.1)) key = u
  have hb : byteAt (setCells u l) p = byteAt u p := byteAt_setCells l u p hp
  unfold viewByte
  rw [setCells_ciphered, hb]
  cases hs : inStore p with
  | true => rfl
  | false =>
    simp only [Bool.false_eq_true, if_false]
    have hsec : ∀ c ∈ l, ∀ i < 64, p / 64 * 64 + i = c.1 → inStore c.1 = false := by
      intro c _ i hi e
      rw [← e]; simp only [inStore, decide_eq_false_iff_not] at hs ⊢; omega
    cases hl : lookup u.ciphered (p / 64) <;> cases key <;> try rfl
    · rename_i k'
      dsimp only
      by_cases hin : ∃ c ∈ l, c.1 / 64 = p / 64
      · obtain ⟨c, hc, e⟩ := hin
        have hform := storeForm_keyed s (l.map (·.1)) k' c.1 (List.mem_map_of_mem hc)
          (hsec c hc (c.1 % 64) (Nat.mod_lt _ (by omega)) (by omega))
        rw [hu, e, hl] at hform
        have hne : lookup u.plainSectors (p / 64) ≠ none := by simpa using hform
        have h0 : ∀ v : State, v.plainSectors = u.plainSectors → untouched v (p / 64) = false := by
          intro v hv
          unfold untouched
          rw [hv]
          cases h : lookup u.plainSectors (p / 64) <;> simp_all
        rw [h0 _ (setCells_plainSectors l u), h0 _ rfl]
      · rw [untouched_eq (s := u) (p / 64) (fun i hi => byteAt_setCells l u _ (fun c hc e => hin ⟨c, hc, by omega⟩))
          (by rw [setCells_plainSectors])]
    rename_i k
    dsimp only
    congr 3
    apply List.map_congr_left
    intro i hi
    refine byteAt_setCells l u _ (fun c hc e => ?_)
    have hi := List.mem_range.1 hi
    have h1 : inStore c.1 = false := by
      rw [e]; simp only [inStore, decide_eq_false_iff_not] at hs ⊢; omega
    have := storeForm_plain s (l.map (·.1)) c.1 (List.mem_map_of_mem hc) h1
    rw [hu, e, show (p / 64 * 64 + i) / 64 = p / 64 by omega, hl] at this
    cases this

/-- A write of cells at distinct places is read back. -/
theorem byteAt_write_inside (s : State) (key : Option Nat) (l : List (Nat × Byte)) (h : (l.map (·.1)).Nodup)
    {c : Nat × Byte} (hc : c ∈ l) : byteAt (write s key l) c.1 = c.2 := by
  unfold write
  dsimp only
  rw [(SameBytes.conflict _ _).1, (SameBytes.clearWhole _ _).1]
  exact byteAt_setCells_inside l _ h hc

end Sys2Proof.Machine
end

