-- ==== Sys2Proof/Laws/Access.lean ====
section
/-! SUPPORT. What one access does at its location (R300): a load reads the bytes of its spots, a store leaves them. -/

namespace Sys2Proof.Machine

/-- A clean place meets nothing (R217, R295). -/
theorem meetOne_clean {s : State} {p : Nat} (h : Clean s p) : meetOne s p = s := by
  unfold meetOne
  obtain ⟨-, h⟩ := h
  split at h
  · rename_i hp; rw [if_pos hp]; dsimp only; rw [h]
  · rename_i hp; rw [if_neg hp, h]

theorem meet_clean {s : State} (l : List Nat) (h : ∀ p ∈ l, Clean s p) : meet s l = s := by
  induction l with
  | nil => rfl
  | cons p r ih =>
    show meet (meetOne s p) r = s
    rw [meetOne_clean (h p (by simp))]
    exact ih (fun q hq => h q (List.mem_cons_of_mem _ hq))

theorem firstFailed_clean {s : State} (l : List Spot) (h : ∀ x ∈ l, ∀ p, x.place = some p → Clean s p) : firstFailed s l = none := by
  unfold firstFailed
  rw [List.findSome?_eq_none_iff]
  intro x hx
  have hx' : x.2 ∈ l := (List.of_mem_zip hx).2
  cases hp : x.2.place with
  | none => rfl
  | some p => simp [(h _ hx' p hp).1]

/-- Reading clean places meets nothing. -/
theorem meetRead_clean {s : State} (bk : Nat) (l : List Spot) (h : ∀ x ∈ l, ∀ p, x.place = some p → Clean s p) :
    meetRead s bk l = (s, none) := by
  unfold meetRead
  have hm : meet s (l.filterMap (·.place)) = s := meet_clean _ (fun p hp => by
    obtain ⟨x, hx, e⟩ := List.mem_filterMap.1 hp
    exact h x hx p e)
  dsimp only
  rw [hm, firstFailed_clean l h]

/-- Spots that all reach places count no reserved access. -/
theorem countReserved_sound {s : State} {l : List Spot} (h : ∀ x ∈ l, x.place.isSome = true) : countReserved s l = s := by
  unfold countReserved
  have : l.find? (fun x => x.place.isNone) = none := by
    rw [List.find?_eq_none]
    intro x hx
    have := h x hx
    cases hp : x.place <;> simp_all
  rw [this]

/-- Spots whose every byte is read reach places. -/
theorem isSome_of_read {l : List Spot} {bytes : List Byte} {g : Nat → Spot → Option Byte}
    (h : l.map (fun x => x.place.bind (fun p => g p x)) = bytes.map some) : ∀ x ∈ l, x.place.isSome = true := by
  intro x hx
  have h1 : x.place.bind (fun p => g p x) ∈ bytes.map some := by
    rw [← h]; exact List.mem_map_of_mem (f := fun x : Spot => x.place.bind (fun p => g p x)) hx
  obtain ⟨b, -, e⟩ := List.mem_map.1 h1
  cases hp : x.place with
  | none => rw [hp] at e; cases e
  | some p => rfl

/-- What a slice holds changes nothing else (R259). -/
theorem holdSpots_l2 (s : State) (c : Nat) (l : List Spot) (b : Bool) : ∃ x, holdSpots s c l b = { s with l2 := x } := by
  unfold holdSpots
  generalize distinct _ = ps
  induction ps generalizing s with
  | nil => exact ⟨s.l2, rfl⟩
  | cons p r ih =>
    obtain ⟨x, e⟩ := ih (holdSector b c s p)
    exact ⟨x, e⟩

/-- A load of seen spots by a fibre that does not speculate reads their bytes and changes nothing but what the L2 slices hold (R300, R311). -/
theorem loadOne_seen {s : State} {fk : Nat} {f : Fibre} (hf : lookup s.fibres fk = some f) (hq : f.fence = none) (lane : Bool) (addr : Word)
    {l : List Spot} {bytes : List Byte} (h : l.map (fun x => x.place.bind (fun p => seenByte s p x.page.key)) = bytes.map some)
    (hc : ∀ x ∈ l, ∀ p, x.place = some p → Clean s p) :
    ∃ t, loadOne s fk f lane addr l = (t, .ok (leNat bytes)) ∧ (∀ k, lookup t.fibres k = lookup s.fibres k) ∧
      { t with fibres := s.fibres, l2 := s.l2 } = s := by
  have hsome := isSome_of_read h
  have hbytes : l.map (spotByte s f lane) = bytes.map some := by
    rw [← h]
    apply List.map_congr_left
    intro x hx
    obtain ⟨p, hp⟩ := Option.isSome_iff_exists.1 (hsome x hx)
    unfold spotByte heldByte Fibre.speculates
    simp [hp, hq]
  obtain ⟨y, hy⟩ := holdSpots_l2 s (clusterOfFibre fk) l false
  refine ⟨recordReads { s with l2 := y } fk lane l, ?_, fun k => ?_, ?_⟩
  · unfold loadOne
    rw [countReserved_sound hsome, meetRead_clean _ l hc]
    dsimp only
    rw [hbytes, hy]
    have hn : (List.range l.length).find? (fun i => ((bytes.map some).getD i none).isNone) = none := by
      rw [List.find?_eq_none]
      intro i hi
      have hl : l.length = bytes.length := by have := congrArg List.length h; simpa using this
      have hi' : i < bytes.length := by rw [← hl]; exact List.mem_range.1 hi
      simp [hi']
    rw [hn]
    have hm : (bytes.map some).map (fun b => b.getD 0#8) = bytes := by simp
    dsimp only
    rw [hm]
  · unfold recordReads
    rw [lookup_onFibre]
    split
    · rename_i e; subst e
      simp only
      rw [hf]
      simp [Fibre.speculates, hq]
    · rfl
  · rfl

/-! ### What a load sees -/

/-- Where two states differ only in what an issue changes, a place outside the tiles and the accumulators reads the same (R203, R429). -/
theorem SameSight.seenByte {s u : State} (h : SameSight s u) {p : Nat} (hp : inTileFile p = false) (key : Option Nat) :
    seenByte u p key = seenByte s p key := by
  obtain ⟨h, hc⟩ := h
  have ht : u.tick = s.tick := by have := congrArg State.tick h; exact this
  have hm : u.mem = s.mem := by have := congrArg State.mem h; exact this
  have hb : u.banks = s.banks := by have := congrArg State.banks h; exact this
  have hci : u.ciphered = s.ciphered := by have := congrArg State.ciphered h; exact this
  have hps : u.plainSectors = s.plainSectors := by have := congrArg State.plainSectors h; exact this
  have hsv : u.saved = s.saved := by have := congrArg State.saved h; exact this
  have ho : openByte u p = openByte s p := by
    unfold openByte
    rw [hsv]
    let g : Nat × Crew → Bool := fun w => match areaOffset w.2.frames p with
      | some o => unstated o || (!w.2.written && !w.2.saved && !inFrameSlot o)
      | none => false
    have hg : ∀ w : Nat × Crew, g (w.1, w.2.calm) = g w := fun _ => rfl
    have : u.crews.any g = s.crews.any g := by
      rw [Bool.eq_iff_iff]
      simp only [List.any_eq_true]
      refine ⟨fun ⟨w, hw, e⟩ => ?_, fun ⟨w, hw, e⟩ => ?_⟩
      · obtain ⟨w', hw', e'⟩ := List.mem_map.1 ((hc.2 _).1 (List.mem_map_of_mem (f := fun x => (x.1, x.2.calm)) hw))
        exact ⟨w', hw', by rw [← hg, e', hg]; exact e⟩
      · obtain ⟨w', hw', e'⟩ := List.mem_map.1 ((hc.2 _).2 (List.mem_map_of_mem (f := fun x => (x.1, x.2.calm)) hw))
        exact ⟨w', hw', by rw [← hg, e', hg]; exact e⟩
    exact congrArg (fun b => inDevice p && (b || s.saved.any (fun x => match areaOffset x.2.crew.frames p with
      | some o => unstated o
      | none => false))) this
  unfold Machine.seenByte
  rw [hp, ho, ht]
  simp only [Bool.false_eq_true, if_false]
  rw [(SameBytes.of_eq hm hb hci hps).viewByte p key]

/-- Clean spots outside the tiles and the accumulators are seen as they read now. -/
theorem Seen.of_now {s : State} {l : List Spot} {bytes : List Byte} (ht : ∀ x ∈ l, ∀ p, x.place = some p → inTileFile p = false ∧ Clean s p)
    (h : l.map (fun x => x.place.bind (fun p => seenByte s p x.page.key)) = bytes.map some) : Seen s l bytes := by
  refine ⟨fun u hu => ?_, fun x hx p hp => (ht x hx p hp).2⟩
  rw [← h]
  apply List.map_congr_left
  intro x hx
  cases hp : x.place with
  | none => rfl
  | some p => exact hu.seenByte (ht x hx p hp).1 _

/-- The writes of a store whose spots have one mapping. -/
theorem writeSpots_one (s : State) (l : List Spot) (bytes : List Byte) (key : Option Nat) (hl : l ≠ [])
    (h : ∀ x ∈ l, x.page.key = key) : writeSpots s l bytes = write s key (cellsUnder l bytes key) := by
  have hk : keysOf l = [key] := by
    unfold keysOf
    have hm : l.map (fun x => x.page.key) = List.replicate l.length key := by
      rw [List.eq_replicate_iff]
      exact ⟨by simp, fun b hb => by obtain ⟨x, hx, e⟩ := List.mem_map.1 hb; rw [← e, h x hx]⟩
    rw [hm]
    obtain ⟨n, hn⟩ : ∃ n, l.length = n + 1 := ⟨l.length - 1, by have := List.length_pos_iff.2 hl; omega⟩
    rw [hn, List.replicate_succ, List.eraseDups_cons]
    have : (List.replicate n key).filter (fun b => !b == key) = [] := by simp
    rw [this]
    rfl
  unfold writeSpots
  rw [hk]
  rfl

/-- An issue leaves what every place reads, and every error and poison mark. -/
theorem Becomes.same {s t : State} {f : Fibre} {bi bm : Nat} (h : Becomes s t f bi bm) :
    ReadsSame s t ∧ (∀ p, Clean s p → Clean t p) ∧ t.cur = s.cur ∧ Unchanged s t := by
  obtain ⟨-, -, -, h4, h5⟩ := h
  have hc : t.ciphered = s.ciphered := by have := congrArg State.ciphered h4; exact this
  have hps : t.plainSectors = s.plainSectors := by have := congrArg State.plainSectors h4; exact this
  have hp : t.poison = s.poison := by have := congrArg State.poison h4; exact this
  have hb : t.banks = s.banks := by have := congrArg State.banks h4; exact this
  have hl : t.memLatent = s.memLatent := by have := congrArg State.memLatent h4; exact this
  have hu : t.cur = s.cur := by have := congrArg State.cur h4; exact this
  refine ⟨fun p key => SameBytes.viewByte ⟨h5, hc, hps⟩ p key, fun p hcl => ?_, hu, ?_⟩
  · unfold Clean unitPoisoned bankOf at *
    rw [hb, hp, hl]
    exact hcl
  · unfold Unchanged
    have : ({ ({ t with fibres := s.fibres, crews := s.crews, counters := s.counters } : State) with tlb := s.tlb, l2 := s.l2 } : State) =
        { s with tlb := s.tlb, l2 := s.l2 } := by rw [h4]
    exact this

/-- What a translation leaves in the TLBs changes nothing else (R285). -/
theorem remember_tlb (s : State) (e : Env) (v : Word) : ∃ l, remember s e v = { s with tlb := l } := by
  unfold remember
  split
  · exact ⟨s.tlb, rfl⟩
  · split
    · exact ⟨s.tlb, rfl⟩
    · exact ⟨_, rfl⟩

/-- A scalar memory load that nothing delays completes (R134 to R137): its value is the bytes of its spots. -/
theorem memoryAccess_load {s : State} {f : Fibre} {h : Here} (hf : lookup s.fibres s.cur = some f) (hh : h.f = f) (hq : f.fence = none)
    (hr : f.sReplay = none) (sw al : Bool) (addr : Word) (n : Nat) {l : List Spot} {bytes : List Byte}
    (hal : al = true → addr.toNat % n = 0) (hw : walkedRange s h.env addr n = s) (hs : spots s h.env addr n .read false = .ok l)
    (hd : accessDelay s s.cur f false .load 1 [.ok l] = none) (hb : Seen s l bytes) (done : Nat → Fibre → Fibre) :
    ∃ t, memoryAccess sw al h addr n .load done s = t ∧ lookup t.fibres s.cur = some (done (leNat bytes) f.issued).next4 ∧
      (∀ k, k ≠ s.cur → lookup t.fibres k = lookup s.fibres k) ∧
      CrewsCharged s t (bankOfFibre s.cur) 1 (memoryLines addr n (.ok l)) ∧ Unchanged s t ∧ ReadsSame s t := by
  subst hh
  have hB := issueScalar_becomes hf h.f.spc 1 (memoryLines addr n (.ok l))
  have hC := issueScalar_calm s h.f.spc 1 (memoryLines addr n (.ok l))
  obtain ⟨tl, htl⟩ := remember_tlb (issueScalar s h.f.spc 1 (memoryLines addr n (.ok l))) h.env addr
  have hS := hB.same
  generalize hu : issueScalar s h.f.spc 1 (memoryLines addr n (.ok l)) = u at *
  have hfu : lookup ({ u with tlb := tl } : State).fibres s.cur = some h.f.issued := hB.1
  have hsight : SameSight s ({ u with tlb := tl } : State) := ⟨hS.2.2.2, hC⟩
  have hqi : h.f.issued.fence = none := by simp [Fibre.issued, hq]
  obtain ⟨t, ht, htf, htr⟩ := loadOne_seen hfu hqi false addr (hb.1 _ hsight) (fun x hx p hp => hS.2.1 p (hb.2 x hx p hp))
  have hcur : t.cur = s.cur := by have := congrArg State.cur htr; exact this.trans hS.2.2.1
  refine ⟨_, rfl, ?_⟩
  have e : memoryAccess sw al h addr n .load done s = onCur t (fun f => (done (leNat bytes) f).next4) := by
    unfold memoryAccess
    simp only [hw, Deed.want, Deed.atomic, accessToll, hs, hd, issueAccess, hr, Option.isSome_none, Bool.false_and, Bool.false_eq_true, if_false, hu]
    rw [if_neg]
    · simp only [collectiveOf, Deed.writes, Bool.false_eq_true, if_false, htl, finishAccess, performOne, hfu, ht]
    · cases al
      · simp
      · simp [hal rfl]
  rw [e]
  have hcr : t.crews = u.crews := by have := congrArg State.crews htr; exact this
  refine ⟨?_, fun k hk => ?_, ?_, ?_, fun p key => ?_⟩
  · rw [lookup_onCur, hcur, if_pos rfl, htf, hfu]; rfl
  · rw [lookup_onCur, hcur, if_neg (Ne.symm hk), htf]; exact hB.2.1 k hk
  · have := hB.2.2.1
    unfold CrewsCharged at *
    simpa [hcr] using this
  · have h1 := hS.2.2.2
    unfold Unchanged at *
    have h2 : ({ ({ t with fibres := u.fibres, l2 := u.l2 } : State) with
        fibres := s.fibres, crews := s.crews, counters := s.counters, tlb := s.tlb, l2 := s.l2 } : State) = s := by
      have : ({ t with fibres := u.fibres, l2 := u.l2 } : State) = { u with tlb := tl } := htr
      rw [this]
      exact h1
    exact h2
  · rw [← hS.1 p key]
    have hm : t.mem = u.mem := by have := congrArg State.mem htr; exact this
    have hbk : t.banks = u.banks := by have := congrArg State.banks htr; exact this
    have hci : t.ciphered = u.ciphered := by have := congrArg State.ciphered htr; exact this
    have hps : t.plainSectors = u.plainSectors := by have := congrArg State.plainSectors htr; exact this
    exact (SameBytes.of_eq (s := u) (t := onCur t _) hm hbk hci hps).viewByte p key

/-! ### Stores -/

/-- The state but for what a write may change: fibres that a conflict rolls back with their register lines, bytes with their
stored forms, errors and poison, event counters, the interrupt and the report of a poisoned sector (R217, R296, R298, R312). -/
def OnlyWritten (s t : State) : Prop :=
  { t with fibres := s.fibres, counters := s.counters, mem := s.mem, memLatent := s.memLatent, poison := s.poison,
           ciphered := s.ciphered, plainSectors := s.plainSectors, banks := s.banks, slots := s.slots, msix := s.msix, reports := s.reports } = s ∧
    ∀ k f, lookup s.fibres k = some f → f.fence = none → lookup t.fibres k = some f

theorem OnlyWritten.refl (s : State) : OnlyWritten s s := ⟨rfl, fun _ _ h _ => h⟩

theorem OnlyWritten.trans {s t u : State} (h : OnlyWritten s t) (h' : OnlyWritten t u) : OnlyWritten s u := by
  refine ⟨?_, fun k f hk hf => h'.2 k f (h.2 k f hk hf) hf⟩
  have e := h'.1
  rw [← h.1, ← e]

theorem OnlyWritten.setByte (s : State) (p : Nat) (v : Byte) : OnlyWritten s (setByte s p v) := by
  unfold Machine.setByte
  split
  · dsimp only
    split
    · exact ⟨rfl, fun _ _ h _ => h⟩
    · refine ⟨?_, fun k f h _ => by simpa using h⟩
      unfold countCore
      split <;> rfl
  · exact ⟨rfl, fun _ _ h _ => h⟩

theorem OnlyWritten.poisonSector (s : State) (q : Nat) : OnlyWritten s (poisonSector s q) := by
  unfold Machine.poisonSector
  split <;> exact ⟨rfl, fun _ _ h _ => h⟩

theorem OnlyWritten.foldl {β : Type} (f : State → β → State) (hf : ∀ s x, OnlyWritten s (f s x)) (l : List β) (s : State) :
    OnlyWritten s (l.foldl f s) :=
  foldl_keeps (OnlyWritten s) f (fun _ x h => h.trans (hf _ x)) l s (OnlyWritten.refl s)

theorem OnlyWritten.storeForm (s : State) (l : List Nat) (key : Option Nat) : OnlyWritten s (storeForm s l key) := by
  refine OnlyWritten.foldl _ (fun t q => ?_) _ _
  have hp : ∀ u, OnlyWritten t u → OnlyWritten t (Machine.poisonSector (countController u (q * 64) 0x85 1) q) := fun u hu =>
    (hu.trans (u := countController u (q * 64) 0x85 1) ⟨rfl, fun _ _ h _ => h⟩).trans (OnlyWritten.poisonSector _ _)
  have hm : OnlyWritten t (markPlain t q) := ⟨rfl, fun _ _ h _ => h⟩
  cases lookup t.ciphered q <;> cases key <;> dsimp only
  · exact hm
  · split
    · exact ⟨rfl, fun _ _ h _ => h⟩
    · exact hp _ hm
  · exact ⟨rfl, fun _ _ h _ => h⟩
  · split
    · exact OnlyWritten.refl t
    · split
      · exact ⟨rfl, fun _ _ h _ => h⟩
      · exact hp _ (OnlyWritten.refl t)

theorem OnlyWritten.clearWhole (s : State) (l : List Nat) : OnlyWritten s (clearWhole s l) := by
  refine OnlyWritten.trans (t := { s with
    poison := s.poison.filter (fun q => !covers l 64 (q * 64))
    memLatent := s.memLatent.filter (fun x => !covers l 64 (x.1 * 64)) }) ⟨rfl, fun _ _ h _ => h⟩ ?_
  refine OnlyWritten.foldl _ (fun t k => ?_) _ _
  dsimp only
  split
  · exact OnlyWritten.refl t
  · exact ⟨rfl, fun _ _ h _ => h⟩

/-- A rollback touches a fibre with a pending fence alone (R312). -/
theorem OnlyWritten.rollback (s : State) (k : Nat) : OnlyWritten s (rollback s k) := by
  unfold Machine.rollback
  split
  · exact OnlyWritten.refl s
  · rename_i g hg
    split
    · exact OnlyWritten.refl s
    · rename_i x hx
      refine ⟨rfl, fun j f h hf => ?_⟩
      rw [lookup_put]
      split
      · rename_i e; subst e
        rw [hg] at h; cases h
        rw [hf] at hx; cases hx
      · exact h

theorem OnlyWritten.conflict (s : State) (l : List Nat) : OnlyWritten s (conflict s l) := by
  refine OnlyWritten.foldl _ (fun t e => ?_) _ _
  split
  · exact OnlyWritten.refl t
  · split
    · exact OnlyWritten.rollback t _
    · exact OnlyWritten.refl t

/-- What one write may change (R300). -/
theorem write_only (s : State) (key : Option Nat) (l : List (Nat × Byte)) : OnlyWritten s (write s key l) :=
  (((OnlyWritten.storeForm s _ _).trans (OnlyWritten.foldl _ (fun t c => OnlyWritten.setByte t c.1 c.2) l _)).trans
    (OnlyWritten.clearWhole _ _)).trans (OnlyWritten.conflict _ _)

/-- The cells that spots of one mapping take from bytes. -/
theorem mem_cellsUnder {l : List Spot} {bytes : List Byte} {key : Option Nat} {c : Nat × Byte} (hc : c ∈ cellsUnder l bytes key) :
    ∃ x ∈ l, x.place = some c.1 := by
  unfold cellsUnder at hc
  obtain ⟨y, hy, e⟩ := List.mem_filterMap.1 hc
  split at e
  · cases hp : y.1.place with
    | none => rw [hp] at e; cases e
    | some p => rw [hp] at e; cases e; exact ⟨y.1, (List.of_mem_zip hy).1, hp⟩
  · cases e

theorem cellsUnder_places {l : List Spot} {bytes : List Byte} {key : Option Nat} (hk : ∀ x ∈ l, x.page.key = key) (hlen : l.length = bytes.length) :
    (cellsUnder l bytes key).map (·.1) = l.filterMap (·.place) := by
  unfold cellsUnder
  induction l generalizing bytes with
  | nil => rfl
  | cons x r ih =>
    cases bytes with
    | nil => simp at hlen
    | cons b bs =>
      have := ih (bytes := bs) (fun y hy => hk y (List.mem_cons_of_mem _ hy)) (by simpa using hlen)
      have hx := hk x (by simp)
      simp only [List.zip_cons_cons, List.filterMap_cons, hx, if_true]
      cases x.place <;> simp [this]

theorem cellsUnder_getElem {l : List Spot} {bytes : List Byte} {key : Option Nat} (hk : ∀ x ∈ l, x.page.key = key) {i p : Nat} {x : Spot} {b : Byte}
    (hx : l[i]? = some x) (hb : bytes[i]? = some b) (hp : x.place = some p) : (p, b) ∈ cellsUnder l bytes key := by
  unfold cellsUnder
  refine List.mem_filterMap.2 ⟨(x, b), ?_, ?_⟩
  · rw [List.mem_iff_getElem?]
    exact ⟨i, by rw [List.getElem?_zip_eq_some]; exact ⟨hx, hb⟩⟩
  · rw [if_pos (hk x (List.mem_of_getElem? hx)), hp]; rfl

/-- Places that are all there. -/
theorem map_places (l : List Spot) (h : ∀ x ∈ l, x.place.isSome = true) : l.map (·.place) = (l.filterMap (·.place)).map some := by
  induction l with
  | nil => rfl
  | cons y r ih =>
    obtain ⟨q, hq⟩ := Option.isSome_iff_exists.1 (h y (by simp))
    simp [hq, ih (fun z hz => h z (List.mem_cons_of_mem _ hz))]

/-- What a write past outstanding operations leaves of them (R203, R226). -/
theorem supersede_engines (s : State) (q : Nat) (ps : List Nat) : ∃ E, supersede s q ps = { s with engines := E } ∧ EnginesKept s { s with engines := E } := by
  unfold supersede
  dsimp only
  split
  · exact ⟨s.engines, rfl, fun _ => rfl⟩
  · refine ⟨_, rfl, fun k => ?_⟩
    have hu : ∀ (e : Engine) (j : Nat) (m : Bool), (e.superseded s j q m (ps.filter inTileFile)).unwritten = e.unwritten := by
      intro e j m
      unfold Engine.superseded
      dsimp only
      split <;> rfl
    suffices ∀ (m : Bool) (l : Tab Engine), (lookup (l.map (fun x => (x.1, x.2.superseded s x.1 q m (ps.filter inTileFile)))) k).map Engine.unwritten =
        (lookup l k).map Engine.unwritten from this _ _
    intro m l
    induction l with
    | nil => rfl
    | cons c r ih =>
      obtain ⟨j, e⟩ := c
      simp only [List.map_cons, lookup]
      split
      · exact congrArg some (hu e j m)
      · exact ih

/-- A scalar memory store that nothing delays completes (R134, R136): its spots hold its bytes, and every other place reads as before
through the mapping that it stored through. -/
theorem memoryAccess_store {s : State} {f : Fibre} {h : Here} (hf : lookup s.fibres s.cur = some f) (hh : h.f = f) (hq : f.fence = none)
    (hr : f.sReplay = none) (sw al : Bool) (addr : Word) (n v : Nat) {l : List Spot} {key : Option Nat}
    (hal : al = true → addr.toNat % n = 0) (hw : walkedRange s h.env addr n = s) (hs : spots s h.env addr n .write false = .ok l) (hl : l ≠ []) (hk : ∀ x ∈ l, x.page.key = key)
    (hd : accessDelay s s.cur f false (.store v) 1 [.ok l] = none) (hp : ∀ x ∈ l, ∃ p, x.place = some p ∧ Clean s p)
    (hn : (l.map (·.place)).Nodup) (hcol : ∀ x ∈ l, x.page.collective = none) (done : Nat → Fibre → Fibre) :
    ∃ t, memoryAccess sw al h addr n (.store v) done s = t ∧ lookup t.fibres s.cur = some (done 0 f.issued).next4 ∧
      (∀ k g, k ≠ s.cur → lookup s.fibres k = some g → g.fence = none → lookup t.fibres k = some g) ∧
      CrewsCharged s t (bankOfFibre s.cur) 1 (memoryLines addr n (.ok l)) ∧ StoredOnly s t ∧
      (∀ i x p, l[i]? = some x → x.place = some p → byteAt t p = BitVec.ofNat 8 (v / 256 ^ i)) ∧
      ∀ p, (∀ x ∈ l, x.place ≠ some p) → viewByte t p key = viewByte s p key := by
  subst hh
  have hB := issueScalar_becomes hf h.f.spc 1 (memoryLines addr n (.ok l))
  obtain ⟨tl, htl⟩ := remember_tlb (issueScalar s h.f.spc 1 (memoryLines addr n (.ok l))) h.env addr
  have hS := hB.same
  generalize hu : issueScalar s h.f.spc 1 (memoryLines addr n (.ok l)) = u at *
  have hfu : lookup ({ u with tlb := tl } : State).fibres s.cur = some h.f.issued := hB.1
  have hqi : h.f.issued.fence = none := by simp [Fibre.issued, hq]
  have hsome : ∀ x ∈ l, x.place.isSome = true := fun x hx => by obtain ⟨p, hp, -⟩ := hp x hx; simp [hp]
  have hclean : ∀ x ∈ l, ∀ p, x.place = some p → Clean ({ u with tlb := tl } : State) p := fun x hx p hp' => by
    obtain ⟨q, hq, hc⟩ := hp x hx
    rw [hq] at hp'; cases hp'
    exact hS.2.1 p hc
  have hcn : collectiveOf (.store v) l = none := by
    unfold collectiveOf
    simp only [Deed.writes, if_true, List.findSome?_eq_none_iff]
    exact hcol
  obtain ⟨y, hy⟩ := holdSpots_l2 { u with tlb := tl } (clusterOfFibre s.cur) l true
  obtain ⟨E, hE, hEk⟩ := supersede_engines ({ u with tlb := tl, l2 := y } : State) u.nextSerial (l.filterMap (·.place))
  have hstore : storeOne { u with tlb := tl } s.cur h.f.issued false addr l (leBytes l.length v) =
      (write { u with tlb := tl, l2 := y, engines := E } key (cellsUnder l (leBytes l.length v) key), .ok 0) := by
    unfold storeOne
    rw [countReserved_sound hsome]
    simp only [Fibre.speculates, hqi, Option.isSome_none, Bool.false_and, Bool.false_eq_true, if_false]
    rw [meetRead_clean]
    · unfold placeBytes
      rw [hy]
      dsimp only
      rw [hE, writeSpots_one _ _ _ key hl hk]
    · intro x hx
      exact hclean x (List.mem_of_mem_filter hx)
  have hW := write_only { u with tlb := tl, l2 := y, engines := E } key (cellsUnder l (leBytes l.length v) key)
  generalize ht : write { u with tlb := tl, l2 := y, engines := E } key (cellsUnder l (leBytes l.length v) key) = t at *
  have e : memoryAccess sw al h addr n (.store v) done s = onCur t (fun f => (done 0 f).next4) := by
    unfold memoryAccess
    simp only [hw, Deed.want, Deed.atomic, accessToll, hs, hd, issueAccess, hr, Option.isSome_none, Bool.false_and, Bool.false_eq_true, if_false, hu]
    rw [if_neg]
    · simp only [hcn, htl, finishAccess, performOne, hfu, hstore]
    · cases al
      · simp
      · simp [hal rfl]
  have hcur : t.cur = s.cur := by have := congrArg State.cur hW.1; exact this.trans hS.2.2.1
  have hcr : t.crews = u.crews := by have := congrArg State.crews hW.1; exact this
  have hbytes : ∀ p key, viewByte (onCur t (fun f => (done 0 f).next4)) p key = viewByte t p key := fun p key =>
    (SameBytes.of_eq (s := t) (t := onCur t _) rfl rfl rfl rfl).viewByte p key
  refine ⟨_, rfl, ?_⟩
  rw [e]
  refine ⟨?_, fun k g hk hg hgf => ?_, ?_, ?_, fun i x p hx hp' => ?_, fun p hp' => ?_⟩
  · rw [lookup_onCur, hcur, if_pos rfl, hW.2 _ _ hfu hqi]; rfl
  · rw [lookup_onCur, hcur, if_neg (Ne.symm hk)]
    exact hW.2 k g ((hB.2.1 k hk).trans hg) hgf
  · have := hB.2.2.1
    unfold CrewsCharged at *
    simpa [hcr] using this
  · have h1 := hS.2.2.2
    have h2 := hW.1
    unfold Unchanged at h1
    unfold StoredOnly
    let back (x y : State) : State :=
      { x with fibres := y.fibres, counters := y.counters, mem := y.mem, memLatent := y.memLatent, poison := y.poison, ciphered := y.ciphered,
               plainSectors := y.plainSectors, banks := y.banks, slots := y.slots, msix := y.msix, reports := y.reports }
    have h2' : back t u = { u with tlb := tl, l2 := y, engines := E } := h2
    have h3 : { back t u with fibres := s.fibres, crews := s.crews, counters := s.counters, tlb := s.tlb, l2 := s.l2, engines := u.engines } = s := by
      rw [h2']
      exact h1
    simp only [back] at h3
    have g1 : u.mem = s.mem := by have := congrArg State.mem h1; exact this
    have g2 : u.memLatent = s.memLatent := by have := congrArg State.memLatent h1; exact this
    have g3 : u.poison = s.poison := by have := congrArg State.poison h1; exact this
    have g4 : u.ciphered = s.ciphered := by have := congrArg State.ciphered h1; exact this
    have g8 : u.plainSectors = s.plainSectors := by have := congrArg State.plainSectors h1; exact this
    have g5 : u.banks = s.banks := by have := congrArg State.banks h1; exact this
    have g6 : u.slots = s.slots := by have := congrArg State.slots h1; exact this
    have g7 : u.msix = s.msix := by have := congrArg State.msix h1; exact this
    have g9 : u.reports = s.reports := by have := congrArg State.reports h1; exact this
    have g10 : u.engines = s.engines := by have := congrArg State.engines h1; exact this
    rw [g1, g2, g3, g4, g8, g5, g6, g7, g9, g10] at h3
    refine ⟨h3, fun k => ?_⟩
    have h5 : t.engines = E := by have := congrArg State.engines h2'; exact this
    show (lookup t.engines k).map _ = _
    rw [h5, ← g10]
    exact hEk k
  · show byteAt (onCur t _) p = _
    rw [(SameBytes.of_eq (s := t) (t := onCur t _) rfl rfl rfl rfl).1, ← ht]
    have hi : i < l.length := by
      rw [List.getElem?_eq_some_iff] at hx; exact hx.1
    refine byteAt_write_inside _ _ _ ?_ (cellsUnder_getElem hk hx (b := BitVec.ofNat 8 (v / 256 ^ i)) ?_ hp')
    · rw [cellsUnder_places hk (by simp [leBytes])]
      have hmap := map_places l hsome
      rw [hmap] at hn
      exact (List.nodup_map_iff (Option.some_injective _)).1 hn
    · simp [leBytes, hi]
  · rw [hbytes, ← ht, viewByte_write_outside]
    · exact hS.1 p key
    · intro c hc
      obtain ⟨x, hx, hxp⟩ := mem_cellsUnder hc
      intro e
      exact hp' x hx (by rw [hxp, e])

end Sys2Proof.Machine
end

