-- ==== Sys2Proof/Laws/PerInstr.lean ====
section
/-! SUPPORT. What holds of every instruction as syntax: it is a word of at most one stream (R43, R50). -/

namespace Sys2Proof.Laws.Stream

/-- R43, R50: an instruction is not both a scalar word and a lane word. -/
def Statement (i : Instr) : Prop := encodeScalar i = none ∨ encodeLane i = none

theorem add (sw : Bool) (d : BitVec 6) (a : BitVec 6) (b : BitVec 6) : Statement (.add sw d a b) := .inr rfl
theorem sub (sw : Bool) (d : BitVec 6) (a : BitVec 6) (b : BitVec 6) : Statement (.sub sw d a b) := .inr rfl
theorem mul (sw : Bool) (d : BitVec 6) (a : BitVec 6) (b : BitVec 6) : Statement (.mul sw d a b) := .inr rfl
theorem mulh (sw : Bool) (d : BitVec 6) (a : BitVec 6) (b : BitVec 6) : Statement (.mulh sw d a b) := .inr rfl
theorem mulhn (sw : Bool) (d : BitVec 6) (a : BitVec 6) (b : BitVec 6) : Statement (.mulhn sw d a b) := .inr rfl
theorem div (sw : Bool) (d : BitVec 6) (a : BitVec 6) (b : BitVec 6) : Statement (.div sw d a b) := .inr rfl
theorem divn (sw : Bool) (d : BitVec 6) (a : BitVec 6) (b : BitVec 6) : Statement (.divn sw d a b) := .inr rfl
theorem rem (sw : Bool) (d : BitVec 6) (a : BitVec 6) (b : BitVec 6) : Statement (.rem sw d a b) := .inr rfl
theorem remn (sw : Bool) (d : BitVec 6) (a : BitVec 6) (b : BitVec 6) : Statement (.remn sw d a b) := .inr rfl
theorem min (sw : Bool) (d : BitVec 6) (a : BitVec 6) (b : BitVec 6) : Statement (.min sw d a b) := .inr rfl
theorem max (sw : Bool) (d : BitVec 6) (a : BitVec 6) (b : BitVec 6) : Statement (.max sw d a b) := .inr rfl
theorem minn (sw : Bool) (d : BitVec 6) (a : BitVec 6) (b : BitVec 6) : Statement (.minn sw d a b) := .inr rfl
theorem maxn (sw : Bool) (d : BitVec 6) (a : BitVec 6) (b : BitVec 6) : Statement (.maxn sw d a b) := .inr rfl
theorem and (sw : Bool) (d : BitVec 6) (a : BitVec 6) (b : BitVec 6) : Statement (.and sw d a b) := .inr rfl
theorem or (sw : Bool) (d : BitVec 6) (a : BitVec 6) (b : BitVec 6) : Statement (.or sw d a b) := .inr rfl
theorem xor (sw : Bool) (d : BitVec 6) (a : BitVec 6) (b : BitVec 6) : Statement (.xor sw d a b) := .inr rfl
theorem andn (sw : Bool) (d : BitVec 6) (a : BitVec 6) (b : BitVec 6) : Statement (.andn sw d a b) := .inr rfl
theorem shl (sw : Bool) (d : BitVec 6) (a : BitVec 6) (b : BitVec 6) : Statement (.shl sw d a b) := .inr rfl
theorem shr (sw : Bool) (d : BitVec 6) (a : BitVec 6) (b : BitVec 6) : Statement (.shr sw d a b) := .inr rfl
theorem sar (sw : Bool) (d : BitVec 6) (a : BitVec 6) (b : BitVec 6) : Statement (.sar sw d a b) := .inr rfl
theorem rotr (sw : Bool) (d : BitVec 6) (a : BitVec 6) (b : BitVec 6) : Statement (.rotr sw d a b) := .inr rfl
theorem clz (sw : Bool) (d : BitVec 6) (a : BitVec 6) : Statement (.clz sw d a) := .inr rfl
theorem ctz (sw : Bool) (d : BitVec 6) (a : BitVec 6) : Statement (.ctz sw d a) := .inr rfl
theorem popc (sw : Bool) (d : BitVec 6) (a : BitVec 6) : Statement (.popc sw d a) := .inr rfl
theorem brev (sw : Bool) (d : BitVec 6) (a : BitVec 6) : Statement (.brev sw d a) := .inr rfl
theorem seq (sw : Bool) (d : BitVec 6) (a : BitVec 6) (b : BitVec 6) : Statement (.seq sw d a b) := .inr rfl
theorem sne (sw : Bool) (d : BitVec 6) (a : BitVec 6) (b : BitVec 6) : Statement (.sne sw d a b) := .inr rfl
theorem slt (sw : Bool) (d : BitVec 6) (a : BitVec 6) (b : BitVec 6) : Statement (.slt sw d a b) := .inr rfl
theorem sle (sw : Bool) (d : BitVec 6) (a : BitVec 6) (b : BitVec 6) : Statement (.sle sw d a b) := .inr rfl
theorem sltn (sw : Bool) (d : BitVec 6) (a : BitVec 6) (b : BitVec 6) : Statement (.sltn sw d a b) := .inr rfl
theorem slen (sw : Bool) (d : BitVec 6) (a : BitVec 6) (b : BitVec 6) : Statement (.slen sw d a b) := .inr rfl
theorem sel (sw : Bool) (d : BitVec 6) (a : BitVec 6) (b : BitVec 6) (c : BitVec 6) : Statement (.sel sw d a b c) := .inr rfl
theorem addsh (sw : Bool) (d : BitVec 6) (a : BitVec 6) (b : BitVec 6) (h : BitVec 3) : Statement (.addsh sw d a b h) := .inr rfl
theorem addi (sw : Bool) (d : BitVec 6) (i : BitVec 16) : Statement (.addi sw d i) := .inr rfl
theorem andi (sw : Bool) (d : BitVec 6) (i : BitVec 16) : Statement (.andi sw d i) := .inr rfl
theorem ori (sw : Bool) (d : BitVec 6) (i : BitVec 16) : Statement (.ori sw d i) := .inr rfl
theorem xori (sw : Bool) (d : BitVec 6) (i : BitVec 16) : Statement (.xori sw d i) := .inr rfl
theorem shli (sw : Bool) (d : BitVec 6) (i : BitVec 6) : Statement (.shli sw d i) := .inr rfl
theorem shri (sw : Bool) (d : BitVec 6) (i : BitVec 6) : Statement (.shri sw d i) := .inr rfl
theorem sari (sw : Bool) (d : BitVec 6) (i : BitVec 6) : Statement (.sari sw d i) := .inr rfl
theorem muli (sw : Bool) (d : BitVec 6) (i : BitVec 16) : Statement (.muli sw d i) := .inr rfl
theorem movi (sw : Bool) (d : BitVec 6) (i : BitVec 16) : Statement (.movi sw d i) := .inr rfl
theorem movk (sw : Bool) (d : BitVec 6) (k : BitVec 2) (i : BitVec 16) : Statement (.movk sw d k i) := .inr rfl
theorem seqi (sw : Bool) (d : BitVec 6) (i : BitVec 16) : Statement (.seqi sw d i) := .inr rfl
theorem snei (sw : Bool) (d : BitVec 6) (i : BitVec 16) : Statement (.snei sw d i) := .inr rfl
theorem slti (sw : Bool) (d : BitVec 6) (i : BitVec 16) : Statement (.slti sw d i) := .inr rfl
theorem slei (sw : Bool) (d : BitVec 6) (i : BitVec 16) : Statement (.slei sw d i) := .inr rfl
theorem sltni (sw : Bool) (d : BitVec 6) (i : BitVec 16) : Statement (.sltni sw d i) := .inr rfl
theorem sleni (sw : Bool) (d : BitVec 6) (i : BitVec 16) : Statement (.sleni sw d i) := .inr rfl
theorem br (sw : Bool) (o : BitVec 20) : Statement (.br sw o) := .inr rfl
theorem call (sw : Bool) (o : BitVec 20) : Statement (.call sw o) := .inr rfl
theorem bz (sw : Bool) (c : BitVec 5) (o : BitVec 20) : Statement (.bz sw c o) := .inr rfl
theorem bnz (sw : Bool) (c : BitVec 5) (o : BitVec 20) : Statement (.bnz sw c o) := .inr rfl
theorem loop (sw : Bool) (c : BitVec 5) (o : BitVec 20) : Statement (.loop sw c o) := .inr rfl
theorem bemz (sw : Bool) (o : BitVec 20) : Statement (.bemz sw o) := .inr rfl
theorem bemnz (sw : Bool) (o : BitVec 20) : Statement (.bemnz sw o) := .inr rfl
theorem jr (sw : Bool) (a : BitVec 6) : Statement (.jr sw a) := .inr rfl
theorem callr (sw : Bool) (a : BitVec 6) : Statement (.callr sw a) := .inr rfl
theorem cls (sw : Bool) (k : BitVec 20) : Statement (.cls sw k) := .inr rfl
theorem fwait (sw : Bool) (m : BitVec 12) : Statement (.fwait sw m) := .inr rfl
theorem clswait (sw : Bool) (k : BitVec 20) : Statement (.clswait sw k) := .inr rfl
theorem ldb (sw : Bool) (d : BitVec 6) (b : BitVec 6) (o : BitVec 10) : Statement (.ldb sw d b o) := .inr rfl
theorem ldh (sw : Bool) (d : BitVec 6) (b : BitVec 6) (o : BitVec 10) : Statement (.ldh sw d b o) := .inr rfl
theorem ldw (sw : Bool) (d : BitVec 6) (b : BitVec 6) (o : BitVec 10) : Statement (.ldw sw d b o) := .inr rfl
theorem ldd (sw : Bool) (d : BitVec 6) (b : BitVec 6) (o : BitVec 10) : Statement (.ldd sw d b o) := .inr rfl
theorem ldbn (sw : Bool) (d : BitVec 6) (b : BitVec 6) (o : BitVec 10) : Statement (.ldbn sw d b o) := .inr rfl
theorem ldhn (sw : Bool) (d : BitVec 6) (b : BitVec 6) (o : BitVec 10) : Statement (.ldhn sw d b o) := .inr rfl
theorem ldwn (sw : Bool) (d : BitVec 6) (b : BitVec 6) (o : BitVec 10) : Statement (.ldwn sw d b o) := .inr rfl
theorem stb (sw : Bool) (d : BitVec 6) (b : BitVec 6) (o : BitVec 10) : Statement (.stb sw d b o) := .inr rfl
theorem sth (sw : Bool) (d : BitVec 6) (b : BitVec 6) (o : BitVec 10) : Statement (.sth sw d b o) := .inr rfl
theorem stw (sw : Bool) (d : BitVec 6) (b : BitVec 6) (o : BitVec 10) : Statement (.stw sw d b o) := .inr rfl
theorem std (sw : Bool) (d : BitVec 6) (b : BitVec 6) (o : BitVec 10) : Statement (.std sw d b o) := .inr rfl
theorem sldb (sw : Bool) (d : BitVec 6) (b : BitVec 6) (o : BitVec 10) : Statement (.sldb sw d b o) := .inr rfl
theorem sldh (sw : Bool) (d : BitVec 6) (b : BitVec 6) (o : BitVec 10) : Statement (.sldh sw d b o) := .inr rfl
theorem sldw (sw : Bool) (d : BitVec 6) (b : BitVec 6) (o : BitVec 10) : Statement (.sldw sw d b o) := .inr rfl
theorem sldd (sw : Bool) (d : BitVec 6) (b : BitVec 6) (o : BitVec 10) : Statement (.sldd sw d b o) := .inr rfl
theorem sldbn (sw : Bool) (d : BitVec 6) (b : BitVec 6) (o : BitVec 10) : Statement (.sldbn sw d b o) := .inr rfl
theorem sldhn (sw : Bool) (d : BitVec 6) (b : BitVec 6) (o : BitVec 10) : Statement (.sldhn sw d b o) := .inr rfl
theorem sldwn (sw : Bool) (d : BitVec 6) (b : BitVec 6) (o : BitVec 10) : Statement (.sldwn sw d b o) := .inr rfl
theorem sstb (sw : Bool) (d : BitVec 6) (b : BitVec 6) (o : BitVec 10) : Statement (.sstb sw d b o) := .inr rfl
theorem ssth (sw : Bool) (d : BitVec 6) (b : BitVec 6) (o : BitVec 10) : Statement (.ssth sw d b o) := .inr rfl
theorem sstw (sw : Bool) (d : BitVec 6) (b : BitVec 6) (o : BitVec 10) : Statement (.sstw sw d b o) := .inr rfl
theorem sstd (sw : Bool) (d : BitVec 6) (b : BitVec 6) (o : BitVec 10) : Statement (.sstd sw d b o) := .inr rfl
theorem aaddw (sw : Bool) (d : BitVec 6) (a : BitVec 6) (b : BitVec 6) : Statement (.aaddw sw d a b) := .inr rfl
theorem aswapw (sw : Bool) (d : BitVec 6) (a : BitVec 6) (b : BitVec 6) : Statement (.aswapw sw d a b) := .inr rfl
theorem acasw (sw : Bool) (d : BitVec 6) (a : BitVec 6) (b : BitVec 6) : Statement (.acasw sw d a b) := .inr rfl
theorem aminw (sw : Bool) (d : BitVec 6) (a : BitVec 6) (b : BitVec 6) : Statement (.aminw sw d a b) := .inr rfl
theorem amaxw (sw : Bool) (d : BitVec 6) (a : BitVec 6) (b : BitVec 6) : Statement (.amaxw sw d a b) := .inr rfl
theorem aminnw (sw : Bool) (d : BitVec 6) (a : BitVec 6) (b : BitVec 6) : Statement (.aminnw sw d a b) := .inr rfl
theorem amaxnw (sw : Bool) (d : BitVec 6) (a : BitVec 6) (b : BitVec 6) : Statement (.amaxnw sw d a b) := .inr rfl
theorem aandw (sw : Bool) (d : BitVec 6) (a : BitVec 6) (b : BitVec 6) : Statement (.aandw sw d a b) := .inr rfl
theorem aorw (sw : Bool) (d : BitVec 6) (a : BitVec 6) (b : BitVec 6) : Statement (.aorw sw d a b) := .inr rfl
theorem axorw (sw : Bool) (d : BitVec 6) (a : BitVec 6) (b : BitVec 6) : Statement (.axorw sw d a b) := .inr rfl
theorem aaddd (sw : Bool) (d : BitVec 6) (a : BitVec 6) (b : BitVec 6) : Statement (.aaddd sw d a b) := .inr rfl
theorem aswapd (sw : Bool) (d : BitVec 6) (a : BitVec 6) (b : BitVec 6) : Statement (.aswapd sw d a b) := .inr rfl
theorem acasd (sw : Bool) (d : BitVec 6) (a : BitVec 6) (b : BitVec 6) : Statement (.acasd sw d a b) := .inr rfl
theorem amind (sw : Bool) (d : BitVec 6) (a : BitVec 6) (b : BitVec 6) : Statement (.amind sw d a b) := .inr rfl
theorem amaxd (sw : Bool) (d : BitVec 6) (a : BitVec 6) (b : BitVec 6) : Statement (.amaxd sw d a b) := .inr rfl
theorem aminnd (sw : Bool) (d : BitVec 6) (a : BitVec 6) (b : BitVec 6) : Statement (.aminnd sw d a b) := .inr rfl
theorem amaxnd (sw : Bool) (d : BitVec 6) (a : BitVec 6) (b : BitVec 6) : Statement (.amaxnd sw d a b) := .inr rfl
theorem aandd (sw : Bool) (d : BitVec 6) (a : BitVec 6) (b : BitVec 6) : Statement (.aandd sw d a b) := .inr rfl
theorem aord (sw : Bool) (d : BitVec 6) (a : BitVec 6) (b : BitVec 6) : Statement (.aord sw d a b) := .inr rfl
theorem axord (sw : Bool) (d : BitVec 6) (a : BitVec 6) (b : BitVec 6) : Statement (.axord sw d a b) := .inr rfl
theorem saaddw (sw : Bool) (d : BitVec 6) (a : BitVec 6) (b : BitVec 6) : Statement (.saaddw sw d a b) := .inr rfl
theorem saswapw (sw : Bool) (d : BitVec 6) (a : BitVec 6) (b : BitVec 6) : Statement (.saswapw sw d a b) := .inr rfl
theorem sacasw (sw : Bool) (d : BitVec 6) (a : BitVec 6) (b : BitVec 6) : Statement (.sacasw sw d a b) := .inr rfl
theorem saminw (sw : Bool) (d : BitVec 6) (a : BitVec 6) (b : BitVec 6) : Statement (.saminw sw d a b) := .inr rfl
theorem samaxw (sw : Bool) (d : BitVec 6) (a : BitVec 6) (b : BitVec 6) : Statement (.samaxw sw d a b) := .inr rfl
theorem saminnw (sw : Bool) (d : BitVec 6) (a : BitVec 6) (b : BitVec 6) : Statement (.saminnw sw d a b) := .inr rfl
theorem samaxnw (sw : Bool) (d : BitVec 6) (a : BitVec 6) (b : BitVec 6) : Statement (.samaxnw sw d a b) := .inr rfl
theorem saandw (sw : Bool) (d : BitVec 6) (a : BitVec 6) (b : BitVec 6) : Statement (.saandw sw d a b) := .inr rfl
theorem saorw (sw : Bool) (d : BitVec 6) (a : BitVec 6) (b : BitVec 6) : Statement (.saorw sw d a b) := .inr rfl
theorem saxorw (sw : Bool) (d : BitVec 6) (a : BitVec 6) (b : BitVec 6) : Statement (.saxorw sw d a b) := .inr rfl
theorem saaddd (sw : Bool) (d : BitVec 6) (a : BitVec 6) (b : BitVec 6) : Statement (.saaddd sw d a b) := .inr rfl
theorem saswapd (sw : Bool) (d : BitVec 6) (a : BitVec 6) (b : BitVec 6) : Statement (.saswapd sw d a b) := .inr rfl
theorem sacasd (sw : Bool) (d : BitVec 6) (a : BitVec 6) (b : BitVec 6) : Statement (.sacasd sw d a b) := .inr rfl
theorem samind (sw : Bool) (d : BitVec 6) (a : BitVec 6) (b : BitVec 6) : Statement (.samind sw d a b) := .inr rfl
theorem samaxd (sw : Bool) (d : BitVec 6) (a : BitVec 6) (b : BitVec 6) : Statement (.samaxd sw d a b) := .inr rfl
theorem saminnd (sw : Bool) (d : BitVec 6) (a : BitVec 6) (b : BitVec 6) : Statement (.saminnd sw d a b) := .inr rfl
theorem samaxnd (sw : Bool) (d : BitVec 6) (a : BitVec 6) (b : BitVec 6) : Statement (.samaxnd sw d a b) := .inr rfl
theorem saandd (sw : Bool) (d : BitVec 6) (a : BitVec 6) (b : BitVec 6) : Statement (.saandd sw d a b) := .inr rfl
theorem saord (sw : Bool) (d : BitVec 6) (a : BitVec 6) (b : BitVec 6) : Statement (.saord sw d a b) := .inr rfl
theorem saxord (sw : Bool) (d : BitVec 6) (a : BitVec 6) (b : BitVec 6) : Statement (.saxord sw d a b) := .inr rfl
theorem ldacqw (sw : Bool) (d : BitVec 6) (b : BitVec 6) (o : BitVec 10) : Statement (.ldacqw sw d b o) := .inr rfl
theorem ldacqd (sw : Bool) (d : BitVec 6) (b : BitVec 6) (o : BitVec 10) : Statement (.ldacqd sw d b o) := .inr rfl
theorem strelw (sw : Bool) (d : BitVec 6) (b : BitVec 6) (o : BitVec 10) : Statement (.strelw sw d b o) := .inr rfl
theorem streld (sw : Bool) (d : BitVec 6) (b : BitVec 6) (o : BitVec 10) : Statement (.streld sw d b o) := .inr rfl
theorem fence (sw : Bool) (r : BitVec 1) (e : BitVec 1) (k : BitVec 3) : Statement (.fence sw r e k) := .inr rfl
theorem fencen (sw : Bool) (r : BitVec 1) (e : BitVec 1) (k : BitVec 3) : Statement (.fencen sw r e k) := .inr rfl
theorem cwb (sw : Bool) (x : BitVec 6) (y : BitVec 6) (f : BitVec 4) : Statement (.cwb sw x y f) := .inr rfl
theorem cinv (sw : Bool) (x : BitVec 6) (y : BitVec 6) (f : BitVec 4) : Statement (.cinv sw x y f) := .inr rfl
theorem cpf (sw : Bool) (x : BitVec 6) (y : BitVec 6) (f : BitVec 4) : Statement (.cpf sw x y f) := .inr rfl
theorem nred (sw : Bool) (x : BitVec 6) (y : BitVec 6) (f : BitVec 4) (z : BitVec 6) : Statement (.nred sw x y f z) := .inr rfl
theorem qpush (sw : Bool) (q : BitVec 6) (a : BitVec 6) : Statement (.qpush sw q a) := .inr rfl
theorem qpop (sw : Bool) (d : BitVec 6) (q : BitVec 6) : Statement (.qpop sw d q) := .inr rfl
theorem mfsr (sw : Bool) (d : BitVec 6) (n : BitVec 16) : Statement (.mfsr sw d n) := .inr rfl
theorem mtsr (sw : Bool) (d : BitVec 6) (n : BitVec 16) : Statement (.mtsr sw d n) := .inr rfl
theorem mfp (sw : Bool) (d : BitVec 6) (p : BitVec 6) : Statement (.mfp sw d p) := .inr rfl
theorem mtp (sw : Bool) (p : BitVec 6) (a : BitVec 6) : Statement (.mtp sw p a) := .inr rfl
theorem mfem (sw : Bool) (d : BitVec 6) : Statement (.mfem sw d) := .inr rfl
theorem mtem (sw : Bool) (a : BitVec 6) : Statement (.mtem sw a) := .inr rfl
theorem mff (sw : Bool) (d : BitVec 6) : Statement (.mff sw d) := .inr rfl
theorem tdset (sw : Bool) (i : BitVec 4) (y : BitVec 6) : Statement (.tdset sw i y) := .inr rfl
theorem tdget (sw : Bool) (i : BitVec 4) (y : BitVec 6) : Statement (.tdget sw i y) := .inr rfl
theorem fbset (sw : Bool) (j : BitVec 2) (y : BitVec 6) : Statement (.fbset sw j y) := .inr rfl
theorem tzero (sw : Bool) (i : BitVec 4) (f : BitVec 4) : Statement (.tzero sw i f) := .inr rfl
theorem tld (sw : Bool) (i : BitVec 4) (y : BitVec 6) (f : BitVec 4) (z : BitVec 6) : Statement (.tld sw i y f z) := .inr rfl
theorem tst (sw : Bool) (i : BitVec 4) (y : BitVec 6) (f : BitVec 4) (z : BitVec 6) : Statement (.tst sw i y f z) := .inr rfl
theorem tldl (sw : Bool) (i : BitVec 4) (y : BitVec 6) (f : BitVec 4) (z : BitVec 6) : Statement (.tldl sw i y f z) := .inr rfl
theorem tstl (sw : Bool) (i : BitVec 4) (y : BitVec 6) (f : BitVec 4) (z : BitVec 6) : Statement (.tstl sw i y f z) := .inr rfl
theorem mma (sw : Bool) (j : BitVec 2) (i : BitVec 3) (y : BitVec 4) (f : BitVec 4) (z : BitVec 4) : Statement (.mma sw j i y f z) := .inr rfl
theorem mmas (sw : Bool) (n : BitVec 1) (j : BitVec 2) (i : BitVec 3) (y : BitVec 4) (f : BitVec 4) (z : BitVec 4) : Statement (.mmas sw n j i y f z) := .inr rfl
theorem accz (sw : Bool) (i : BitVec 3) (y : BitVec 6) (f : BitVec 4) : Statement (.accz sw i y f) := .inr rfl
theorem accld (sw : Bool) (i : BitVec 3) (y : BitVec 6) (f : BitVec 4) (z : BitVec 6) : Statement (.accld sw i y f z) := .inr rfl
theorem accst (sw : Bool) (i : BitVec 3) (y : BitVec 6) (f : BitVec 4) (z : BitVec 6) : Statement (.accst sw i y f z) := .inr rfl
theorem acccvt (sw : Bool) (j : BitVec 2) (i : BitVec 3) (y : BitVec 6) (f : BitVec 4) (z : BitVec 6) : Statement (.acccvt sw j i y f z) := .inr rfl
theorem accmv (sw : Bool) (x : BitVec 3) (y : BitVec 3) (f : BitVec 4) : Statement (.accmv sw x y f) := .inr rfl
theorem publish (sw : Bool) (x : BitVec 6) (y : BitVec 6) (f : BitVec 4) : Statement (.publish sw x y f) := .inr rfl
theorem lwinit (sw : Bool) (x : BitVec 6) (y : BitVec 6) (z : BitVec 6) : Statement (.lwinit sw x y z) := .inr rfl
theorem lwarm (sw : Bool) (x : BitVec 6) (y : BitVec 6) (z : BitVec 6) : Statement (.lwarm sw x y z) := .inr rfl
theorem lwadd (sw : Bool) (x : BitVec 6) (y : BitVec 6) (z : BitVec 6) : Statement (.lwadd sw x y z) := .inr rfl
theorem lwait (sw : Bool) (x : BitVec 6) (y : BitVec 6) : Statement (.lwait sw x y) := .inr rfl
theorem lwtest (sw : Bool) (x : BitVec 6) (y : BitVec 6) : Statement (.lwtest sw x y) := .inr rfl
theorem cbar (sw : Bool) (b : BitVec 3) (y : BitVec 6) : Statement (.cbar sw b y) := .inr rfl
theorem cbara (sw : Bool) (b : BitVec 3) (y : BitVec 6) (z : BitVec 6) : Statement (.cbara sw b y z) := .inr rfl
theorem cbarw (sw : Bool) (b : BitVec 3) (y : BitVec 6) : Statement (.cbarw sw b y) := .inr rfl
theorem rst (sw : Bool) (x : BitVec 6) (f : BitVec 4) : Statement (.rst sw x f) := .inr rfl
theorem rcpy (sw : Bool) (x : BitVec 6) (f : BitVec 4) : Statement (.rcpy sw x f) := .inr rfl
theorem rflush (sw : Bool) (x : BitVec 6) (f : BitVec 4) : Statement (.rflush sw x f) := .inr rfl
theorem tsarm (sw : Bool) (x : BitVec 6) (y : BitVec 6) (f : BitVec 4) (z : BitVec 6) : Statement (.tsarm sw x y f z) := .inr rfl
theorem tscan (sw : Bool) (y : BitVec 6) (z : BitVec 6) : Statement (.tscan sw y z) := .inr rfl
theorem raadd (sw : Bool) (x : BitVec 6) (f : BitVec 4) (z : BitVec 6) : Statement (.raadd sw x f z) := .inr rfl
theorem raswap (sw : Bool) (x : BitVec 6) (f : BitVec 4) (z : BitVec 6) : Statement (.raswap sw x f z) := .inr rfl
theorem racas (sw : Bool) (x : BitVec 6) (f : BitVec 4) (z : BitVec 6) : Statement (.racas sw x f z) := .inr rfl
theorem ramin (sw : Bool) (x : BitVec 6) (f : BitVec 4) (z : BitVec 6) : Statement (.ramin sw x f z) := .inr rfl
theorem ramax (sw : Bool) (x : BitVec 6) (f : BitVec 4) (z : BitVec 6) : Statement (.ramax sw x f z) := .inr rfl
theorem raand (sw : Bool) (x : BitVec 6) (f : BitVec 4) (z : BitVec 6) : Statement (.raand sw x f z) := .inr rfl
theorem raor (sw : Bool) (x : BitVec 6) (f : BitVec 4) (z : BitVec 6) : Statement (.raor sw x f z) := .inr rfl
theorem raxor (sw : Bool) (x : BitVec 6) (f : BitVec 4) (z : BitVec 6) : Statement (.raxor sw x f z) := .inr rfl
theorem rredf (sw : Bool) (x : BitVec 6) (f : BitVec 4) : Statement (.rredf sw x f) := .inr rfl
theorem rredb (sw : Bool) (x : BitVec 6) (f : BitVec 4) : Statement (.rredb sw x f) := .inr rfl
theorem rredi (sw : Bool) (x : BitVec 6) (f : BitVec 4) : Statement (.rredi sw x f) := .inr rfl
theorem rredx (sw : Bool) (x : BitVec 6) (f : BitVec 4) : Statement (.rredx sw x f) := .inr rfl
theorem rredn (sw : Bool) (x : BitVec 6) (f : BitVec 4) : Statement (.rredn sw x f) := .inr rfl
theorem gpset (sw : Bool) (x : BitVec 6) (y : BitVec 6) (z : BitVec 6) : Statement (.gpset sw x y z) := .inr rfl
theorem gpget (sw : Bool) (x : BitVec 6) (y : BitVec 6) (z : BitVec 6) : Statement (.gpget sw x y z) := .inr rfl
theorem gpause (sw : Bool) (y : BitVec 6) : Statement (.gpause sw y) := .inr rfl
theorem spawn (sw : Bool) (x : BitVec 6) (y : BitVec 6) (f : BitVec 4) (z : BitVec 6) : Statement (.spawn sw x y f z) := .inr rfl
theorem join (sw : Bool) (x : BitVec 6) : Statement (.join sw x) := .inr rfl
theorem phase (sw : Bool) (x : BitVec 6) (y : BitVec 6) : Statement (.phase sw x y) := .inr rfl
theorem exit (sw : Bool) : Statement (.exit sw) := .inr rfl
theorem launchi (sw : Bool) (x : BitVec 6) (y : BitVec 6) (f : BitVec 4) (z : BitVec 6) : Statement (.launchi sw x y f z) := .inr rfl
theorem yield (sw : Bool) : Statement (.yield sw) := .inr rfl
theorem yieldpt (sw : Bool) : Statement (.yieldpt sw) := .inr rfl
theorem bgrant (sw : Bool) (x : BitVec 6) (y : BitVec 6) : Statement (.bgrant sw x y) := .inr rfl
theorem fbar (sw : Bool) (m : BitVec 4) : Statement (.fbar sw m) := .inr rfl
theorem role (sw : Bool) (n : BitVec 6) (k : BitVec 6) : Statement (.role sw n k) := .inr rfl
theorem tfence (sw : Bool) (m : BitVec 6) : Statement (.tfence sw m) := .inr rfl
theorem brk (sw : Bool) (p : BitVec 6) (c : BitVec 6) : Statement (.brk sw p c) := .inr rfl
theorem trap (sw : Bool) (x : BitVec 6) (c : BitVec 6) : Statement (.trap sw x c) := .inr rfl
theorem tret (sw : Bool) (x : BitVec 6) (k : BitVec 6) : Statement (.tret sw x k) := .inr rfl
theorem dbara (sw : Bool) (b : BitVec 4) (y : BitVec 6) (z : BitVec 6) : Statement (.dbara sw b y z) := .inr rfl
theorem dbarw (sw : Bool) (b : BitVec 4) (y : BitVec 6) : Statement (.dbarw sw b y) := .inr rfl
theorem qprio (sw : Bool) (x : BitVec 6) (y : BitVec 6) : Statement (.qprio sw x y) := .inr rfl
theorem swapf (sw : Bool) (x : BitVec 6) (y : BitVec 6) (f : BitVec 4) : Statement (.swapf sw x y f) := .inr rfl
theorem tlbinv (sw : Bool) (x : BitVec 6) (y : BitVec 6) (f : BitVec 4) : Statement (.tlbinv sw x y f) := .inr rfl
theorem tlbinva (sw : Bool) (y : BitVec 6) (f : BitVec 4) : Statement (.tlbinva sw y f) := .inr rfl
theorem illegalInstr (word : BitVec 96) (lane : Bool) (sub : Subcause) : Statement (.illegalInstr word lane sub) := .inl rfl
theorem iadd (w : LaneWord) : Statement (.iadd w) := .inl rfl
theorem isub (w : LaneWord) : Statement (.isub w) := .inl rfl
theorem imul (w : LaneWord) : Statement (.imul w) := .inl rfl
theorem imulh (w : LaneWord) : Statement (.imulh w) := .inl rfl
theorem imad (w : LaneWord) : Statement (.imad w) := .inl rfl
theorem imin (w : LaneWord) : Statement (.imin w) := .inl rfl
theorem imax (w : LaneWord) : Statement (.imax w) := .inl rfl
theorem iabs (w : LaneWord) : Statement (.iabs w) := .inl rfl
theorem ineg (w : LaneWord) : Statement (.ineg w) := .inl rfl
theorem iand (w : LaneWord) : Statement (.iand w) := .inl rfl
theorem ior (w : LaneWord) : Statement (.ior w) := .inl rfl
theorem ixor (w : LaneWord) : Statement (.ixor w) := .inl rfl
theorem iandn (w : LaneWord) : Statement (.iandn w) := .inl rfl
theorem ishl (w : LaneWord) : Statement (.ishl w) := .inl rfl
theorem ishr (w : LaneWord) : Statement (.ishr w) := .inl rfl
theorem iclz (w : LaneWord) : Statement (.iclz w) := .inl rfl
theorem ipopc (w : LaneWord) : Statement (.ipopc w) := .inl rfl
theorem ibfe (w : LaneWord) : Statement (.ibfe w) := .inl rfl
theorem ibfi (w : LaneWord) : Statement (.ibfi w) := .inl rfl
theorem imov (w : LaneWord) : Statement (.imov w) := .inl rfl
theorem lnop (w : LaneWord) : Statement (.lnop w) := .inl rfl
theorem fadd (w : LaneWord) : Statement (.fadd w) := .inl rfl
theorem fsub (w : LaneWord) : Statement (.fsub w) := .inl rfl
theorem fmul (w : LaneWord) : Statement (.fmul w) := .inl rfl
theorem ffma (w : LaneWord) : Statement (.ffma w) := .inl rfl
theorem fdiv (w : LaneWord) : Statement (.fdiv w) := .inl rfl
theorem fmin (w : LaneWord) : Statement (.fmin w) := .inl rfl
theorem fmax (w : LaneWord) : Statement (.fmax w) := .inl rfl
theorem fabs (w : LaneWord) : Statement (.fabs w) := .inl rfl
theorem fneg (w : LaneWord) : Statement (.fneg w) := .inl rfl
theorem frnd (w : LaneWord) : Statement (.frnd w) := .inl rfl
theorem fsqrt (w : LaneWord) : Statement (.fsqrt w) := .inl rfl
theorem frcp (w : LaneWord) : Statement (.frcp w) := .inl rfl
theorem frsq (w : LaneWord) : Statement (.frsq w) := .inl rfl
theorem fexp2 (w : LaneWord) : Statement (.fexp2 w) := .inl rfl
theorem flog2 (w : LaneWord) : Statement (.flog2 w) := .inl rfl
theorem fsin (w : LaneWord) : Statement (.fsin w) := .inl rfl
theorem fcos (w : LaneWord) : Statement (.fcos w) := .inl rfl
theorem ftanh (w : LaneWord) : Statement (.ftanh w) := .inl rfl
theorem icmpeq (w : LaneWord) : Statement (.icmpeq w) := .inl rfl
theorem icmpne (w : LaneWord) : Statement (.icmpne w) := .inl rfl
theorem icmplt (w : LaneWord) : Statement (.icmplt w) := .inl rfl
theorem icmple (w : LaneWord) : Statement (.icmple w) := .inl rfl
theorem icmpgt (w : LaneWord) : Statement (.icmpgt w) := .inl rfl
theorem icmpge (w : LaneWord) : Statement (.icmpge w) := .inl rfl
theorem fcmpeq (w : LaneWord) : Statement (.fcmpeq w) := .inl rfl
theorem fcmpne (w : LaneWord) : Statement (.fcmpne w) := .inl rfl
theorem fcmplt (w : LaneWord) : Statement (.fcmplt w) := .inl rfl
theorem fcmple (w : LaneWord) : Statement (.fcmple w) := .inl rfl
theorem fcmpgt (w : LaneWord) : Statement (.fcmpgt w) := .inl rfl
theorem fcmpge (w : LaneWord) : Statement (.fcmpge w) := .inl rfl
theorem fcmpun (w : LaneWord) : Statement (.fcmpun w) := .inl rfl
theorem fcmpor (w : LaneWord) : Statement (.fcmpor w) := .inl rfl
theorem pand (w : LaneWord) : Statement (.pand w) := .inl rfl
theorem por (w : LaneWord) : Statement (.por w) := .inl rfl
theorem pxor (w : LaneWord) : Statement (.pxor w) := .inl rfl
theorem pandn (w : LaneWord) : Statement (.pandn w) := .inl rfl
theorem pnot (w : LaneWord) : Statement (.pnot w) := .inl rfl
theorem emand (w : LaneWord) : Statement (.emand w) := .inl rfl
theorem emset (w : LaneWord) : Statement (.emset w) := .inl rfl
theorem emget (w : LaneWord) : Statement (.emget w) := .inl rfl
theorem laneSel (w : LaneWord) : Statement (.laneSel w) := .inl rfl
theorem cvt (w : LaneWord) : Statement (.cvt w) := .inl rfl
theorem dot4 (w : LaneWord) : Statement (.dot4 w) := .inl rfl
theorem dot8 (w : LaneWord) : Statement (.dot8 w) := .inl rfl
theorem dot2 (w : LaneWord) : Statement (.dot2 w) := .inl rfl
theorem scale (w : LaneWord) : Statement (.scale w) := .inl rfl
theorem seed (w : LaneWord) : Statement (.seed w) := .inl rfl
theorem ldg (w : LaneWord) : Statement (.ldg w) := .inl rfl
theorem stg (w : LaneWord) : Statement (.stg w) := .inl rfl
theorem lds (w : LaneWord) : Statement (.lds w) := .inl rfl
theorem sts (w : LaneWord) : Statement (.sts w) := .inl rfl
theorem gaadd (w : LaneWord) : Statement (.gaadd w) := .inl rfl
theorem gamin (w : LaneWord) : Statement (.gamin w) := .inl rfl
theorem gamax (w : LaneWord) : Statement (.gamax w) := .inl rfl
theorem gaand (w : LaneWord) : Statement (.gaand w) := .inl rfl
theorem gaor (w : LaneWord) : Statement (.gaor w) := .inl rfl
theorem gaxor (w : LaneWord) : Statement (.gaxor w) := .inl rfl
theorem gaswap (w : LaneWord) : Statement (.gaswap w) := .inl rfl
theorem gacas (w : LaneWord) : Statement (.gacas w) := .inl rfl
theorem gafadd (w : LaneWord) : Statement (.gafadd w) := .inl rfl
theorem laadd (w : LaneWord) : Statement (.laadd w) := .inl rfl
theorem lamin (w : LaneWord) : Statement (.lamin w) := .inl rfl
theorem lamax (w : LaneWord) : Statement (.lamax w) := .inl rfl
theorem laand (w : LaneWord) : Statement (.laand w) := .inl rfl
theorem laor (w : LaneWord) : Statement (.laor w) := .inl rfl
theorem laxor (w : LaneWord) : Statement (.laxor w) := .inl rfl
theorem laswap (w : LaneWord) : Statement (.laswap w) := .inl rfl
theorem lacas (w : LaneWord) : Statement (.lacas w) := .inl rfl
theorem lafadd (w : LaneWord) : Statement (.lafadd w) := .inl rfl
theorem shfl (w : LaneWord) : Statement (.shfl w) := .inl rfl
theorem shflu (w : LaneWord) : Statement (.shflu w) := .inl rfl
theorem shfld (w : LaneWord) : Statement (.shfld w) := .inl rfl
theorem shflx (w : LaneWord) : Statement (.shflx w) := .inl rfl
theorem ballot (w : LaneWord) : Statement (.ballot w) := .inl rfl
theorem vany (w : LaneWord) : Statement (.vany w) := .inl rfl
theorem vall (w : LaneWord) : Statement (.vall w) := .inl rfl
theorem scanadd (w : LaneWord) : Statement (.scanadd w) := .inl rfl
theorem scanmin (w : LaneWord) : Statement (.scanmin w) := .inl rfl
theorem scanmax (w : LaneWord) : Statement (.scanmax w) := .inl rfl
theorem redadd (w : LaneWord) : Statement (.redadd w) := .inl rfl
theorem redmin (w : LaneWord) : Statement (.redmin w) := .inl rfl
theorem redmax (w : LaneWord) : Statement (.redmax w) := .inl rfl
theorem topk (w : LaneWord) : Statement (.topk w) := .inl rfl
theorem clauseTake (g : Nat) : Statement (.clauseTake g) := .inl rfl
theorem laneOpComplete (g id : Nat) : Statement (.laneOpComplete g id) := .inl rfl
theorem scalarResultArrival (g id : Nat) : Statement (.scalarResultArrival g id) := .inl rfl
theorem lineFillComplete (slot line : Nat) : Statement (.lineFillComplete slot line) := .inl rfl
theorem fenceComplete (g : Nat) : Statement (.fenceComplete g) := .inl rfl
theorem roleSwitch (g : Nat) : Statement (.roleSwitch g) := .inl rfl
theorem pageRequestPost (die : Nat) : Statement (.pageRequestPost die) := .inl rfl
theorem pageRequestReply (die : Nat) (data : List Byte) : Statement (.pageRequestReply die data) := .inl rfl
theorem pageRequestTimeout (die req : Nat) : Statement (.pageRequestTimeout die req) := .inl rfl
theorem parkedReplay (g : Nat) : Statement (.parkedReplay g) := .inl rfl
theorem prqbaseWrite (die : Nat) (v : Word) : Statement (.prqbaseWrite die v) := .inl rfl
theorem prqheadWrite (die : Nat) (v : Word) : Statement (.prqheadWrite die v) := .inl rfl
theorem engineInstructionComplete (id : Nat) : Statement (.engineInstructionComplete id) := .inl rfl
theorem publishExchange (id : Nat) : Statement (.publishExchange id) := .inl rfl
theorem tlbinvComplete (id : Nat) : Statement (.tlbinvComplete id) := .inl rfl
theorem swapfExchange (id : Nat) : Statement (.swapfExchange id) := .inl rfl
theorem nredElement (id e : Nat) : Statement (.nredElement id e) := .inl rfl
theorem cacheRangeComplete (id : Nat) : Statement (.cacheRangeComplete id) := .inl rfl
theorem copy (id : Nat) : Statement (.copy id) := .inl rfl
theorem gather (id : Nat) : Statement (.gather id) := .inl rfl
theorem scatter (id : Nat) : Statement (.scatter id) := .inl rfl
theorem fill (id : Nat) : Statement (.fill id) := .inl rfl
theorem convert (id : Nat) : Statement (.convert id) := .inl rfl
theorem copyInvalidOpc (id : Nat) : Statement (.copyInvalidOpc id) := .inl rfl
theorem copyCommandComplete (id : Nat) : Statement (.copyCommandComplete id) := .inl rfl
theorem lwArrival (id k : Nat) : Statement (.lwArrival id k) := .inl rfl
theorem deckAdmission (cluster : Nat) : Statement (.deckAdmission cluster) := .inl rfl
theorem graceExpiry (core : Nat) : Statement (.graceExpiry core) := .inl rfl
theorem saveComplete (core : Nat) : Statement (.saveComplete core) := .inl rfl
theorem drainComplete (deck : Nat) : Statement (.drainComplete deck) := .inl rfl
theorem coreScrub (core : Nat) : Statement (.coreScrub core) := .inl rfl
theorem memoryPatrolScrub (sector : Nat) : Statement (.memoryPatrolScrub sector) := .inl rfl
theorem bankFlip (core : Nat) : Statement (.bankFlip core) := .inl rfl
theorem bankTransfer (core : Nat) : Statement (.bankTransfer core) := .inl rfl
theorem submitRecord (p offset : Nat) (data : List Byte) : Statement (.submitRecord p offset data) := .inl rfl
theorem registerContext (p : Nat) (v : Word) : Statement (.registerContext p v) := .inl rfl
theorem releaseContext (p : Nat) (v : Word) : Statement (.releaseContext p v) := .inl rfl
theorem submitstatRead (p : Nat) : Statement (.submitstatRead p) := .inl rfl
theorem hostCxlAccess (x : HostAccess) : Statement (.hostCxlAccess x) := .inl rfl
theorem barRegisterWrite (offset : Nat) (data : List Byte) : Statement (.barRegisterWrite offset data) := .inl rfl
theorem getStatus : Statement (.getStatus) := .inl rfl
theorem loadImage : Statement (.loadImage) := .inl rfl
theorem attest : Statement (.attest) := .inl rfl
theorem setPartitions : Statement (.setPartitions) := .inl rfl
theorem switchPartition : Statement (.switchPartition) := .inl rfl
theorem setLimits : Statement (.setLimits) := .inl rfl
theorem keyTransport : Statement (.keyTransport) := .inl rfl
theorem keyLoad : Statement (.keyLoad) := .inl rfl
theorem keyClear : Statement (.keyClear) := .inl rfl
theorem unitReturn : Statement (.unitReturn) := .inl rfl
theorem unitKeepOut : Statement (.unitKeepOut) := .inl rfl
theorem releaseStop : Statement (.releaseStop) := .inl rfl
theorem mailboxUnknownCommand : Statement (.mailboxUnknownCommand) := .inl rfl
theorem mailboxComplete : Statement (.mailboxComplete) := .inl rfl
theorem fabricConfigJoin : Statement (.fabricConfigJoin) := .inl rfl
theorem fabricConfigWindow : Statement (.fabricConfigWindow) := .inl rfl
theorem fabricConfigPause : Statement (.fabricConfigPause) := .inl rfl
theorem fabricConfigResume : Statement (.fabricConfigResume) := .inl rfl
theorem fabricConfigStats : Statement (.fabricConfigStats) := .inl rfl
theorem eventCounterSelectWrite (i : Nat) (v : Word) : Statement (.eventCounterSelectWrite i v) := .inl rfl
theorem eventCounterValueWrite (i : Nat) (v : Word) : Statement (.eventCounterValueWrite i v) := .inl rfl
theorem deviceReset : Statement (.deviceReset) := .inl rfl
theorem powerLoss : Statement (.powerLoss) := .inl rfl
theorem memoryTrainingDone (result : TrainResult) : Statement (.memoryTrainingDone result) := .inl rfl
theorem bootReady : Statement (.bootReady) := .inl rfl
theorem bootWatchdogExpiry : Statement (.bootWatchdogExpiry) := .inl rfl
theorem throttleStep : Statement (.throttleStep) := .inl rfl
theorem emergencyStop : Statement (.emergencyStop) := .inl rfl
theorem stackOverheat (stack : Nat) : Statement (.stackOverheat stack) := .inl rfl
theorem ptpMessage (port : Nat) (time : Word) (inBounds : Bool) : Statement (.ptpMessage port time inBounds) := .inl rfl
theorem fabricQueueStore (g : Nat) : Statement (.fabricQueueStore g) := .inl rfl
theorem fabricQueueCopy (g : Nat) : Statement (.fabricQueueCopy g) := .inl rfl
theorem fabricQueueReduce (g : Nat) : Statement (.fabricQueueReduce g) := .inl rfl
theorem fabricQueueBadKind (g : Nat) : Statement (.fabricQueueBadKind g) := .inl rfl
theorem fabricOperationLeft (id : Nat) : Statement (.fabricOperationLeft id) := .inl rfl
theorem fabricChunkArrival (port : Nat) (p : Packet) : Statement (.fabricChunkArrival port p) := .inl rfl
theorem reduceChunkArrival (port : Nat) (p : Packet) : Statement (.reduceChunkArrival port p) := .inl rfl
theorem remoteAtomicArrival (port : Nat) (p : Packet) : Statement (.remoteAtomicArrival port p) := .inl rfl
theorem fabricReplyArrival (port : Nat) (r : Reply) : Statement (.fabricReplyArrival port r) := .inl rfl
theorem atomicValueReply (port id : Nat) (v : Word) : Statement (.atomicValueReply port id v) := .inl rfl
theorem joinedMessage (port : Nat) (m : Joined) : Statement (.joinedMessage port m) := .inl rfl
theorem readyMessage (port crossing : Nat) : Statement (.readyMessage port crossing) := .inl rfl
theorem refusedMessage (port crossing : Nat) : Statement (.refusedMessage port crossing) := .inl rfl
theorem pauseMessage (port crossing stop : Nat) : Statement (.pauseMessage port crossing stop) := .inl rfl
theorem pauseDrained (crossing : Nat) : Statement (.pauseDrained crossing) := .inl rfl
theorem pausedMessage (port crossing source highest : Nat) : Statement (.pausedMessage port crossing source highest) := .inl rfl
theorem switchMessage (port crossing : Nat) : Statement (.switchMessage port crossing) := .inl rfl
theorem resumeMessage (port crossing : Nat) : Statement (.resumeMessage port crossing) := .inl rfl
theorem routingToken (g : Nat) : Statement (.routingToken g) := .inl rfl
theorem routingOpen (g : Nat) : Statement (.routingOpen g) := .inl rfl
theorem routingClose (g : Nat) : Statement (.routingClose g) := .inl rfl
theorem routingBadRecord (g : Nat) : Statement (.routingBadRecord g) := .inl rfl
theorem routingHeaderArrival (port : Nat) (h : RoutingHeader) : Statement (.routingHeaderArrival port h) := .inl rfl
theorem routingRound1Close (session : Nat) : Statement (.routingRound1Close session) := .inl rfl
theorem routingRound2Close (session : Nat) : Statement (.routingRound2Close session) := .inl rfl
theorem tapeAppend (session : Nat) : Statement (.tapeAppend session) := .inl rfl
theorem routingDecisionArrival (port : Nat) (d : RoutingDecision) : Statement (.routingDecisionArrival port d) := .inl rfl
theorem routingPayloadArrival (port : Nat) (p : RoutingPayload) : Statement (.routingPayloadArrival port p) := .inl rfl
theorem placementAcknowledgement (port id chunk source : Nat) : Statement (.placementAcknowledgement port id chunk source) := .inl rfl
theorem flitRetry (port : Nat) : Statement (.flitRetry port) := .inl rfl
theorem cxlLinkEnabled (ok : Bool) : Statement (.cxlLinkEnabled ok) := .inl rfl
theorem fabricPortTraining (port : Nat) (ok : Bool) : Statement (.fabricPortTraining port ok) := .inl rfl
theorem registrationComplete (p : Nat) : Statement (.registrationComplete p) := .inl rfl

end Sys2Proof.Laws.Stream
end

