-- ==== Sys2Proof/Laws/Translate.lean ====
section
/-! SUPPORT. What a TLB that walks have filled changes of a translation: nothing, where it held nothing stale before (R285). -/

namespace Sys2Proof.Machine

/-- The table that a walk reads at depth `d`, as memory stands. -/
def tableAt (s : State) (v : Word) (root : Nat) : Nat → Nat
  | 0 => root
  | d + 1 => wfld (BitVec.ofNat 64 (numberAt s (tableAt s v root d + 8 * levelIndex v (3 - d)) 8)) 12 40 * 2 ^ 12

/-- The entry that a walk reads at a level, as memory stands. -/
def entryNow (s : State) (v : Word) (root level : Nat) : Word :=
  BitVec.ofNat 64 (numberAt s (tableAt s v root (3 - level) + 8 * levelIndex v level) 8)

/-- Every cached entry of a context is what memory holds. -/
def FreshTlb (s : State) (ctx root : Nat) (T : List TlbEntry) : Prop :=
  ∀ x ∈ T, x.ctx = ctx → x.level ≤ 3 → ∀ v : Word, tlbTag v x.level = x.tag → x.entry = entryNow s v root x.level

theorem levelIndex_of_tag {v u : Word} {n k : Nat} (h : tlbTag v n = tlbTag u n) (hk : n ≤ k) (h3 : k ≤ 3) : levelIndex v k = levelIndex u k := by
  unfold tlbTag at h
  unfold levelIndex
  have hk' : k = 0 ∨ k = 1 ∨ k = 2 ∨ k = 3 := by omega
  have hn' : n = 0 ∨ n = 1 ∨ n = 2 ∨ n = 3 := by omega
  rcases hk' with rfl | rfl | rfl | rfl <;> rcases hn' with rfl | rfl | rfl | rfl <;>
    omega

theorem tableAt_of_tag {s : State} {v u : Word} {root n : Nat} (h : tlbTag v n = tlbTag u n) : ∀ d, d ≤ 3 - n → tableAt s v root d = tableAt s u root d
  | 0, _ => rfl
  | d + 1, hd => by
    simp only [tableAt]
    rw [tableAt_of_tag h d (by omega), levelIndex_of_tag h (k := 3 - d) (by omega) (by omega)]

theorem entryNow_of_tag {s : State} {v u : Word} {root n : Nat} (hn : n ≤ 3) (h : tlbTag v n = tlbTag u n) : entryNow s v root n = entryNow s u root n := by
  unfold entryNow
  rw [tableAt_of_tag h (3 - n) (Nat.le_refl _), levelIndex_of_tag h (Nat.le_refl _) hn]

theorem walkEntry_fresh {s : State} {ctx root : Nat} {T : List TlbEntry} (h : FreshTlb s ctx root T) {v : Word} {n : Nat} (hn : n ≤ 3) :
    walkEntry { s with tlb := T } ctx v n (tableAt s v root (3 - n)) = entryNow s v root n := by
  unfold walkEntry
  have e : (T.filter (fun t => t.ctx == ctx && t.level == n && t.tag == tlbTag v n && t.entry != entryNow s v root n)) = [] := by
    rw [List.filter_eq_nil_iff]
    intro x hx hc
    simp only [Bool.and_eq_true, beq_iff_eq, bne_iff_ne] at hc
    obtain ⟨⟨⟨h1, h2⟩, h3⟩, h4⟩ := hc
    subst h2
    exact h4 (h x hx h1 hn v h3.symm)
  change (match (T.filter (fun t => t.ctx == ctx && t.level == n && t.tag == tlbTag v n && t.entry != entryNow s v root n)).find? _ with
    | some t => t.entry | none => entryNow s v root n) = _
  rw [e]; rfl

/-- A walk with a TLB that holds nothing stale is the walk without one, and what it caches is not stale either. -/
theorem walk_fresh {s : State} {ctx root : Nat} {T : List TlbEntry} (h : FreshTlb s ctx root T) (v : Word) :
    ∀ n, n ≤ 4 → walk { s with tlb := T } ctx v n (tableAt s v root (4 - n)) = walk { s with tlb := [] } ctx v n (tableAt s v root (4 - n)) ∧
      ∀ k e l, walk { s with tlb := T } ctx v n (tableAt s v root (4 - n)) = .ok (k, e, l) → FreshTlb s ctx root l
  | 0, _ => ⟨rfl, fun _ _ _ h => by cases h⟩
  | n + 1, hn => by
    have hd : 4 - (n + 1) = 3 - n := by omega
    have h0 : FreshTlb s ctx root [] := fun x hx => (List.not_mem_nil hx).elim
    have ih := walk_fresh h v n (by omega)
    have next : tableAt s v root (4 - n) = wfld (entryNow s v root n) 12 40 * 2 ^ 12 := by
      have : 4 - n = (3 - n) + 1 := by omega
      rw [this]
      simp only [tableAt, entryNow]
      rw [show 3 - (3 - n) = n by omega]
    have fresh1 : FreshTlb s ctx root [{ ctx := ctx, place := tableAt s v root (3 - n) + 8 * levelIndex v n, level := n, tag := tlbTag v n, entry := entryNow s v root n }] := by
      intro x hx _ hl u hu
      rw [List.mem_singleton] at hx; subst hx
      exact entryNow_of_tag (by omega) hu.symm
    rw [hd]
    simp only [walk]
    rw [walkEntry_fresh h (by omega), walkEntry_fresh h0 (by omega), ← next]
    have pu : unitPoisoned { s with tlb := T } = unitPoisoned { s with tlb := [] } := rfl
    rw [pu, ih.1]
    refine ⟨rfl, fun k e l hw => ?_⟩
    have hc : ∀ l', FreshTlb s ctx root l' → FreshTlb s ctx root ({ ctx := ctx, place := tableAt s v root (3 - n) + 8 * levelIndex v n, level := n, tag := tlbTag v n, entry := entryNow s v root n } :: l') := by
      intro l' hl' x hx
      rcases List.mem_cons.mp hx with rfl | hx
      · exact fresh1 _ (List.mem_singleton.mpr rfl)
      · exact hl' x hx
    split at hw
    · exact nomatch hw
    · split at hw
      · split at hw <;> exact nomatch hw
      · split at hw
        · split at hw
          · simp only [Except.ok.injEq, Prod.mk.injEq] at hw
            rw [← hw.2.2]; exact fresh1
          · exact nomatch hw
        · split at hw
          · split at hw
            · next k' e' l' hq =>
              simp only [Except.ok.injEq, Prod.mk.injEq] at hw
              rw [← hw.2.2]; exact hc _ (ih.2 _ _ _ (ih.1.trans hq))
            · exact nomatch hw
          · exact nomatch hw

theorem remember_keeps (s : State) (T : List TlbEntry) (e : Env) (v : Word) (h : FreshTlb s e.ctx e.root T) :
    ∃ U, remember { s with tlb := T } e v = { s with tlb := U } ∧ FreshTlb s e.ctx e.root U := by
  unfold remember
  split
  · exact ⟨T, rfl, h⟩
  · split
    · exact ⟨T, rfl, h⟩
    · next k leaf l hw =>
      refine ⟨_, rfl, ?_⟩
      have hl := (walk_fresh h v 4 (Nat.le_refl _)).2 k leaf l hw
      intro x hx
      rcases List.mem_append.mp hx with hx | hx
      · exact hl x (List.mem_of_mem_filter hx)
      · exact h x hx

theorem fresh_refilled {s : State} {e : Env} {T : List TlbEntry} (h : Refilled s e T) (h0 : FreshTlb s e.ctx e.root s.tlb) : FreshTlb s e.ctx e.root T := by
  obtain ⟨l, rfl⟩ := h
  have : ∀ (l : List Word) (U : List TlbEntry), FreshTlb s e.ctx e.root U →
      FreshTlb s e.ctx e.root (l.foldl (fun u v => remember u e v) { s with tlb := U }).tlb := by
    intro l
    induction l with
    | nil => exact fun U hU => hU
    | cons v r ih =>
      intro U hU
      obtain ⟨W, hW, hF⟩ := remember_keeps s U e v hU
      rw [List.foldl_cons, hW]
      exact ih W hF
  exact this l s.tlb h0

theorem translate_fresh {s : State} {e : Env} {T : List TlbEntry} (h : FreshTlb s e.ctx e.root T) (v : Word) (w : Want) (g : Bool) :
    translate { s with tlb := T } e v w g = translate { s with tlb := [] } e v w g := by
  unfold translate
  rw [show e.root = tableAt s v e.root (4 - 4) from rfl, (walk_fresh h v 4 (Nat.le_refl _)).1]

theorem spotsFrom_fresh {s : State} {e : Env} {T : List TlbEntry} (h : FreshTlb s e.ctx e.root T) (w : Want) (g : Bool) :
    ∀ n v memo, spotsFrom { s with tlb := T } e w g n v memo = spotsFrom { s with tlb := [] } e w g n v memo := by
  intro n
  induction n with
  | zero => intros; rfl
  | succ n ih =>
    intro v memo
    simp only [spotsFrom, translate_fresh h, ih]
    have hp : placeOf { s with tlb := T } = placeOf { s with tlb := [] } := rfl
    rw [hp]

/-- The spots of an access do not depend on what walks have cached, where nothing was cached before. -/
theorem spots_refilled {s : State} {e : Env} {T : List TlbEntry} (h : Refilled s e T) (h0 : s.tlb = []) (v : Word) (n : Nat) (w : Want) (g : Bool) :
    spots { s with tlb := T } e v n w g = spots s e v n w g := by
  have hf : FreshTlb s e.ctx e.root s.tlb := by rw [h0]; exact fun x hx => (List.not_mem_nil hx).elim
  have hs : s = { s with tlb := [] } := by cases s; cases h0; rfl
  unfold spots
  rw [spotsFrom_fresh (fresh_refilled h hf)]
  rw [← hs]

theorem translate_refilled {s : State} {e : Env} {T : List TlbEntry} (h : Refilled s e T) (h0 : s.tlb = []) (v : Word) (w : Want) (g : Bool) :
    translate { s with tlb := T } e v w g = translate s e v w g := by
  have hf : FreshTlb s e.ctx e.root s.tlb := by rw [h0]; exact fun x hx => (List.not_mem_nil hx).elim
  have hs : s = { s with tlb := [] } := by cases s; cases h0; rfl
  rw [translate_fresh (fresh_refilled h hf)]
  rw [← hs]

end Sys2Proof.Machine
end

