-- ==== Sys2Proof/Tests/Slice0.lean ====
section
/-! SUPPORT. Tests: ill-formed terms that the well-formedness check refuses, words written out from the encoding tables, effects worked out from the
rules by hand, and for every statement with hypotheses a state and operands that meet them. -/

namespace Sys2Proof.Tests

open Sys2Proof Sys2Proof.Machine

set_option maxRecDepth 100000
set_option Elab.async false

/-! ### A small machine: one crew of one fibre on core 0, as loadProgram loads it -/

/-- The loaded package. -/
def base : State := loadProgram State.reset false 4 0

/-- The loaded package with another fibre. -/
def withFibre (f : Fibre) : State := { base with fibres := [(0, f)] }

theorem base_crew : lookup base.crews 0 = some loadCrew := by decide +kernel

theorem base_context : (lookup base.contexts 1).isSome = true := by decide +kernel

theorem withFibre_runs (f : Fibre) : Runs (withFibre f) f loadCrew := by
  have h : bankOfFibre (withFibre f).cur = 0 := by
    have : (withFibre f).cur = 0 := rfl
    rw [this]; rfl
  exact ⟨rfl, by rw [h]; exact base_crew, base_context⟩

theorem base_runs : Runs base loadFibre loadCrew := ⟨by decide +kernel, base_crew, base_context⟩

/-- Nothing is broken where no table holds an error. -/
theorem clean_of (s : State) (h1 : s.memLatent = []) (h2 : s.poison = []) (h3 : ∀ b ∈ s.banks, b.2.latent = [] ∧ b.2.poison = []) (p : Nat) : Clean s p := by
  have h : ∀ k, (bankOf s k).latent = [] ∧ (bankOf s k).poison = [] := by
    intro k
    unfold bankOf lookupD
    generalize s.banks = l at h3
    induction l with
    | nil => exact ⟨rfl, rfl⟩
    | cons b r ih =>
      simp only [lookup]
      split
      · exact h3 b (List.mem_cons_self ..)
      · exact ih (fun x hx => h3 x (List.mem_cons_of_mem _ hx))
  refine ⟨?_, ?_⟩
  · unfold unitPoisoned
    split
    · simp [(h _).2]
    · simp [h2]
  · split
    · rw [(h _).1]; rfl
    · rw [h1]; rfl

/-- A machine with no broken unit. -/
def unbroken (s : State) : Bool := s.memLatent.isEmpty && s.poison.isEmpty && s.banks.all (fun b => b.2.latent.isEmpty && b.2.poison.isEmpty)

theorem clean_unbroken {s : State} (h : unbroken s = true) (p : Nat) : Clean s p := by
  simp only [unbroken, Bool.and_eq_true, List.isEmpty_iff, List.all_eq_true] at h
  exact clean_of s h.1.1 h.1.2 h.2 p

theorem sound_of {s : State} {l : List Spot} {bytes : List Byte} (h : unbroken s = true)
    (hl : l.map (fun x => x.place.bind (fun p => viewByte s p x.page.key)) = bytes.map some) : Sound s l bytes :=
  ⟨hl, fun _ _ _ _ => clean_unbroken h _⟩

/-- What `Seen` asks of spots outside the tiles and the accumulators. -/
def seenSpots (s : State) (l : List Spot) (bytes : List Byte) : Bool :=
  l.all (fun x => match x.place with | some p => !inTileFile p | none => true) &&
    decide (l.map (fun x => x.place.bind (fun p => seenByte s p x.page.key)) = bytes.map some)

theorem seen_of {s : State} {l : List Spot} {bytes : List Byte} (h : unbroken s = true) (hl : seenSpots s l bytes = true) : Seen s l bytes := by
  simp only [seenSpots, Bool.and_eq_true, List.all_eq_true, decide_eq_true_eq] at hl
  refine Seen.of_now (fun x hx p hp => ⟨?_, clean_unbroken h p⟩) hl.2
  have := hl.1 x hx
  rw [hp] at this
  simpa using this

/-- Walks meet no error where there is none. -/
theorem walked_unbroken {s : State} (h : unbroken s = true) (e : Env) (v : Word) (n : Nat) : walkedRange s e v n = s := by
  simp only [unbroken, Bool.and_eq_true] at h
  unfold walkedRange walkedRanges
  simp [h.1.1, h.1.2]

/-- The walks of ranges meet no error where there is none. -/
theorem walkedAll_unbroken {s : State} (h : unbroken s = true) (e : Env) (l : List Word) (n : Nat) : walkedRanges s e l n = s := by
  simp only [unbroken, Bool.and_eq_true] at h
  unfold walkedRanges
  simp [h.1.1, h.1.2]

theorem walks_unbroken {s : State} (h : unbroken s = true) (e : Env) (v : Word) (n : Nat) : Walks s e v n := by
  simp only [unbroken, Bool.and_eq_true] at h
  intro u hu
  have h1 : u.memLatent = s.memLatent := by have := congrArg State.memLatent hu.1; exact this
  have h2 : u.poison = s.poison := by have := congrArg State.poison hu.1; exact this
  unfold walkedRange walkedRanges
  simp [h1, h2, h.1.1, h.1.2]

/-- What `Storable` asks of spots. -/
def storableSpots (l : List Spot) (key : Option Nat) : Bool :=
  !l.isEmpty && l.all (fun x => x.page.key == key && x.page.collective.isNone && x.place.isSome) && decide (l.map (·.place)).Nodup

theorem storable_of {s : State} {l : List Spot} {key : Option Nat} (h : unbroken s = true) (hl : storableSpots l key = true) : Storable s l key := by
  simp only [storableSpots, Bool.and_eq_true, Bool.not_eq_true', decide_eq_true_eq, List.all_eq_true, beq_iff_eq, Option.isNone_iff_eq_none,
    Option.isSome_iff_exists] at hl
  refine ⟨by intro e; subst e; simp at hl, fun x hx => ?_, hl.2⟩
  obtain ⟨⟨hk, hc⟩, p, hp⟩ := hl.1.2 x hx
  exact ⟨hk, hc, p, hp, clean_unbroken h p⟩

/-- The spots of an access that translates. -/
def gotten (r : Except (Word × Fail) (List Spot)) : List Spot :=
  match r with
  | .ok l => l
  | .error _ => []

theorem gotten_ok {r : Except (Word × Fail) (List Spot)} (h : r.isOk = true) : r = .ok (gotten r) := by
  cases r with
  | ok l => rfl
  | error x => cases h

/-- The environment of the loaded crew. -/
def baseEnv : Env := envWith base 1 loadContext loadContext.admitted 0#64 0#64 0#64 false

/-- The spots of an access of the loaded crew. -/
def baseSpots (v : Word) (n : Nat) (w : Want) : List Spot := gotten (spots base baseEnv v n w false)

/-- The spots of a local access of the loaded crew. -/
def baseLocal (a n : Nat) : List Spot := (localSpots base 0 a n).getD []

theorem base_unbroken : unbroken base = true := by decide +kernel

theorem base_env : envOf base loadCrew = some baseEnv := by decide +kernel

/-- What `Reaches` asks. -/
def reachB (s : State) (f : Fibre) (w : Crew) (a : Word) (n : Nat) (d : Deed) (l : List Spot) : Bool :=
  match envOf s w with
  | none => false
  | some e => unbroken s && decide (spots s e a n d.want false = .ok l) && (accessDelay s s.cur f false d 1 [.ok l]).isNone && f.fence.isNone && f.sReplay.isNone

theorem reaches_of {s : State} {f : Fibre} {w : Crew} {a : Word} {n : Nat} {d : Deed} {l : List Spot} (h : reachB s f w a n d l = true) : Reaches s f w a n d l := by
  unfold reachB at h
  split at h
  · cases h
  · next e he =>
    simp only [Bool.and_eq_true, decide_eq_true_eq, Option.isNone_iff_eq_none] at h
    exact ⟨⟨e, he, h.1.1.1.2, walked_unbroken h.1.1.1.1 ..⟩, h.1.2, h.2, h.1.1.2⟩

/-- What `ReachesLocal` asks. -/
def reachLocalB (s : State) (f : Fibre) (a n : Nat) (d : Deed) (l : List Spot) : Bool :=
  decide (localSpots s (bankOfFibre s.cur) a n = some l) && (accessDelay s s.cur f false d 1 [.ok l]).isNone && f.fence.isNone && f.sReplay.isNone

theorem reachesLocal_of {s : State} {f : Fibre} {a n : Nat} {d : Deed} {l : List Spot} (h : reachLocalB s f a n d l = true) : ReachesLocal s f a n d l := by
  simp only [reachLocalB, Bool.and_eq_true, decide_eq_true_eq, Option.isNone_iff_eq_none] at h
  exact ⟨h.1.1.1, h.1.2, h.2, h.1.1.2⟩

/-- A crew and a fibre in place of the loaded ones. -/
def withCrew (w : Crew) (f : Fibre) : State := { base with crews := [(0, w)], fibres := [(0, f)] }

theorem withCrew_runs (w : Crew) (f : Fibre) (h : w.ctx = 1) : Runs (withCrew w f) f w := by
  have e : bankOfFibre (withCrew w f).cur = 0 := by
    have : (withCrew w f).cur = 0 := rfl
    rw [this]; rfl
  refine ⟨rfl, by rw [e]; rfl, ?_⟩
  rw [h]; exact base_context

/-- The loaded memory with tables below 0x2000[1] too: level 0 leaves at 2^37 (shadowed), and at the next two pages. -/
def wideMem : Tab Byte :=
  [(0x1000, 0x01#8), (0x1001, 0x20#8), (0x2000, 0x1F#8), (0x2002, 0x04#8), (0x2008, 0x01#8), (0x2009, 0x30#8), (0x3000, 0x01#8), (0x3001, 0x40#8),
    (0x4000, 0x9F#8), (0x4002, 0x40#8), (0x4008, 0x1F#8), (0x400A, 0x50#8), (0x4010, 0x1F#8), (0x4012, 0x60#8)]

/-- The loaded package with those tables. -/
def wide (f : Fibre) : State := { base with mem := wideMem, fibres := [(0, f)] }

theorem wide_runs (f : Fibre) : Runs (wide f) f loadCrew := by
  have h : bankOfFibre (wide f).cur = 0 := by
    have : (wide f).cur = 0 := rfl
    rw [this]; rfl
  exact ⟨rfl, by rw [h]; exact base_crew, base_context⟩

/-- The environment of the loaded crew there. -/
def wideEnv : Env := baseEnv

/-- The spots of an access of an engine there. -/
def wideSpots (f : Fibre) (v : Word) (n : Nat) (w : Want) : List Spot := gotten (spots (wide f) wideEnv v n w true)

theorem test_flags : ∀ k : Fin 12, (loadFibre.flags[k]).toNat < 15 := by decide

theorem free_load (flag : BitVec 4) (f : Fibre) (h1 : f.fence = none) (h2 : f.flags = loadFibre.flags) : Free f flag :=
  ⟨h1, fun k _ => by rw [h2]; exact test_flags k⟩

theorem test_ready : ∀ r : BitVec 6, loadFibre.outstanding r = false := by decide

/-- A fibre whose s5 holds an address and s6 a value. -/
def fibreData (v d : Word) : Fibre := { loadFibre with sregs := (loadFibre.sregs.set 5 v).set 6 d }

theorem test_ready_data (v d : Word) (r : BitVec 6) : (fibreData v d).outstanding r = false := test_ready r

/-- A fibre whose flag 11 counts one operation. -/
def fibreFlag : Fibre := { loadFibre with flags := loadFibre.flags.set 11 1#4 }

/-- A crew of a context without privilege. -/
def plainCrew : Crew := { loadCrew with own := { loadCrew.own with priv := false } }

def plainState (f : Fibre) : State := withCrew plainCrew f

theorem plain_runs (f : Fibre) : Runs (plainState f) f plainCrew := withCrew_runs _ f rfl

/-! ### Hypotheses that can be met: the scalar stream -/

theorem witness_ScalarArithmetic : Runs base loadFibre loadCrew ∧ Ready loadFibre [0#6, 63#6] := ⟨base_runs, by unfold Ready; decide⟩

theorem witness_ScalarLogic : Runs base loadFibre loadCrew ∧ Ready loadFibre [0#6, 63#6, 1#6] := ⟨base_runs, fun r _ => test_ready r⟩

theorem witness_ScalarImmediate : Runs base loadFibre loadCrew ∧ Ready loadFibre [63#6] := ⟨base_runs, fun r _ => test_ready r⟩

/-- A fibre with a clause in its queue, three more behind it. -/
def clauseOne : Clause := { header := 0#64, serial := 0, snapshot := Vector.replicate 64 0#64, awaiting := [] }
def fibreClauses (n : Nat) : Fibre := { loadFibre with clauses := List.replicate n clauseOne }
def fibreAt (v : Word) : Fibre := { loadFibre with sregs := loadFibre.sregs.set 5 v }

theorem witness_ScalarBranches :
    (Runs base loadFibre loadCrew ∧ Ready loadFibre [31#6] ∧ loadFibre.clauses = []) ∧
    (Runs (withFibre (fibreClauses 1)) (fibreClauses 1) loadCrew ∧ (fibreClauses 1).clauses ≠ [] ∧ (fibreClauses 1).handler = none) ∧
    (Runs (withFibre (fibreAt 4#64)) (fibreAt 4#64) loadCrew ∧ Ready (fibreAt 4#64) [5#6] ∧ ((fibreAt 4#64).readS 5#6).toNat % 4 = 0) ∧
    (Runs (withFibre (fibreAt 3#64)) (fibreAt 3#64) loadCrew ∧ Ready (fibreAt 3#64) [5#6] ∧ ((fibreAt 3#64).readS 5#6).toNat % 4 ≠ 0) :=
  ⟨⟨base_runs, fun r _ => test_ready r, rfl⟩, ⟨withFibre_runs _, by decide, rfl⟩, ⟨withFibre_runs _, fun r _ => test_ready r, by decide⟩,
    ⟨withFibre_runs _, fun r _ => test_ready r, by decide⟩⟩

theorem witness_ClauseIssue :
    (Runs (withFibre (fibreClauses 3)) (fibreClauses 3) loadCrew ∧ (fibreClauses 3).handler = none ∧ (fibreClauses 3).clauses.length < 4) ∧
    (Runs (withFibre (fibreClauses 4)) (fibreClauses 4) loadCrew ∧ (fibreClauses 4).handler = none ∧ 4 ≤ (fibreClauses 4).clauses.length) ∧
    (Runs (withFibre fibreFlag) fibreFlag loadCrew ∧ ∀ k : Fin 12, (0x7FF#12).getLsbD k = true → fibreFlag.flags[k] = 0#4) ∧
    (Runs (withFibre fibreFlag) fibreFlag loadCrew ∧ ∃ k : Fin 12, (0x800#12).getLsbD k = true ∧ fibreFlag.flags[k] ≠ 0#4) :=
  ⟨⟨withFibre_runs _, rfl, by decide⟩, ⟨withFibre_runs _, rfl, by decide⟩, ⟨withFibre_runs _, by decide⟩, ⟨withFibre_runs _, by decide⟩⟩

theorem witness_PredicateMoves :
    (Runs base loadFibre loadCrew ∧ Ready loadFibre [63#6] ∧ loadFibre.clauses = []) ∧
    (Runs (withFibre (fibreClauses 1)) (fibreClauses 1) loadCrew ∧ Ready (fibreClauses 1) [63#6] ∧ (fibreClauses 1).clauses ≠ [] ∧ (fibreClauses 1).handler = none) :=
  ⟨⟨base_runs, fun r _ => test_ready r, rfl⟩, ⟨withFibre_runs _, fun r _ => test_ready r, by decide, rfl⟩⟩

/-- Eight bytes across a page boundary, the last eight of the scratchpad, and the last eight of a page. -/
theorem witness_ScalarLoads :
    (Runs (withFibre (fibreData 0x7FFFC#64 0#64)) (fibreData 0x7FFFC#64 0#64) loadCrew ∧ Ready (fibreData 0x7FFFC#64 0#64) [5#6] ∧
      Reaches (withFibre (fibreData 0x7FFFC#64 0#64)) (fibreData 0x7FFFC#64 0#64) loadCrew ((fibreData 0x7FFFC#64 0#64).readS 5#6 + BitVec.ofInt 64 ((0#10).toInt * 8)) 8 .load
        (baseSpots 0x7FFFC#64 8 .read) ∧ Seen (withFibre (fibreData 0x7FFFC#64 0#64)) (baseSpots 0x7FFFC#64 8 .read) (List.replicate 8 0#8)) ∧
    (0xBFFF8 = ((fibreData 0xC0000#64 0#64).readS 5#6 + BitVec.ofInt 64 ((0x3FF#10).toInt * 8)).toNat % 2 ^ 24 ∧
      ReachesLocal (withFibre (fibreData 0xC0000#64 0#64)) (fibreData 0xC0000#64 0#64) 0xBFFF8 8 .load (baseLocal 0xBFFF8 8) ∧
      Seen (withFibre (fibreData 0xC0000#64 0#64)) (baseLocal 0xBFFF8 8) (List.replicate 8 0#8)) ∧
    ((fibreData 0x7FFF8#64 0#64).readS 5#6).toNat % 8 = 0 ∧
      Reaches (withFibre (fibreData 0x7FFF8#64 0#64)) (fibreData 0x7FFF8#64 0#64) loadCrew ((fibreData 0x7FFF8#64 0#64).readS 5#6 + BitVec.ofInt 64 ((0#10).toInt * 8)) 8 .load
        (baseSpots 0x7FFF8#64 8 .read) ∧ Seen (withFibre (fibreData 0x7FFF8#64 0#64)) (baseSpots 0x7FFF8#64 8 .read) (List.replicate 8 0#8) :=
  ⟨⟨withFibre_runs _, fun r _ => test_ready_data _ _ r, reaches_of (by decide +kernel), seen_of base_unbroken (by decide +kernel)⟩,
    ⟨by decide, reachesLocal_of (by decide +kernel), seen_of base_unbroken (by decide +kernel)⟩, by decide,
    reaches_of (by decide +kernel), seen_of base_unbroken (by decide +kernel)⟩

theorem witness_ScalarStores :
    (Runs (withFibre (fibreData 0x7FFFC#64 5#64)) (fibreData 0x7FFFC#64 5#64) loadCrew ∧ Ready (fibreData 0x7FFFC#64 5#64) [6#6, 5#6] ∧
      Reaches (withFibre (fibreData 0x7FFFC#64 5#64)) (fibreData 0x7FFFC#64 5#64) loadCrew ((fibreData 0x7FFFC#64 5#64).readS 5#6 + BitVec.ofInt 64 ((0#10).toInt * 8)) 8
        (.store ((fibreData 0x7FFFC#64 5#64).readS 6#6).toNat) (baseSpots 0x7FFFC#64 8 .write) ∧ Storable (withFibre (fibreData 0x7FFFC#64 5#64)) (baseSpots 0x7FFFC#64 8 .write) none) ∧
    (0xBFFF8 = ((fibreData 0xC0000#64 5#64).readS 5#6 + BitVec.ofInt 64 ((0x3FF#10).toInt * 8)).toNat % 2 ^ 24 ∧
      ReachesLocal (withFibre (fibreData 0xC0000#64 5#64)) (fibreData 0xC0000#64 5#64) 0xBFFF8 8 (.store ((fibreData 0xC0000#64 5#64).readS 6#6).toNat) (baseLocal 0xBFFF8 8) ∧
      Storable (withFibre (fibreData 0xC0000#64 5#64)) (baseLocal 0xBFFF8 8) none) ∧
    Quiet (withFibre (fibreData 0x7FFF8#64 5#64)) (fibreData 0x7FFF8#64 5#64) 7 true true ∧ ((fibreData 0x7FFF8#64 5#64).readS 5#6).toNat % 8 = 0 ∧
      Reaches (withFibre (fibreData 0x7FFF8#64 5#64)) (fibreData 0x7FFF8#64 5#64) loadCrew ((fibreData 0x7FFF8#64 5#64).readS 5#6 + BitVec.ofInt 64 ((0#10).toInt * 8)) 8
        (.store ((fibreData 0x7FFF8#64 5#64).readS 6#6).toNat) (baseSpots 0x7FFF8#64 8 .write) ∧ Storable (withFibre (fibreData 0x7FFF8#64 5#64)) (baseSpots 0x7FFF8#64 8 .write) none :=
  ⟨⟨withFibre_runs _, fun r _ => test_ready_data _ _ r, reaches_of (by decide +kernel), storable_of base_unbroken (by decide +kernel)⟩,
    ⟨by decide, reachesLocal_of (by decide +kernel), storable_of base_unbroken (by decide +kernel)⟩,
    ⟨rfl, rfl, rfl, fun _ => by decide +kernel, fun _ => by decide +kernel⟩, by decide, reaches_of (by decide +kernel), storable_of base_unbroken (by decide +kernel)⟩

theorem witness_ScalarAtomics :
    (Runs (withFibre (fibreData 0x7FFF8#64 5#64)) (fibreData 0x7FFF8#64 5#64) loadCrew ∧ Ready (fibreData 0x7FFF8#64 5#64) [5#6, 6#6, 5#6] ∧
      Reaches (withFibre (fibreData 0x7FFF8#64 5#64)) (fibreData 0x7FFF8#64 5#64) loadCrew ((fibreData 0x7FFF8#64 5#64).readS 5#6) 8 (.update fun m => some m) (baseSpots 0x7FFF8#64 8 .write) ∧
      Seen (withFibre (fibreData 0x7FFF8#64 5#64)) (baseSpots 0x7FFF8#64 8 .write) (List.replicate 8 0#8) ∧
      Storable (withFibre (fibreData 0x7FFF8#64 5#64)) (baseSpots 0x7FFF8#64 8 .write) none ∧ ((fibreData 0x7FFF8#64 5#64).readS 5#6).toNat % 8 = 0) ∧
    0xBFFFC = ((fibreData 0xFF000000000BFFFC#64 5#64).readS 5#6).toNat % 2 ^ 24 ∧
      ReachesLocal (withFibre (fibreData 0xFF000000000BFFFC#64 5#64)) (fibreData 0xFF000000000BFFFC#64 5#64) 0xBFFFC 4 (.update fun m => some m) (baseLocal 0xBFFFC 4) ∧
      Seen (withFibre (fibreData 0xFF000000000BFFFC#64 5#64)) (baseLocal 0xBFFFC 4) (List.replicate 4 0#8) ∧
      Storable (withFibre (fibreData 0xFF000000000BFFFC#64 5#64)) (baseLocal 0xBFFFC 4) none ∧ 0xBFFFC % 4 = 0 :=
  ⟨⟨withFibre_runs _, fun r _ => test_ready_data _ _ r, reaches_of (by decide +kernel), seen_of base_unbroken (by decide +kernel), storable_of base_unbroken (by decide +kernel),
      by decide⟩, by decide, reachesLocal_of (by decide +kernel), seen_of base_unbroken (by decide +kernel), storable_of base_unbroken (by decide +kernel), by decide⟩

/-- A fibre with a FENCE pending. -/
def fibreFence (d : Word) : Fibre :=
  { fibreData 0#64 d with
    fence := some { scope := 6, engines := false, remote := false, limit := 64
                    checkpoint := { sregs := loadFibre.sregs, preds := loadFibre.preds, em := 0#32, aflags := 0#64, gens := loadFibre.gens, spc := 0#64, clauses := []
                                    running := none, flags := loadFibre.flags, spend := [], lpend := [] }
                    reads := [], stores := [], shadows := [], heldTrap := none, issued := 0, rolledBack := false } }

theorem witness_FenceIssue :
    (Runs base loadFibre loadCrew ∧ loadFibre.fence = none) ∧ Quiet base loadFibre 7 true true ∧
    (Runs (withFibre (fibreClauses 1)) (fibreClauses 1) loadCrew ∧ (fibreClauses 1).fence = none ∧ (fibreClauses 1).handler = none ∧ (fibreClauses 1).clauses ≠ []) ∧
    Runs (withFibre (fibreFence 0#64)) (fibreFence 0#64) loadCrew ∧ (fibreFence 0#64).fence ≠ none :=
  ⟨⟨base_runs, rfl⟩, ⟨rfl, rfl, rfl, fun _ => by decide +kernel, fun _ => by decide +kernel⟩, ⟨withFibre_runs _, rfl, rfl, by decide⟩, withFibre_runs _, by decide⟩

/-- A legal descriptor, one that is too tall, one with a reserved bit, a legal format block, one of the format that no code names, and one with
bit 0 set. -/
theorem witness_SharedRegisters :
    (Runs (withFibre (fibreData 1#64 0#64)) (fibreData 1#64 0#64) loadCrew ∧ Ready (fibreData 1#64 0#64) [5#6] ∧ (fibreData 1#64 0#64).fence = none) ∧
    (∃ v : Word, tdOk v = true ∧ v.toNat < 2 ^ 20) ∧ (∃ v : Word, tdOk v = false) ∧ (∃ v : Word, 2 ^ 20 ≤ v.toNat) ∧
    (∃ v : Word, fbOk v = true ∧ v.toNat % 2 = 0) ∧ (∃ v : Word, fbOk v = false) ∧ ∃ v : Word, v.toNat % 2 = 1 :=
  ⟨⟨withFibre_runs _, fun r _ => test_ready_data _ _ r, rfl⟩, ⟨0x101#64, by decide, by decide⟩, ⟨0xFFFFFFFFFFFFFFFF#64, by decide⟩, ⟨0x100101#64, by decide⟩,
    ⟨0#64, by decide, by decide⟩, ⟨0xFFFFFFFFFFFFFFFF#64, by decide⟩, ⟨1#64, by decide⟩⟩

/-! ### Hypotheses that can be met: engines -/

/-- Descriptors of 16 by 16 elements of 32 and of 4 bits and of 64 by 16 of 4 bits; format blocks of FP32, and of sparse E2M1. -/
def matrixCrew : Crew :=
  { loadCrew with
    td := ((loadCrew.td.set 0 0x40101#64).set 1 0x00101#64).set 2 0x00401#64
    fb := loadCrew.fb.set 1 0x0038_0000_0000_0000#64 |>.set 1 (BitVec.ofNat 64 (7 * 2 ^ 47 + 7 * 2 ^ 51)) }

/-- Addresses and counts at their limits: s5 a local address, s6 a count, s7 M and N. -/
def matrixFibre : Fibre := { loadFibre with sregs := ((loadFibre.sregs.set 5 0xFF00000000000000#64).set 6 8192#64).set 7 0x0200_0010#64 }

def matrixState : State := withCrew matrixCrew matrixFibre

theorem test_localRange (s : State) (a n : Nat) (h : (localPlaces s (bankOfFibre s.cur) a n).isSome = true) : LocalRange s a n := h

theorem witness_MatrixIssue :
    (Runs matrixState matrixFibre matrixCrew ∧ Free matrixFibre 11#4 ∧ matrixFull matrixState (bankOfFibre matrixState.cur) = false ∧ Ready matrixFibre [5#6, 6#6]) ∧
    (LocalRange matrixState 0 (4 * 8192) ∧ 0 = (matrixFibre.readS 5#6).toNat % 2 ^ 24 ∧ 8192 = (matrixFibre.readS 6#6).toNat) ∧
    ((∀ x ∈ convertDests matrixCrew.fb[0] 0 (512 * 16), LocalRange matrixState x.1 x.2) ∧ (matrixFibre.readS 7#6).toNat = 512 * 2 ^ 16 + 16 ∧ 512 * 16 ≤ 8192 ∧
      cvtBlockOk matrixCrew.fb[0] = true ∧ 16 % (if fbSCA matrixCrew.fb[0] then fbBLA matrixCrew.fb[0] else 16) = 0) ∧
    (LocalRange matrixState (fbSADA matrixCrew.fb[0]) (if fbSCA matrixCrew.fb[0] then 2 * (16 * (16 / fbBLA matrixCrew.fb[0])) else 0) ∧
      LocalRange matrixState (fbSADB matrixCrew.fb[0]) (if fbSCB matrixCrew.fb[0] then 2 * (16 / fbBLB matrixCrew.fb[0] * 16) else 0) ∧
      fbOk matrixCrew.fb[0] = true ∧ fbAccepted matrixCrew.fb[0] = true ∧ tdOk matrixCrew.td[0] = true ∧ tdRows matrixCrew.td[0] * tdCols matrixCrew.td[0] ≤ 8192 ∧
      ewWidth matrixCrew.td[0] = packedWidth (fbFA matrixCrew.fb[0]) (fbI4A matrixCrew.fb[0]) ∧
      ewWidth matrixCrew.td[0] = packedWidth (fbFB matrixCrew.fb[0]) (fbI4B matrixCrew.fb[0]) ∧ tdCols matrixCrew.td[0] = 16 ∧ tdRows matrixCrew.td[0] = 16 ∧
      wfld matrixCrew.fb[0] 57 1 = 0 ∧ wfld matrixCrew.fb[0] 58 1 = 0) ∧
    LocalRange matrixState (fbSADA matrixCrew.fb[1]) (if fbSCA matrixCrew.fb[1] then 2 * (16 * (64 / fbBLA matrixCrew.fb[1])) else 0) ∧
      LocalRange matrixState (fbSADB matrixCrew.fb[1]) (if fbSCB matrixCrew.fb[1] then 2 * (64 / fbBLB matrixCrew.fb[1] * 16) else 0) ∧
      fbOk matrixCrew.fb[1] = true ∧ fbAccepted matrixCrew.fb[1] = true ∧ tdOk matrixCrew.td[1] = true ∧ tdOk matrixCrew.td[2] = true ∧
      tdRows matrixCrew.td[1] * tdCols matrixCrew.td[2] ≤ 8192 ∧ ewWidth matrixCrew.td[1] = packedWidth (fbFA matrixCrew.fb[1]) (fbI4A matrixCrew.fb[1]) ∧
      ewWidth matrixCrew.td[2] = packedWidth (fbFB matrixCrew.fb[1]) (fbI4B matrixCrew.fb[1]) ∧ fbSparse matrixCrew.fb[1] = true ∧
      64 = tdCols matrixCrew.td[1] * 8 / 2 ∧ tdRows matrixCrew.td[2] = 64 ∧ wfld matrixCrew.fb[1] 57 1 = 0 ∧ wfld matrixCrew.fb[1] 58 1 = 0 ∧
      tdRows matrixCrew.td[1] * 64 / 8 * 2 ≤ 16384 := by
  refine ⟨⟨withCrew_runs _ _ rfl, free_load _ _ rfl rfl, ?_, fun r _ => test_ready r⟩, ⟨test_localRange _ _ _ ?_, ?_⟩, ⟨?_, ?_⟩,
    ⟨test_localRange _ _ _ ?_, test_localRange _ _ _ ?_, ?_⟩, test_localRange _ _ _ ?_, test_localRange _ _ _ ?_, ?_⟩ <;>
    (try unfold LocalRange) <;> decide +kernel

/-- Rows of 8 bytes across the end of a page, and a shadowed page of 512 KiB. -/
def tileFibre (v n : Word) : Fibre := fibreData v n

def tileState (v n : Word) : State := { wide (tileFibre v n) with crews := [(0, matrixCrew)] }

theorem tileState_runs (v n : Word) : Runs (tileState v n) (tileFibre v n) matrixCrew := by
  have h : bankOfFibre (tileState v n).cur = 0 := by
    have : (tileState v n).cur = 0 := rfl
    rw [this]; rfl
  exact ⟨rfl, by rw [h]; rfl, base_context⟩

theorem test_publishPages : publishPages 0x2000000000#64 0x80000#64 = [0x2000000000#64] := by decide +kernel

theorem test_shadowedPage : engineSpots (tileState 0x2000000000#64 0x80000#64) baseEnv 0x2000000000#64 1 .write =
      .ok (gotten (engineSpots (tileState 0x2000000000#64 0x80000#64) baseEnv 0x2000000000#64 1 .write)) ∧
    ∀ q ∈ gotten (engineSpots (tileState 0x2000000000#64 0x80000#64) baseEnv 0x2000000000#64 1 .write), q.page.shadowed = true := by decide +kernel

/-- Sixteen rows of 8 bytes, the last eight of a page and the first eight of the next. -/
theorem test_rowStarts : rowStarts ((tileFibre 0x7FFC0#64 0#64).readS 5#6) (BitVec.ofNat 64 (tdRowBytes matrixCrew.td[1])) (tdRows matrixCrew.td[1]) =
    (List.range 16).map (fun k => BitVec.ofNat 64 (0x7FFC0 + 8 * k)) := by decide +kernel

theorem test_rowBytes : tdRowBytes matrixCrew.td[1] = 8 := by decide +kernel

theorem test_rowReach (want : Want) (h : want ∈ [Want.read, Want.write]) (k : Nat) (hk : k < 16) :
    (engineSpots (tileState 0x7FFC0#64 0#64) baseEnv (BitVec.ofNat 64 (0x7FFC0 + 8 * k)) (tdRowBytes matrixCrew.td[1]) want).isOk = true := by
  rw [test_rowBytes]
  simp only [List.mem_cons, List.not_mem_nil, or_false] at h
  rcases h with rfl | rfl <;> interval_cases k <;> decide +kernel

theorem test_rowsReach (want : Want) (h : want ∈ [Want.read, Want.write]) (v : Word)
    (hv : v ∈ rowStarts ((tileFibre 0x7FFC0#64 0#64).readS 5#6) (BitVec.ofNat 64 (tdRowBytes matrixCrew.td[1])) (tdRows matrixCrew.td[1])) :
    (engineSpots (tileState 0x7FFC0#64 0#64) baseEnv v (tdRowBytes matrixCrew.td[1]) want).isOk = true := by
  rw [test_rowStarts, List.mem_map] at hv
  obtain ⟨k, hk, rfl⟩ := hv
  exact test_rowReach want h k (List.mem_range.1 hk)

theorem witness_TileIssue :
    (Runs (tileState 0x7FFC0#64 0#64) (tileFibre 0x7FFC0#64 0#64) matrixCrew ∧ Free (tileFibre 0x7FFC0#64 0#64) 0#4 ∧ (tileFibre 0x7FFC0#64 0#64).sReplay = none ∧
      Ready (tileFibre 0x7FFC0#64 0#64) [5#6, 0#6] ∧
      (∀ l, walkedRanges (tileState 0x7FFC0#64 0#64) baseEnv l (tdRowBytes matrixCrew.td[1]) = tileState 0x7FFC0#64 0#64) ∧
      tilePathFull (tileState 0x7FFC0#64 0#64) (coreOfFibre (tileState 0x7FFC0#64 0#64).cur) = false ∧
      tdOk matrixCrew.td[1] = true ∧ envOf (tileState 0x7FFC0#64 0#64) matrixCrew = some baseEnv ∧ ∀ want ∈ [Want.read, Want.write],
        ∀ v ∈ rowStarts ((tileFibre 0x7FFC0#64 0#64).readS 5#6) (BitVec.ofNat 64 (tdRowBytes matrixCrew.td[1])) (tdRows matrixCrew.td[1]),
          engineSpots (tileState 0x7FFC0#64 0#64) baseEnv v (tdRowBytes matrixCrew.td[1]) want =
            .ok (gotten (engineSpots (tileState 0x7FFC0#64 0#64) baseEnv v (tdRowBytes matrixCrew.td[1]) want))) ∧
    (∀ a ∈ (rowStarts 0xBFF80#64 8#64 16).map (fun v => v.toNat % 2 ^ 24), LocalRange (tileState 0xBFF80#64 0#64) a 8 ∧ localRegion a = localRegion 0xBFF80) ∧
    (∀ p ∈ publishPages 0x2000000000#64 0x80000#64, ∃ l, engineSpots (tileState 0x2000000000#64 0x80000#64) baseEnv p 1 .write = .ok l ∧
      ∀ q ∈ l, q.page.shadowed = true) ∧
    walkedRanges (tileState 0x2000000000#64 0x80000#64) baseEnv (publishPages 0x2000000000#64 0x80000#64) 1 = tileState 0x2000000000#64 0x80000#64 ∧
      envOf (tileState 0x2000000000#64 0x80000#64) matrixCrew = some baseEnv ∧ (tileFibre 0x2000000000#64 0x80000#64).readS 6#6 ≠ 0#64 ∧
      ((tileFibre 0x2000000000#64 0x80000#64).readS 5#6).toNat % 2 ^ 19 = 0 ∧ ((tileFibre 0x2000000000#64 0x80000#64).readS 6#6).toNat % 2 ^ 19 = 0 ∧
      ((tileFibre 0x2000000000#64 0x80000#64).readS 6#6).toNat ≤ 2 ^ 55 := by
  refine ⟨⟨tileState_runs _ _, free_load _ _ rfl rfl, rfl, fun r _ => test_ready_data _ _ r,
      fun l => walkedAll_unbroken (s := tileState _ _) base_unbroken _ _ _, by decide +kernel, by decide +kernel, by decide +kernel,
      fun want hw v hv => gotten_ok (test_rowsReach want hw v hv)⟩, by unfold LocalRange; decide +kernel,
    fun p hp => ?_, walkedAll_unbroken (s := tileState _ _) base_unbroken _ _ _, by decide +kernel⟩
  rw [test_publishPages, List.mem_singleton] at hp; subst hp
  exact ⟨_, test_shadowedPage⟩

/-- Two leaves of level 0 at 0x4008 and 0x4010, a range at the limit of its length, and one I32 element; and a crew without privilege. -/
theorem witness_SystemEngineIssue :
    (Runs (wide (fibreData 0x4008#64 0x4010#64)) (fibreData 0x4008#64 0x4010#64) loadCrew ∧ Free (fibreData 0x4008#64 0x4010#64) 11#4 ∧
      Ready (fibreData 0x4008#64 0x4010#64) [5#6, 6#6] ∧ loadCrew.own.priv = true ∧
      (∀ i < 8, Clean (wide (fibreData 0x4008#64 0x4010#64)) (((fibreData 0x4008#64 0x4010#64).readS 5#6).toNat + i) ∧
        Clean (wide (fibreData 0x4008#64 0x4010#64)) (((fibreData 0x4008#64 0x4010#64).readS 6#6).toNat + i)) ∧
      swapFull (wide (fibreData 0x4008#64 0x4010#64)) (coreOfFibre (wide (fibreData 0x4008#64 0x4010#64)).cur / 128) = false ∧
      swapOk (wide (fibreData 0x4008#64 0x4010#64)) ((fibreData 0x4008#64 0x4010#64).readS 5#6) ((fibreData 0x4008#64 0x4010#64).readS 6#6) = true) ∧
    (Runs (plainState loadFibre) loadFibre plainCrew ∧ plainCrew.own.priv = false) ∧
    (fibreData 0x80004#64 0xBFFFC#64).sReplay = none ∧ envOf base loadCrew = some baseEnv ∧ walkedRange base baseEnv 0x80004#64 (1 * 4) = base ∧
      LocalRange base 0xBFFFC (1 * nredWidth 0x0A00_0000_0000_0001#64) ∧
      spots base baseEnv 0x80004#64 4 .write true = .ok (gotten (spots base baseEnv 0x80004#64 4 .write true)) ∧
      nredRefused (gotten (spots base baseEnv 0x80004#64 4 .write true)) = false ∧ nredFull base base.cur = false ∧
      0xBFFFC = ((fibreData 0x80004#64 0xBFFFC#64).readS 6#6).toNat % 2 ^ 24 ∧
      nredOk 0x0A00_0000_0000_0001#64 = true ∧ ((fibreData 0x80004#64 0xBFFFC#64).readS 5#6).toNat % nredWidth 0x0A00_0000_0000_0001#64 = 0 :=
  ⟨⟨wide_runs _, free_load _ _ rfl rfl, fun r _ => test_ready_data _ _ r, rfl, fun i _ =>
      ⟨clean_unbroken (s := wide _) base_unbroken _, clean_unbroken (s := wide _) base_unbroken _⟩, by decide +kernel⟩,
    ⟨plain_runs _, rfl⟩, rfl, base_env, walked_unbroken base_unbroken .., by unfold LocalRange; decide +kernel, gotten_ok (by decide +kernel), by decide +kernel⟩

/-- An operation of the loaded fibre, with flag 11. -/
def engineOf (op : EngineOp) : Engine :=
  { op := op, fibre := 0, bank := 0, serial := 0, ctx := 1, flag := some 11, aflags := 0#6, arrivals := [], status := 0, placed := 0, ready := true, asked := none
    kept := [], lost := [], pages := [(1, { frame := 0x80000, key := none, collective := none, policy := 0, shadowed := false })] }

/-- The wide package with one operation. -/
def engineState (op : EngineOp) : State := { wide fibreFlag with engines := [(7, engineOf op)] }

theorem engineState_unbroken (op : EngineOp) : unbroken (engineState op) = true := base_unbroken

theorem engineState_noErrors (op : EngineOp) : NoErrors (engineState op) := by
  refine ⟨rfl, rfl, fun k b h => ?_⟩
  have e : (engineState op).banks = [(0, { state := .running, store := [], units := [], latent := [], poison := [], armed := [] })] := rfl
  rw [e] at h
  simp only [lookup] at h
  split at h
  · cases h; exact ⟨rfl, rfl⟩
  · cases h

/-- The one operation of the wide package. -/
theorem engineState_only {op : EngineOp} {P : Nat × Engine → Prop} (h : P (7, engineOf op)) : ∀ x ∈ (engineState op).engines, P x := by
  intro x hx
  have e : (engineState op).engines = [(7, engineOf op)] := rfl
  rw [e, List.mem_singleton] at hx
  subst hx
  exact h

/-- A byte of a store is seen. -/
theorem seen_store (s : State) (op : EngineOp) {p : Nat} (h : inStore p = true) (x : Nat) (y : Page) :
    ((engineOf op).seen s { phys := x, place := some p, page := y }).isSome = true := by
  simp [Engine.seen, engineOf, viewByte, h]

theorem inStore_add (k : Nat) : inStore (2 ^ 52 + k) = true := decide_eq_true (Nat.le_add_right _ _)

/-- The bytes of a bank's store are seen. -/
theorem bankSpots_seen (s : State) (op : EngineOp) (bk off n : Nat) : (bankSpots bk off n).map ((engineOf op).seen s) =
    ((bankSpots bk off n).map (fun x => ((engineOf op).seen s x).getD 0#8)).map some := by
  rw [List.map_map]
  apply List.map_congr_left
  intro x hx
  obtain ⟨i, -, rfl⟩ := List.mem_map.1 hx
  have h := seen_store s op (p := bankPlace bk (off + i)) (by unfold bankPlace; rw [Nat.add_assoc]; exact inStore_add _) 0 localPage
  obtain ⟨b, hb⟩ := Option.isSome_iff_exists.1 h
  simp [hb]

/-- The three transfers of a byte row whose hypotheses the witness meets beside ACCMV: to memory, from memory, and within the store. -/
theorem test_moves :
    Moves (engineState (.accMove 7 0)) (engineOf (.accMove 7 0)) (bankSpots 0 0x200000 0x8000) (bankSpots 0 0x238000 0x8000) none ∧
    Moves (engineState (.accLoad 7 0xBFFFC 1)) (engineOf (.accLoad 7 0xBFFFC 1)) (localSpotsD (engineState (.accLoad 7 0xBFFFC 1)) 0 0xBFFFC 4)
      (bankSpots 0 0x238000 4) none ∧
    Moves (engineState (.tileLoad 15 8 [0x80000, 0x80008] false)) (engineOf (.tileLoad 15 8 [0x80000, 0x80008] false))
      ((engineOf (.tileLoad 15 8 [0x80000, 0x80008] false)).spots (engineState (.tileLoad 15 8 [0x80000, 0x80008] false)) 0x80000#64 8 ++
        (engineOf (.tileLoad 15 8 [0x80000, 0x80008] false)).spots (engineState (.tileLoad 15 8 [0x80000, 0x80008] false)) 0x80008#64 8)
      (bankSpots 0 0x13C000 16) none ∧
    Moves (engineState (.tileStore 15 8 [0x80000] false)) (engineOf (.tileStore 15 8 [0x80000] false)) (bankSpots 0 0x13C000 8)
      ((engineOf (.tileStore 15 8 [0x80000] false)).spots (engineState (.tileStore 15 8 [0x80000] false)) 0x80000#64 8) none := by
  refine ⟨⟨by decide, rfl, rfl, rfl⟩, ⟨by decide +kernel, rfl, rfl⟩, ⟨rfl, rfl, rfl⟩, ⟨rfl, by simp, fun x hx => ?_⟩⟩
  have h : ∀ x ∈ (engineOf (.tileStore 15 8 [0x80000] false)).spots (engineState (.tileStore 15 8 [0x80000] false)) 0x80000#64 8,
      x.page.key = none ∧ publishing (engineState (.tileStore 15 8 [0x80000] false)) 0 x.phys = false := by decide +kernel
  exact h x hx

theorem test_movesSeen :
    (∃ bytes : List Byte, (bankSpots 0 0x200000 0x8000).map ((engineOf (.accMove 7 0)).seen (engineState (.accMove 7 0))) = bytes.map some) ∧
    (∃ bytes : List Byte, (localSpotsD (engineState (.accLoad 7 0xBFFFC 1)) 0 0xBFFFC 4).map
      ((engineOf (.accLoad 7 0xBFFFC 1)).seen (engineState (.accLoad 7 0xBFFFC 1))) = bytes.map some) ∧
    (∃ bytes : List Byte, ((engineOf (.tileLoad 15 8 [0x80000, 0x80008] false)).spots (engineState (.tileLoad 15 8 [0x80000, 0x80008] false)) 0x80000#64 8 ++
        (engineOf (.tileLoad 15 8 [0x80000, 0x80008] false)).spots (engineState (.tileLoad 15 8 [0x80000, 0x80008] false)) 0x80008#64 8).map
      ((engineOf (.tileLoad 15 8 [0x80000, 0x80008] false)).seen (engineState (.tileLoad 15 8 [0x80000, 0x80008] false))) = bytes.map some) ∧
    ∃ bytes : List Byte, (bankSpots 0 0x13C000 8).map ((engineOf (.tileStore 15 8 [0x80000] false)).seen (engineState (.tileStore 15 8 [0x80000] false))) = bytes.map some :=
  ⟨⟨_, bankSpots_seen ..⟩, ⟨List.replicate 4 0#8, by decide +kernel⟩, ⟨List.replicate 16 0#8, by decide +kernel⟩, _, bankSpots_seen ..⟩

/-- A launch held on generation 1 of the last word of the scratchpad. -/
def heldLaunch : Launch :=
  { ctx := 1, template := loadRecord, view := loadCrew.view, extent := 1#64, carve := (0#32, 0#32), joinLink := none, most := 1, place := bankPlace 0 0xBFFF0
    gen := 1#16 }

/-- The loaded crew saved, with its one operation outstanding. -/
def savedEngine : State :=
  { engineState (.tzero 15) with
    crews := []
    saved := [(0, { crew := { loadCrew with saved := true }, full := true, home := none, fibres := [(0, fibreFlag)], armed := [], barriers := [] })] }

theorem savedEngine_noErrors : NoErrors savedEngine := engineState_noErrors (.tzero 15)

theorem witness_EngineCompletion :
    (∀ op, lookup (engineState op).engines 7 = some (engineOf op) ∧ NoErrors (engineState op) ∧ (bankOfSerial (engineState op) (engineOf op).serial).isSome = true ∧
      mustWait (engineState op) 7 (engineOf op) = false) ∧
    (∃ (src dst : List Spot) (bytes : List Byte) (key : Option Nat), Moves (engineState (.accMove 7 0)) (engineOf (.accMove 7 0)) src dst key ∧
      src.map ((engineOf (.accMove 7 0)).seen (engineState (.accMove 7 0))) = bytes.map some) ∧
    (∃ x y, localSpots (engineState (.mma 7 0 1 16 16 16 0#64 none)) 0 (fbSADA 0#64) (2 * (if fbSCA 0#64 then 16 * (16 / fbBLA 0#64) else 0)) = some x ∧
      localSpots (engineState (.mma 7 0 1 16 16 16 0#64 none)) 0 (fbSADB 0#64) (2 * (if fbSCB 0#64 then 16 / fbBLB 0#64 * 16 else 0)) = some y) ∧
    (∃ x y, localSpots (engineState (.accConvert 7 0xBFFFC 1 1 0#64)) 0 0xBFFFC 4 = some x ∧
      localSpots (engineState (.accConvert 7 0xBFFFC 1 1 0#64)) 0 (fbSADA 0#64) 0 = some y ∧ (convertAcc 0#64 [0]).1.length = 4 ∧ (convertAcc 0#64 [0]).2.1 = []) ∧
    (∀ x ∈ (engineState (.launch heldLaunch)).launches ++ [heldLaunch], x.place = heldLaunch.place →
      satisfies (readWord (engineState (.launch heldLaunch)) heldLaunch.place none).gen x.gen = false) ∧
    ((engineOf (.publish 0x2000000000#64 (BitVec.ofNat 64 (2 ^ 19)) false)).env (engineState (.publish 0x2000000000#64 (BitVec.ofNat 64 (2 ^ 19)) false)) = some baseEnv ∧
      leafOf (engineState (.publish 0x2000000000#64 (BitVec.ofNat 64 (2 ^ 19)) false)) 0x2000000000#64 4 baseEnv.root = some (0x4000, 0x40009F#64) ∧
      (0x40009F#64).getLsbD 7 = true ∧ (∀ x ∈ (engineState (.publish 0x2000000000#64 (BitVec.ofNat 64 (2 ^ 19)) false)).engines,
        ¬ (x.1 < 7 ∧ x.2.serial = 0 ∧ x.2.op.writesMemory = true)) ∧
      ∀ x ∈ (engineState (.publish 0x2000000000#64 (BitVec.ofNat 64 (2 ^ 19)) false)).fabricOps, ¬ (x.1 < 7 ∧ x.2.serial = 0)) ∧
    (∀ x ∈ (engineState (.tlbInvalidate 1 (some 0xFFC0000000000000#64) false)).engines,
      x.2.uses (removedEntries (engineState (.tlbInvalidate 1 (some 0xFFC0000000000000#64) false)) 1 (some 0xFFC0000000000000#64)) = false) ∧
    ((∀ o ∈ (engineState (.swap 0x4008 0x4010 0x50001F#64 0x60001F#64)).engines, o.1 < 7 → o.2.bank % 1024 / 128 = 0 → o.2.op.isSwap = false) ∧
      (∀ o ∈ (engineState (.swap 0x4008 0x4010 0x50001F#64 0x60001F#64)).engines, o.2.inFrames [wfld 0x50001F#64 19 33, wfld 0x60001F#64 19 33] = false) ∧
      inDevice (0x4008 + 7) = true ∧ inDevice (0x4010 + 7) = true ∧ 0x4008 + 8 ≤ 0x4010 ∧
      (∀ i < 8, ∀ p ∈ [0x4008, 0x4010], ∀ q ∈ [entryFrame 0x50001F#64, entryFrame 0x60001F#64], (p + i) / 2 ^ 19 ≠ q / 2 ^ 19) ∧
      inWindow (entryFrame 0x50001F#64) = false ∧ inWindow (entryFrame 0x60001F#64) = false) ∧
    (bankOfSerial savedEngine 0 = none ∧ NoErrors savedEngine ∧ lookup savedEngine.engines 7 = some (engineOf (.tzero 15)) ∧
      mustWait savedEngine 7 (engineOf (.tzero 15)) = false) ∧
    let u := engineState (.nred 0x80004#64 0xBFFFC 0x0A00_0000_0000_0001#64 [0])
    let l := (engineOf (.nred 0x80004#64 0xBFFFC 0x0A00_0000_0000_0001#64 [0])).spots u (0x80004#64 + BitVec.ofNat 64 (0 * nredWidth 0x0A00_0000_0000_0001#64))
      (nredWidth 0x0A00_0000_0000_0001#64)
    (∀ x ∈ l, publishing u 0 x.phys = false) ∧ Seen u l (List.replicate 4 0#8) ∧ Storable u l none ∧
      Seen u (localSpotsD u 0 (0xBFFFC + 0 * nredWidth 0x0A00_0000_0000_0001#64) (nredWidth 0x0A00_0000_0000_0001#64)) (List.replicate 4 0#8) ∧
      (List.replicate 4 0#8).length = nredWidth 0x0A00_0000_0000_0001#64 := by
  refine ⟨fun op => ⟨rfl, engineState_noErrors op, ?_, ?_⟩, ⟨_, _, _, _, test_moves.1, bankSpots_seen ..⟩,
    ⟨_, _, rfl, rfl⟩, ⟨_, _, rfl, rfl, by decide +kernel, by decide +kernel⟩, by decide +kernel,
    ⟨by decide +kernel, by decide +kernel, by decide, by decide +kernel, by decide +kernel⟩, engineState_only (by decide +kernel),
    ⟨engineState_only (fun h => absurd h (by decide)), engineState_only (by decide +kernel), by decide +kernel⟩,
    ⟨by decide +kernel, savedEngine_noErrors, rfl, by decide +kernel⟩,
    by decide +kernel, seen_of (engineState_unbroken _) (by decide +kernel), storable_of (engineState_unbroken _) (by decide +kernel),
    seen_of (engineState_unbroken _) (by decide +kernel), by decide +kernel⟩
  · show (bankOfSerial base 0).isSome = true
    decide +kernel
  · have e : (engineState op).engines = [(7, engineOf op)] := rfl
    simp [mustWait, e]

/-! ### Hypotheses that can be met: landing words, barriers, queues, registers, fabric operations -/

/-- A fibre whose s5 to s8 hold four values. -/
def fibreFour (a b c d : Word) : Fibre := { loadFibre with sregs := (((loadFibre.sregs.set 5 a).set 6 b).set 7 c).set 8 d }

theorem ready_four (a b c d : Word) (l : List (BitVec 6)) : Ready (fibreFour a b c d) l := fun r _ => test_ready r

/-- The loaded package whose scratchpad holds an armed landing word at 0xBFFF0 (TARGET 3, COUNT 2, GEN 5), and one at 0 that is not armed (GEN 5). -/
def landingState (f : Fibre) : State :=
  { base with
    banks := [(0, { state := .running, store := [(0x8, 5#8), (0xBFFF0, 3#8), (0xBFFF4, 2#8), (0xBFFF8, 5#8), (0xBFFFA, 1#8)], units := [0, 191], latent := [], poison := []
                    armed := [] })]
    fibres := [(0, f)] }

theorem landing_runs (f : Fibre) : Runs (landingState f) f loadCrew := by
  have h : bankOfFibre (landingState f).cur = 0 := by
    have : (landingState f).cur = 0 := rfl
    rw [this]; rfl
  exact ⟨rfl, by rw [h]; exact base_crew, base_context⟩

def landingRef : Word := 0xFC000000000BFFF0#64

/-- The landing-word operands that the statements name: a fibre with a reference to each word. -/
def highFibre : Fibre := fibreFour landingRef 1#64 5#64 0#64
def lowFibre : Fibre := fibreFour 0xFC00000000000000#64 0x10_000C_0005#64 16#64 0#64

theorem landing_names : ∀ want ∈ [Want.read, Want.write], Names (landingState highFibre) highFibre loadCrew 5#6 want (bankPlace 0 0xBFFF0) none := by
  have h : ∀ want ∈ [Want.read, Want.write], resolveLanding (landingState highFibre) baseEnv (bankOfFibre (landingState highFibre).cur) (highFibre.readS 5#6) want =
      .word (bankPlace 0 0xBFFF0) none := by decide +kernel
  exact fun want hw => ⟨rfl, rfl, rfl, ⟨baseEnv, base_env, h want hw, fun _ => walked_unbroken (by decide +kernel) ..⟩, [3#8, 0#8, 0#8, 0#8, 2#8, 0#8, 0#8, 0#8, 5#8, 0#8, 1#8, 0#8, 0#8, 0#8, 0#8, 0#8],
    sound_of (by decide +kernel) (by decide +kernel)⟩

theorem low_names : Names (landingState lowFibre) lowFibre loadCrew 5#6 .write (bankPlace 0 0) none :=
  ⟨rfl, rfl, rfl, ⟨baseEnv, base_env, by decide +kernel, fun _ => walked_unbroken (by decide +kernel) ..⟩, [0#8, 0#8, 0#8, 0#8, 0#8, 0#8, 0#8, 0#8, 5#8, 0#8, 0#8, 0#8, 0#8, 0#8, 0#8, 0#8],
    sound_of (by decide +kernel) (by decide +kernel)⟩

def landingWord : LWord := { target := 3#32, count := 2#32, gen := 5#16, flags := 1#8, logc := 0#8, moff := 0#32 }

theorem test_landing_word : landingWord = readWord (landingState highFibre) (bankPlace 0 0xBFFF0) none := by decide +kernel

/-- Generations at the two sides of half the circle; an add that reaches TARGET and one that does not; a manifest of 16 and one of 65,536 bytes. -/
theorem witness_LandingWords :
    (∀ f : Fibre, Runs (landingState f) f loadCrew) ∧ landingWord.ok = true ∧
    (∀ f : Fibre, Unheld (landingState f) (bankPlace 0 0xBFFF0) ∧ ownerKilled (landingState f) (bankPlace 0 0xBFFF0) = false) ∧
    ((5 + 2 ^ 16 - 5) % 2 ^ 16 < 2 ^ 15 ∧ (5 + 2 ^ 16 - 0x8006) % 2 ^ 16 < 2 ^ 15 ∧ 2 ^ 15 ≤ (5 + 2 ^ 16 - 0x8005) % 2 ^ 16) ∧
    ((highFibre.readS 6#6).toNat = 1 ∧ (highFibre.readS 7#6).toNat = landingWord.gen.toNat ∧ landingWord.moff = 0#32 ∧
      landingWord.armed = true ∧ landingWord.target.toNat ≤ landingWord.count.toNat + 1 ∧ landingWord.count.toNat + 0 < landingWord.target.toNat ∧ landingWord.count.toNat < 3) ∧
    ((lowFibre.readS 6#6).toNat = 16 * 2 ^ 32 + 12 * 2 ^ 16 + 5 ∧ manifestInside (bankPlace 0 0) 16 16 = true ∧
      manifestInside (bankPlace 0 0) 0x10 65536 = true ∧ manifestInside (bankPlace 0 0) 0xAFFFF 65536 = true ∧
      ∀ l ∈ (landingState lowFibre).launches, l.place ≠ bankPlace 0 0) :=
  ⟨landing_runs, by decide, fun _ => ⟨⟨fun _ h => (List.not_mem_nil h).elim, fun _ h => (List.not_mem_nil h).elim⟩, rfl⟩,
    by decide, ⟨by decide, by decide, by decide, by decide, by decide, by decide, by decide⟩,
    ⟨by decide, by decide, by decide, by decide, fun _ h => (List.not_mem_nil h).elim⟩⟩

/-- A crew whose barrier 7 expects two arrivals and has one, and that has no other. -/
def barrierCrew : Crew := { loadCrew with barriers := loadCrew.barriers.set 7 { expected := 2, arrived := 1, gen := 0xFFFF#16 } }

/-- An arrival that completes, the first of two that does not; y = 0 and a count of 64; a generation reached and one that is not. -/
theorem witness_Barriers :
    (Runs (withCrew barrierCrew (fibreFour 64#64 2#64 0#64 0#64)) (fibreFour 64#64 2#64 0#64 0#64) barrierCrew ∧ (fibreFour 64#64 2#64 0#64 0#64).fence = none ∧
      (fibreFour 64#64 2#64 0#64 0#64).clauses = [] ∧ (fibreFour 64#64 2#64 0#64 0#64).handler = none ∧ (fibreFour 64#64 2#64 0#64 0#64).sWait = none ∧
      (fibreFour 64#64 2#64 0#64 0#64).cbarDone = none) ∧
    ((fibreFour 64#64 2#64 0#64 0#64).readS 5#6).toNat = 64 ∧ barrierCrew.barriers[6].arrived = 0 ∧ barrierCrew.barriers[6].arrived + 1 < 64 ∧
    (((fibreFour 64#64 2#64 0#64 0#64).readS 6#6).toNat = barrierCrew.barriers[7].expected ∧ 2 ≤ barrierCrew.barriers[7].arrived + 1) ∧
    ((barrierCrew.barriers[7].gen.toNat + 2 ^ 16 - 0xFFFF) % 2 ^ 16 < 2 ^ 15 ∧ 2 ^ 15 ≤ (barrierCrew.barriers[7].gen.toNat + 2 ^ 16 - 0) % 2 ^ 16) ∧
    ∃ D B, lookup (withCrew barrierCrew (fibreFour 64#64 2#64 0#64 0#64)).decks barrierCrew.deck = some D ∧ (1#4).toNat < 2 * D.width ∧ D.barriers[(1#4).toNat]? = some B ∧
      (B.arrived = 0 ∧ (64 : Nat) ≤ 512) ∧ (B.gen.toNat + 2 ^ 16 - 0) % 2 ^ 16 < 2 ^ 15 ∧ 2 ^ 15 ≤ (B.gen.toNat + 2 ^ 16 - 1) % 2 ^ 16 :=
  ⟨⟨withCrew_runs _ _ rfl, rfl, rfl, rfl, rfl, rfl⟩, by decide, by decide, by decide, ⟨by decide, by decide⟩, ⟨by decide, by decide⟩,
    { cluster := 0, width := 1, members := [0], barriers := List.replicate 2 { expected := 1, arrived := 0, gen := 0#16 }, ctx := 1 },
    { expected := 1, arrived := 0, gen := 0#16 }, by decide +kernel, by decide, rfl, ⟨rfl, by decide⟩, by decide, by decide⟩

/-- A fibre whose result queues hold a word each. -/
def fibreResults : Fibre := { fibreFour 0x1000_0000_0000_0000#64 0#64 0#64 0#64 with q1 := [1#64], q3 := [2#64], q5 := [3#64] }

theorem witness_Queues :
    (Runs (withFibre fibreResults) fibreResults loadCrew ∧ fibreResults.fence = none ∧ lookup (withFibre fibreResults).contexts loadCrew.ctx = some loadContext ∧ Ready fibreResults [5#6]) ∧
    (copyUntaken (withFibre fibreResults) (withFibre fibreResults).cur fibreResults < 32 ∧ copyHeld (withFibre fibreResults) 0 < 256 ∧
      fibreResults.q0.length < copyWords ((fibreResults.q0 ++ [fibreResults.readS 0#6]).headD 0)) ∧
    (fibreResults.q2.length < 3 ∧ ((fibreResults.q2 ++ [fibreResults.readS 5#6]).headD 0).toNat / 2 ^ 60 = 1) ∧
    (∃ x r, fibreResults.q1 = x :: r) ∧ (∃ x r, fibreResults.q3 = x :: r) ∧ (∃ x r, fibreResults.q5 = x :: r) ∧
    (loadFibre.q1 = [] ∧ loadFibre.q3 = [] ∧ loadFibre.q5 = [] ∧ isSupervisor loadCrew 0 loadFibre = true ∧ loadCrew.notices = []) ∧
    isSupervisor { loadCrew with block := { loadBlock with roles := loadBlock.roles.map (fun r => { r with supervisor := false }) } } 0 loadFibre = false :=
  ⟨⟨withFibre_runs _, rfl, by decide +kernel, fun r _ => test_ready r⟩, by decide +kernel, ⟨by decide, by decide⟩, ⟨_, _, rfl⟩, ⟨_, _, rfl⟩,
    ⟨_, _, rfl⟩, ⟨rfl, rfl, rfl, by decide, rfl⟩, by decide⟩

theorem witness_SystemRegisters :
    (Runs base loadFibre loadCrew ∧ lookup base.contexts loadCrew.ctx = some loadContext ∧ loadFibre.clauses = [] ∧ loadCrew.own.priv = true ∧
      Ready loadFibre [5#6] ∧ loadFibre.fence = none ∧ ∃ P, lookup base.partitions loadContext.partition = some P) ∧
    Runs (plainState loadFibre) loadFibre plainCrew ∧ lookup (plainState loadFibre).contexts plainCrew.ctx = some loadContext ∧ plainCrew.own.priv = false ∧
      0xC000 ≤ (0xC001#16).toNat ∧ 0x8000 ≤ (0x8000#16).toNat :=
  ⟨⟨base_runs, by decide +kernel, rfl, rfl, fun r _ => test_ready r, rfl, Option.isSome_iff_exists.1 (by decide +kernel)⟩, plain_runs _, by decide +kernel, rfl, by decide⟩

/-- A remote store of eight bytes, one of three that is refused, and a remote atomic of 64 bits, each to pattern 0. -/
theorem witness_FabricIssue :
    (Runs (withFibre (fibreFour 0#64 0x8#64 7#64 8#64)) (fibreFour 0#64 0x8#64 7#64 8#64) loadCrew ∧ Free (fibreFour 0#64 0x8#64 7#64 8#64) 0#4 ∧
      lookup (withFibre (fibreFour 0#64 0x8#64 7#64 8#64)).contexts loadCrew.ctx = some loadContext ∧ Ready (fibreFour 0#64 0x8#64 7#64 8#64) [5#6, 6#6, 7#6, 8#6] ∧
      fabricOutstanding (withFibre (fibreFour 0#64 0x8#64 7#64 8#64)) 0 < 16) ∧
    (∃ a, fabricCheck base loadContext 0 1 0 (decide (((fibreFour 0#64 0x8#64 7#64 8#64).readS 5#6).toNat < 2 ^ 52)) (fourWords (fibreFour 0#64 0x8#64 7#64 8#64) 5#6) = .ok a) ∧
    (∃ c, fabricCheck base loadContext 0 1 0 (decide (((fibreFour 0#64 0x8#64 7#64 3#64).readS 5#6).toNat < 2 ^ 52)) (fourWords (fibreFour 0#64 0x8#64 7#64 3#64) 5#6) = .error c) ∧
    ∃ a, fabricCheck base loadContext 0 4 0 (decide (((fibreFour 0x0000_1000_0000_0000#64 0x8#64 7#64 0#64).readS 5#6).toNat < 2 ^ 52))
      (fourWords (fibreFour 0x0000_1000_0000_0000#64 0x8#64 7#64 0#64) 5#6) = .ok a :=
  ⟨⟨withFibre_runs _, free_load _ _ rfl rfl, by decide +kernel, fun r _ => test_ready r, by decide +kernel⟩, ⟨_, rfl⟩, ⟨_, rfl⟩, ⟨_, rfl⟩⟩

/-! ### Hypotheses that can be met: fabric control, arriving, scheduling, barriers of a berth, traps -/

def fibreSix (a b c d e g : Word) : Fibre := { loadFibre with sregs := (((((loadFibre.sregs.set 5 a).set 6 b).set 7 c).set 8 d).set 9 e).set 10 g }

theorem ready_six (a b c d e g : Word) (l : List (BitVec 6)) : Ready (fibreSix a b c d e g) l := fun r _ => test_ready r

/-- A fibre with an armed send's four words in s5 to s8, its landing word in s9 and a generation not yet reached in s10. -/
def armFibre : Fibre := fibreSix 0x1000_0000_0000_0000#64 8#64 7#64 8#64 landingRef 6#64

theorem arm_names : Names (landingState armFibre) armFibre loadCrew 9#6 .read (bankPlace 0 0xBFFF0) none :=
  ⟨rfl, rfl, rfl, ⟨baseEnv, base_env, by decide +kernel, fun _ => walked_unbroken (by decide +kernel) ..⟩, [3#8, 0#8, 0#8, 0#8, 2#8, 0#8, 0#8, 0#8, 5#8, 0#8, 1#8, 0#8, 0#8, 0#8, 0#8, 0#8],
    sound_of (by decide +kernel) (by decide +kernel)⟩

/-- The loaded package with one remote store outstanding. -/
def sendingState : State :=
  { base with fabricOps := [(3, makeOp { fibre := 0, serial := 0, ctx := 1 } 1 0 (fourWords armFibre 5#6) false none none ([0#16, 0#16, 0#16, 0#16, 0#16], 1, 0))] }

/-- A member of a crossing of two packages whose pause coordinate is the other one. -/
def memberContext : Context :=
  { loadContext with member := some { crossing := 5, axes := 1, extents := [2], coord := [0], pauseCoord := [1], ready := true } }

theorem witness_FabricControl :
    (Runs base loadFibre loadCrew ∧ loadFibre.fence = none ∧ lookup base.contexts loadCrew.ctx = some loadContext ∧ loadFibre.sWait = none ∧
      (∃ v, patternValues (gridOf loadContext) (patternOf loadContext 0) = some v) ∧ ∀ o ∈ base.fabricOps, ownedBy base base.cur o.2.serial o.2.fibre = false) ∧
    (Runs sendingState loadFibre loadCrew ∧ Free loadFibre 11#4 ∧ sendingState.flushes = [] ∧
      ∃ v, patternValues (gridOf loadContext) (patternOf loadContext 0) = some v ∧ flushWaits sendingState (gridOf loadContext) 0 v ≠ []) ∧
    (Runs (landingState armFibre) armFibre loadCrew ∧ Free armFibre 11#4 ∧ Ready armFibre [5#6, 6#6, 7#6, 8#6, 9#6, 10#6] ∧
      Names (landingState armFibre) armFibre loadCrew 9#6 .read (bankPlace 0 0xBFFF0) none ∧ (readWord (landingState armFibre) (bankPlace 0 0xBFFF0) none).ok = true ∧
      (armFibre.readS 10#6).toNat = 6 ∧ armFieldsOk (fourWords armFibre 5#6) = true ∧
      (∃ a, fabricCheck (landingState armFibre) loadContext 0 (armedKind (fourWords armFibre 5#6)) (armedRed (fourWords armFibre 5#6)) true (fourWords armFibre 5#6) = .ok a) ∧
      2 ^ 15 ≤ ((readWord (landingState armFibre) (bankPlace 0 0xBFFF0) none).gen.toNat + 2 ^ 16 - 6) % 2 ^ 16 ∧ unitFullAt (landingState armFibre) (bankPlace 0 0xBFFF0) = false) ∧
    ((controlFields (bits (0#64) 16 16)).isSome = true ∧ (0#64 : Word).toNat < 2 ^ 32) ∧
    ((gridOf loadContext).coord = pausePlace loadContext ∧ lookup base.pauses (crossingKey 1 loadContext) = none) ∧
    (gridOf memberContext).coord ≠ pausePlace memberContext :=
  ⟨⟨base_runs, rfl, by decide +kernel, rfl, ⟨_, rfl⟩, by decide +kernel⟩,
    ⟨⟨by decide +kernel, base_crew, base_context⟩, free_load _ _ rfl rfl, by decide +kernel, _, rfl, by decide +kernel⟩,
    ⟨landing_runs _, free_load _ _ rfl rfl, ready_six _ _ _ _ _ _ _, arm_names, by decide +kernel, by decide, by decide +kernel, ⟨_, rfl⟩, by decide +kernel, by decide +kernel⟩,
    ⟨by decide, by decide⟩, ⟨by decide +kernel, by decide +kernel⟩, by decide +kernel⟩

/-- A fibre in its handler, SPC 16 in the handler, with the frame of a SOFT or a memory trap. -/
def frameOf (c : Cause) (lane : Bool) : Frame :=
  { trap := { cause := c, mask := 5#32 }, lane := lane, oldS1 := 9#64, spc := 0x20#64, lpc := 0x40#64, wait := none, cbarDone := none }
def fibreHandler (fr : Frame) (x : Word) : Fibre := { fibreData x 0#64 with handler := some fr }

/-- Records in memory: a HELD join record at 0x8000, a START at 0x8020, a launch descriptor of at most one launch at 0x8040. -/
def recordMem : Tab Byte :=
  [(0x1000, 0x01#8), (0x1001, 0x20#8), (0x2000, 0x1F#8), (0x2002, 0x04#8), (0x8014, 0x30#8), (0x8078, 0x01#8)]
def recordState (f : Fibre) : State := { landingState f with mem := recordMem }

theorem record_runs (f : Fibre) : Runs (recordState f) f loadCrew := landing_runs f

theorem record_holds (v : Word) (n : Nat) (w : Want) (bytes : List Byte) (h1 : (spots (recordState loadFibre) baseEnv v n w false).isOk = true)
    (h2 : seenSpots (recordState loadFibre) (gotten (spots (recordState loadFibre) baseEnv v n w false)) bytes = true) :
    Holds (recordState loadFibre) baseEnv v n w bytes :=
  ⟨walked_unbroken (by decide +kernel) .., _, gotten_ok h1, seen_of (by decide +kernel) h2⟩

def joinBytes : List Byte := (List.replicate 20 0#8) ++ 0x30#8 :: List.replicate 11 0#8

/-- A crew with a handler at 0x40. -/
def handlerCrew : Crew := { loadCrew with trapbase := 0x41#64 }

/-- Its second fibre waits at a berth barrier for the first. -/
def exitState : State :=
  { base with crews := [(0, handlerCrew)], fibres := [(0, loadFibre), (1, { loadFibre with sWait := some (.fbar 3#4) })] }

theorem exit_runs : Runs exitState loadFibre handlerCrew := by
  have h : bankOfFibre exitState.cur = 0 := by
    have : exitState.cur = 0 := rfl
    rw [this]; rfl
  exact ⟨rfl, by rw [h]; rfl, base_context⟩

/-- A context whose only fibre is not at a berth barrier. -/
theorem base_noBarrier (j : Nat) (g : Fibre) (h : lookup base.fibres j = some g) : g.sWait = none := by
  have e : base.fibres = [(0, loadFibre)] := by decide +kernel
  rw [e] at h
  simp only [lookup] at h
  split at h
  · cases h; rfl
  · cases h

theorem witness_Arriving :
    (Runs base loadFibre loadCrew ∧ loadFibre.fence = none ∧ loadFibre.sWait = none ∧ loadFibre.handler = none ∧ drained base 0 loadFibre = true ∧
      (∀ k ∈ deckMembers base loadCrew, ∀ m, lookup base.crews k = some m → m.phaseArgs = none ∨ m.phaseArgs = some (0#64, 0#64)) ∧
      ∃ D, lookup base.decks loadCrew.deck = some D ∧ bankOfFibre base.cur ∈ D.members) ∧
    (Runs (withFibre (fibreClauses 1)) (fibreClauses 1) loadCrew ∧ drained (withFibre (fibreClauses 1)) 0 (fibreClauses 1) = false) ∧
    (loadFibre.sReplay = none ∧ (0x8000#64 : Word).toNat % 32 = 0 ∧ envOf (recordState loadFibre) loadCrew = some baseEnv ∧
      Holds (recordState loadFibre) baseEnv 0x8000#64 32 .write joinBytes ∧ (recordOf joinBytes).kind = 3 ∧ loadCrew.joinArg = none) ∧
    (Runs (withFibre (fibreHandler (frameOf .soft false) 0#64)) (fibreHandler (frameOf .soft false) 0#64) loadCrew ∧ (fibreHandler (frameOf .soft false) 0#64).handler.isSome = true) ∧
    (loadCrew.g = false ∧ loadCrew.bi ≠ 1#32 ∧ loadFibre.clausesIssued = true ∧ loadCrew.state = .running ∧ loadCrew.ending = none ∧
      ∀ j g p, slotOfFibre j = 0 → lookup base.fibres j = some g → g.sWait = some (.fbar p) → p.getLsbD 0 = false) ∧
    (Runs exitState loadFibre handlerCrew ∧ bits handlerCrew.trapbase 0 1 = 1#1 ∧
      lookup exitState.fibres 1 = some { loadFibre with sWait := some (.fbar 3#4) } ∧ (3#4).getLsbD 0 = true) :=
  ⟨⟨base_runs, rfl, rfl, rfl, by decide +kernel, fun k hk m hm => by
        have e : deckMembers base loadCrew = [0] := by decide +kernel
        rw [e, List.mem_singleton] at hk; subst hk
        rw [base_crew] at hm; cases hm; exact .inl rfl,
      ⟨{ cluster := 0, width := 1, members := [0], barriers := List.replicate 2 { expected := 1, arrived := 0, gen := 0#16 }, ctx := 1 }, by decide +kernel, by decide +kernel⟩⟩,
    ⟨withFibre_runs _, by decide +kernel⟩,
    ⟨rfl, by decide, base_env, record_holds _ _ _ _ (by decide +kernel) (by decide +kernel), by decide +kernel, rfl⟩,
    ⟨withFibre_runs _, rfl⟩,
    ⟨rfl, by decide, by decide, rfl, rfl, fun j g p _ hg hp => by rw [base_noBarrier j g hg] at hp; cases hp⟩, exit_runs, by decide, rfl, by decide⟩

def launchBytes : List Byte := (List.replicate 56 0#8) ++ 1#8 :: List.replicate 7 0#8

theorem launch_place (T : List TlbEntry) : resolveLanding { recordState loadFibre with tlb := T } baseEnv 0 landingRef .read = .word (bankPlace 0 0xBFFF0) none := by
  have : resolveLanding { recordState loadFibre with tlb := T } baseEnv 0 landingRef .read = resolveLanding (recordState loadFibre) baseEnv 0 landingRef .read := rfl
  rw [this]; decide +kernel

/-- A START of no carve, a launch of one; a grant up to the limit; the override of the sailing itself, and its end. -/
theorem witness_Scheduling :
    (Runs (recordState loadFibre) loadFibre loadCrew ∧ loadFibre.fence = none ∧ lookup (recordState loadFibre).contexts loadCrew.ctx = some loadContext ∧
      envOf (recordState loadFibre) loadCrew = some baseEnv ∧ Free loadFibre 11#4 ∧ loadFibre.sReplay = none ∧ (0x8020#64 : Word).toNat % 32 = 0 ∧
      Holds (recordState loadFibre) baseEnv 0x8020#64 32 .read (List.replicate 32 0#8) ∧ childOk (recordState loadFibre) (recordOf (List.replicate 32 0#8)) = true ∧
      loadContext.crossingReady = true ∧ (0 : Nat) ≤ loadCrew.bi.toNat - 1 ∧
      ∃ k, placeOn (recordState loadFibre) (diesOf (recordState loadFibre) loadContext)
        { recordOf (List.replicate 32 0#8) with w3 := stampPartition loadContext (recordOf (List.replicate 32 0#8)).w3 } = some k) ∧
    (launchesFull (recordState loadFibre) = false ∧ (0x8040#64 : Word).toNat % 64 = 0 ∧ Holds (recordState loadFibre) baseEnv 0x8040#64 64 .read launchBytes ∧
      childOk (recordState loadFibre) (recordOf launchBytes) = true ∧ (launchFields launchBytes).join = 0#64 ∧ (launchFields launchBytes).most = 1 ∧ (launchFields launchBytes).reserved = 0 ∧
      (∀ T, Refilled (recordState loadFibre) baseEnv T →
        resolveLanding { recordState loadFibre with tlb := T } baseEnv 0 landingRef .read = .word (bankPlace 0 0xBFFF0) none) ∧ localForm landingRef = true ∧
      Sound (recordState loadFibre) (wordSpots (bankPlace 0 0xBFFF0) none) [3#8, 0#8, 0#8, 0#8, 2#8, 0#8, 0#8, 0#8, 5#8, 0#8, 1#8, 0#8, 0#8, 0#8, 0#8, 0#8] ∧
      (readWord (recordState loadFibre) (bankPlace 0 0xBFFF0) none).ok = true) ∧
    loadCrew.own.topUp = true ∧ { loadCrew.own with topUp := false }.topUp = false ∧
    (loadCrew.own.priv = true ∧ (∃ n d, contextOf (recordState loadFibre) (0 / 256) (0 % 64) = some (n, d)) ∧ (16 : Nat) ≤ 16 ∧ Runs (plainState loadFibre) loadFibre plainCrew ∧ plainCrew.own.priv = false) :=
  ⟨⟨record_runs _, rfl, by decide +kernel, base_env, free_load _ _ rfl rfl, rfl, by decide, record_holds _ _ _ _ (by decide +kernel) (by decide +kernel),
      by decide +kernel, by decide, by decide, Option.isSome_iff_exists.1 (by decide +kernel)⟩,
    ⟨by decide +kernel, by decide, record_holds _ _ _ _ (by decide +kernel) (by decide +kernel), by decide +kernel, by decide +kernel, by decide +kernel,
      by decide +kernel, fun T _ => launch_place T, by decide, sound_of (by decide +kernel) (by decide +kernel), by decide +kernel⟩,
    rfl, rfl, rfl, ⟨_, _, rfl⟩, by decide, plain_runs _, rfl⟩

/-- Two fibres of a berth: the other has not arrived, or waits with the set of both. -/
def berthState (w : Option Wait) : State := { base with fibres := [(0, loadFibre), (1, { loadFibre with sWait := w })] }

theorem berth_runs (w : Option Wait) : Runs (berthState w) loadFibre loadCrew := by
  have h : bankOfFibre (berthState w).cur = 0 := by
    have : (berthState w).cur = 0 := rfl
    rw [this]; rfl
  exact ⟨rfl, by rw [h]; exact base_crew, base_context⟩

theorem witness_BerthBarriers :
    (Runs (berthState none) loadFibre loadCrew ∧ loadFibre.fence = none ∧ loadFibre.sWait = none ∧ loadFibre.handler = none ∧ loadFibre.clauses = [] ∧ loadFibre.ended = false ∧
      3#4 = presentMask (berthState none) 0 ∧ (3#4).getLsbD 0 = true ∧ arrivedWith (berthState none) 0 1 = none ∧ arrivedWith (berthState (some (.fbar 3#4))) 0 1 = some 3#4) ∧
    (roleRefused base 0 0 0 loadCrew = none ∧ roleRefused base 0 1 0 loadCrew = some 1) ∧
    (lookup (withFibre { loadFibre with sWait := some (.role 0 0) }).fibres 0 = some { loadFibre with sWait := some (.role 0 0) } ∧
      drained (withFibre { loadFibre with sWait := some (.role 0 0) }) 0 { loadFibre with sWait := some (.role 0 0) } = true ∧
      (∃ r d, loadCrew.block.roles[0]? = some r ∧ roleWindow r.window 0 = some d) ∧ loadCrew.g = false) ∧
    loadFibre.lpend = [] ∧ (∀ e ∈ base.engines, ownedBy base base.cur e.2.serial e.2.fibre = false) ∧ loadFibre.aflags.setWidth 6 &&& 63#6 = 0#6 ∧ ({ loadFibre with aflags := 1#64 }).aflags.setWidth 6 &&& 1#6 ≠ 0#6 :=
  ⟨⟨berth_runs _, rfl, rfl, rfl, rfl, rfl, by decide +kernel, by decide, by decide +kernel, by decide +kernel⟩, ⟨by decide +kernel, by decide +kernel⟩,
    ⟨rfl, by decide +kernel, ⟨_, _, rfl, rfl⟩, rfl⟩, rfl, by decide +kernel, by decide, by decide⟩

theorem witness_TrapEntry :
    (Runs (withCrew handlerCrew loadFibre) loadFibre handlerCrew ∧ loadFibre.fence = none ∧ loadFibre.handler = none ∧ handlerCrew.trapbase.getLsbD 0 = true) ∧
    (Runs base loadFibre loadCrew ∧ lookup base.contexts loadCrew.ctx = some loadContext ∧ loadCrew.trapbase.getLsbD 0 = false ∧ loadFibre.laneOpsDone = true) ∧
    (fibreHandler (frameOf .soft false) 0#64).handler.isSome = true ∧ (loadFibre.em &&& loadFibre.readP 1#3 = 0#32) ∧
    { loadFibre with em := 1#32 }.em &&& { loadFibre with em := 1#32 }.readP 0#3 ≠ 0#32 :=
  ⟨⟨withCrew_runs _ _ rfl, rfl, rfl, by decide⟩, ⟨base_runs, by decide +kernel, by decide, by decide⟩, rfl, by decide, by decide⟩

/-- A fibre in its handler for the last word of a clause, whose flag 11 the word has raised. -/
def fibreSkipped : Fibre :=
  { fibreHandler (frameOf .memPermit true) 0#64 with
    clauses := [clauseOne], running := some { len := 1, fa := 11#4, fb := 15#4, wait := 0#12, started := true, pos := 1 }, lRaised := some 11 }

theorem witness_TrapReturn :
    (Runs base loadFibre loadCrew ∧ loadFibre.fence = none ∧ loadFibre.handler = none) ∧
    (Runs (withFibre (fibreHandler (frameOf .memPermit true) 6#64)) (fibreHandler (frameOf .memPermit true) 6#64) loadCrew ∧
      (fibreHandler (frameOf .memPermit true) 6#64).handler = some (frameOf .memPermit true) ∧ ((fibreHandler (frameOf .memPermit true) 6#64).readS 5#6).toNat % 4 ≠ 0) ∧
    ((fibreHandler (frameOf .soft false) 4#64).handler = some (frameOf .soft false) ∧ ((fibreHandler (frameOf .soft false) 4#64).readS 5#6).toNat % 4 = 0) ∧
    (Runs (withFibre fibreSkipped) fibreSkipped loadCrew ∧ fibreSkipped.handler = some (frameOf .memPermit true) ∧ (frameOf .memPermit true).lane = true ∧
      (frameOf .memPermit true).trap.cause.resumesAfter = false ∧ ∃ run, fibreSkipped.running = some run ∧ fibreSkipped.clauses = [clauseOne] ∧ run.pos = run.len) :=
  ⟨⟨base_runs, rfl, rfl⟩, ⟨withFibre_runs _, rfl, by decide⟩, ⟨rfl, by decide⟩, ⟨withFibre_runs _, rfl, rfl, rfl, _, rfl, rfl, rfl⟩⟩

/-! ### Hypotheses that can be met: lane words -/

/-- The fibre with a clause taken, lanes 0 and 31 enabled, and s5 at the CLS. -/
def laneFibre (v : Word) : Fibre :=
  { loadLaneFibre with
    em := 0x80000001#32
    clauses := [{ header := BitVec.ofNat 64 (loadAddress - 12), serial := 0, snapshot := (Vector.replicate 64 0#64).set 5 v, awaiting := [] }] }

def laneClause (v : Word) : Clause := { header := BitVec.ofNat 64 (loadAddress - 12), serial := 0, snapshot := (Vector.replicate 64 0#64).set 5 v, awaiting := [] }

def laneRunning : Running := { len := 1, fa := 15#4, fb := 15#4, wait := 0#12, started := true, pos := 1 }

/-- What `LaneRuns` asks of a word beyond its fibre. -/
def laneRunsB (s : State) (f : Fibre) (c : Clause) (w : LaneWord) (pair : Bool) : Bool :=
  (windowCause f w pair).isNone && (scalarsNamed w).all (fun r => c.awaiting.all (fun a => a.1 != r)) &&
    (regsNamed f w pair).all (fun r => decide (r < 256) && lineHeld s s.cur (r / 4)) && f.lpend.isEmpty

/-- The slot of the loaded package holds no error, and nothing written in this clock. -/
theorem register_clean (f : Fibre) (r : Nat) : RegisterClean (withFibre f) r := by
  have e : slotOf (withFibre f) (slotOfFibre (withFibre f).cur) = loadSlot := by
    show slotOf base (slotOfFibre base.cur) = loadSlot
    decide +kernel
  unfold RegisterClean
  rw [e]
  refine ⟨fun u _ => by simp [Slot.marked, loadSlot], fun m => by unfold Slot.lasting; split <;> rfl⟩

theorem laneRuns_of (v : Word) (w : LaneWord) (pair : Bool) (h : laneRunsB (withFibre (laneFibre v)) (laneFibre v) (laneClause v) w pair = true) :
    LaneRuns (withFibre (laneFibre v)) (laneFibre v) loadCrew (laneClause v) laneRunning w pair := by
  simp only [laneRunsB, Bool.and_eq_true, Option.isNone_iff_eq_none, List.all_eq_true, bne_iff_ne, decide_eq_true_eq, List.isEmpty_iff] at h
  refine ⟨withFibre_runs _, rfl, rfl, rfl, h.1.1.1, fun r hr a ha => h.1.1.2 r hr a ha, fun r hr => ⟨(h.1.2 r hr).1, (h.1.2 r hr).2, register_clean _ r⟩, ?_⟩
  rw [h.2]; exact fun p hp => (List.not_mem_nil hp).elim

/-- A lane word with lanes from p0, one segment, no modifier. -/
def laneWord (d a b c : Operand) : LaneWord := { sw := false, pn := false, pi := 0#3, count := 0#12, sat := false, rm := 0#3, ty := 0#3, d, a, b, c }

def reg (n : Nat) (last : Bool := false) : Operand := .reg (BitVec.ofNat 8 n) last 0#4

theorem base_noErrors (f : Fibre) : NoErrors (withFibre f) := by
  refine ⟨rfl, rfl, fun k b h => ?_⟩
  have e : (withFibre f).banks = [(0, { state := .running, store := [], units := [], latent := [], poison := [], armed := [] })] := rfl
  rw [e] at h
  simp only [lookup] at h
  split at h
  · cases h; exact ⟨rfl, rfl⟩
  · cases h

/-- An IADD of v1, read for the last time, and one of three segments from the scratchpad's last 640 bytes. -/
theorem witness_LaneElementwise :
    (laneFields (.iadd (laneWord (reg 8) (reg 0) (reg 1 true) .unused)) = some (.iadd, laneWord (reg 8) (reg 0) (reg 1 true) .unused) ∧
      (∃ e, laneSpec .iadd (laneWord (reg 8) (reg 0) (reg 1 true) .unused) = some (false, e)) ∧ wellFormed (.iadd (laneWord (reg 8) (reg 0) (reg 1 true) .unused)) = true ∧
      LaneRuns (withFibre (laneFibre 0#64)) (laneFibre 0#64) loadCrew (laneClause 0#64) laneRunning (laneWord (reg 8) (reg 0) (reg 1 true) .unused) false ∧
      SweepsHold (withFibre (laneFibre 0#64)) (laneFibre 0#64) (laneClause 0#64) (laneWord (reg 8) (reg 0) (reg 1 true) .unused)) ∧
    let w : LaneWord := { laneWord (reg 8) (.sweep 5#6 16#7) (reg 8) .unused with count := 3#12 }
    wellFormed (.iadd w) = true ∧ LaneRuns (withFibre (laneFibre 0xBFD80#64)) (laneFibre 0xBFD80#64) loadCrew (laneClause 0xBFD80#64) laneRunning w false ∧
      SweepsHold (withFibre (laneFibre 0xBFD80#64)) (laneFibre 0xBFD80#64) (laneClause 0xBFD80#64) w := by
  refine ⟨⟨rfl, ⟨_, rfl⟩, by decide +kernel, laneRuns_of _ _ _ (by decide +kernel), fun h => (h (by decide +kernel)).elim, fun y hy => ?_⟩,
    by decide +kernel, laneRuns_of _ _ _ (by decide +kernel), fun _ => base_noErrors _, fun y hy => ?_⟩
  · have e : sweepsNamed (laneClause 0#64) (laneWord (reg 8) (reg 0) (reg 1 true) .unused) = [] := by decide +kernel
    rw [e] at hy; exact (List.not_mem_nil hy).elim
  · have e : sweepsNamed (laneClause 0xBFD80#64) { laneWord (reg 8) (.sweep 5#6 16#7) (reg 8) .unused with count := 3#12 } = [(0xBFD80, 16#7)] := by decide +kernel
    rw [e, List.mem_singleton] at hy; subst hy
    have a : activeLanes (laneFibre 0xBFD80#64) { laneWord (reg 8) (.sweep 5#6 16#7) (reg 8) .unused with count := 3#12 } = 0x80000001#32 := by decide +kernel
    refine ⟨by decide, fun l hl seg hs => ?_⟩
    rw [a] at hl
    have hl' : l = 0 ∨ l = 31 := by
      have : ∀ l < 32, (0x80000001#32).getLsbD l = true → l = 0 ∨ l = 31 := by decide
      by_cases h : l < 32
      · exact this l h hl
      · rw [BitVec.getLsbD_of_ge _ _ (by omega)] at hl; cases hl
    have hs' : seg = 0 ∨ seg = 1 ∨ seg = 2 := by
      have : max (3#12 : BitVec 12).toNat 1 = 3 := by decide
      have hs : seg < 3 := by rw [← this]; exact hs
      omega
    rcases hl' with rfl | rfl <;> rcases hs' with rfl | rfl | rfl <;> exact ⟨by decide +kernel, by decide +kernel, by decide +kernel⟩

theorem witness_LaneLongLatency :
    laneFields (.fdiv (laneWord (reg 8) (reg 0) (reg 1) .unused)) = some (.fdiv, laneWord (reg 8) (reg 0) (reg 1) .unused) ∧
    (∃ e, laneSpec .fdiv (laneWord (reg 8) (reg 0) (reg 1) .unused) = some (true, e)) ∧ wellFormed (.fdiv (laneWord (reg 8) (reg 0) (reg 1) .unused)) = true ∧
    LaneRuns (withFibre (laneFibre 0#64)) (laneFibre 0#64) loadCrew (laneClause 0#64) laneRunning (laneWord (reg 8) (reg 0) (reg 1) .unused) false ∧
    SweepsHold (withFibre (laneFibre 0#64)) (laneFibre 0#64) (laneClause 0#64) (laneWord (reg 8) (reg 0) (reg 1) .unused) ∧
    ∀ k, laneRunning.flagFor false = some k → (laneFibre 0#64).flag k < 15 := by
  refine ⟨rfl, ⟨_, rfl⟩, by decide +kernel, laneRuns_of _ _ _ (by decide +kernel), ⟨fun h => (h (by decide +kernel)).elim, fun y hy => ?_⟩, fun k h => ?_⟩
  · have e : sweepsNamed (laneClause 0#64) (laneWord (reg 8) (reg 0) (reg 1) .unused) = [] := by decide +kernel
    rw [e] at hy; exact (List.not_mem_nil hy).elim
  · have e : laneRunning.flagFor false = none := by decide +kernel
    rw [e] at h; cases h

/-- A word of each kind that writes a predicate or `em`. -/
theorem witness_LaneCompares :
    laneFields (.icmpeq (laneWord (.pred 7#3) (reg 0) (.imm 0xFFF#13) .unused)) = some (.icmpeq, laneWord (.pred 7#3) (reg 0) (.imm 0xFFF#13) .unused) ∧
    (∃ C, compareSpec .icmpeq (laneWord (.pred 7#3) (reg 0) (.imm 0xFFF#13) .unused) = some C) ∧ wellFormed (.icmpeq (laneWord (.pred 7#3) (reg 0) (.imm 0xFFF#13) .unused)) = true ∧
    LaneRuns (withFibre (laneFibre 0#64)) (laneFibre 0#64) loadCrew (laneClause 0#64) laneRunning (laneWord (.pred 7#3) (reg 0) (.imm 0xFFF#13) .unused) false :=
  ⟨rfl, ⟨_, rfl⟩, by decide +kernel, laneRuns_of _ _ _ (by decide +kernel)⟩

theorem witness_LanePredicates :
    (wellFormed (.pandn (laneWord (.pred 7#3) (.pred 1#3) (.pred 2#3) .unused)) = true ∧
      LaneRuns (withFibre (laneFibre 0#64)) (laneFibre 0#64) loadCrew (laneClause 0#64) laneRunning (laneWord (.pred 7#3) (.pred 1#3) (.pred 2#3) .unused) false) ∧
    (wellFormed (.vall (laneWord (.pred 7#3) (.pred 1#3) .unused .unused)) = true ∧
      LaneRuns (withFibre (laneFibre 0#64)) (laneFibre 0#64) loadCrew (laneClause 0#64) laneRunning (laneWord (.pred 7#3) (.pred 1#3) .unused .unused) false) ∧
    (wellFormed (.emget (laneWord (.pred 7#3) .unused .unused .unused)) = true ∧
      LaneRuns (withFibre (laneFibre 0#64)) (laneFibre 0#64) loadCrew (laneClause 0#64) laneRunning (laneWord (.pred 7#3) .unused .unused .unused) false) ∧
    (wellFormed (.emand (laneWord .unused (.scalar 5#6) .unused .unused)) = true ∧ wellFormed (.emset (laneWord .unused (.imm 0x1FFF#13) .unused .unused)) = true ∧
      LaneRuns (withFibre (laneFibre 0#64)) (laneFibre 0#64) loadCrew (laneClause 0#64) laneRunning (laneWord .unused (.scalar 5#6) .unused .unused) false) :=
  ⟨⟨by decide +kernel, laneRuns_of _ _ _ (by decide +kernel)⟩, ⟨by decide +kernel, laneRuns_of _ _ _ (by decide +kernel)⟩,
    ⟨by decide +kernel, laneRuns_of _ _ _ (by decide +kernel)⟩, ⟨by decide +kernel, by decide +kernel, laneRuns_of _ _ _ (by decide +kernel)⟩⟩

/-- A word of each kind that crosses lanes; TOPK of 16 into v30 and v31. -/
theorem witness_LaneCrossing :
    (wellFormed (.shfl (laneWord (reg 6) (reg 2) (.imm 31#13) .unused)) = true ∧
      LaneRuns (withFibre (laneFibre 0#64)) (laneFibre 0#64) loadCrew (laneClause 0#64) laneRunning (laneWord (reg 6) (reg 2) (.imm 31#13) .unused) false) ∧
    (wellFormed (.laneSel (laneWord (reg 6) (reg 2) (.scalar 5#6) (.pred 3#3))) = true ∧
      LaneRuns (withFibre (laneFibre 0#64)) (laneFibre 0#64) loadCrew (laneClause 0#64) laneRunning (laneWord (reg 6) (reg 2) (.scalar 5#6) (.pred 3#3)) false) ∧
    (wellFormed (.ballot (laneWord (reg 6) (.pred 1#3) .unused .unused)) = true ∧
      LaneRuns (withFibre (laneFibre 0#64)) (laneFibre 0#64) loadCrew (laneClause 0#64) laneRunning (laneWord (reg 6) (.pred 1#3) .unused .unused) false) ∧
    (wellFormed (.redadd { laneWord (reg 7) (reg 1) .unused .unused with ty := 2#3, rm := 4#3 }) = true ∧
      LaneRuns (withFibre (laneFibre 0#64)) (laneFibre 0#64) loadCrew (laneClause 0#64) laneRunning { laneWord (reg 7) (reg 1) .unused .unused with ty := 2#3, rm := 4#3 } false) ∧
    (wellFormed (.topk (laneWord (reg 30) (reg 1) (.imm 16#13) .unused)) = true ∧
      LaneRuns (withFibre (laneFibre 0#64)) (laneFibre 0#64) loadCrew (laneClause 0#64) laneRunning (laneWord (reg 30) (reg 1) (.imm 16#13) .unused) true) ∧
    (wellFormed (.seed (laneWord .unused (reg 1) .unused .unused)) = true ∧
      LaneRuns (withFibre (laneFibre 0#64)) (laneFibre 0#64) loadCrew (laneClause 0#64) laneRunning (laneWord .unused (reg 1) .unused .unused) false) ∧
    (wellFormed (.lnop (laneWord .unused .unused .unused .unused)) = true ∧
      LaneRuns (withFibre (laneFibre 0#64)) (laneFibre 0#64) loadCrew (laneClause 0#64) laneRunning (laneWord .unused .unused .unused .unused) false) :=
  ⟨⟨by decide +kernel, laneRuns_of _ _ _ (by decide +kernel)⟩, ⟨by decide +kernel, laneRuns_of _ _ _ (by decide +kernel)⟩,
    ⟨by decide +kernel, laneRuns_of _ _ _ (by decide +kernel)⟩, ⟨by decide +kernel, laneRuns_of _ _ _ (by decide +kernel)⟩,
    ⟨by decide +kernel, laneRuns_of _ _ _ (by decide +kernel)⟩, ⟨by decide +kernel, laneRuns_of _ _ _ (by decide +kernel)⟩,
    ⟨by decide +kernel, laneRuns_of _ _ _ (by decide +kernel)⟩⟩

/-- The lane accesses: base s5, byte offsets from an immediate. -/
def loadWord : LaneWord := laneWord (reg 8) (.scalar 5#6) (.imm 4#13) .unused
def storeWord : LaneWord := laneWord .unused (.scalar 5#6) (.imm 4#13) (reg 1)
def atomicWord : LaneWord := laneWord (reg 8) (.scalar 5#6) (.imm 4#13) (reg 1)

/-- The spots of every lane's access there: the four bytes at 0x7FFFC, and the last four of the scratchpad. -/
theorem test_lanes (w : LaneWord) (hw : w = loadWord ∨ w = storeWord ∨ w = atomicWord) :
    lanesOf (activeLanes (laneFibre 0x7FFF8#64) w) = [0, 31] := by
  rcases hw with rfl | rfl | rfl <;> decide +kernel

theorem lanesReach_of (w : LaneWord) (d : Deed) (hl : lanesOf (activeLanes (laneFibre 0x7FFF8#64) w) = [0, 31])
    (ha : ∀ l ∈ [0, 31], spots (withFibre (laneFibre 0x7FFF8#64)) baseEnv (accessAddress (withFibre (laneFibre 0x7FFF8#64)) (laneFibre 0x7FFF8#64) (laneClause 0x7FFF8#64) w false l) 4
      d.want false = .ok (baseSpots 0x7FFFC#64 4 d.want))
    (hd : accessDelay (withFibre (laneFibre 0x7FFF8#64)) 0 (laneFibre 0x7FFF8#64) true d 2 ([0, 31].map (fun _ => .ok (baseSpots 0x7FFFC#64 4 d.want))) = none) :
    LanesReach (withFibre (laneFibre 0x7FFF8#64)) (laneFibre 0x7FFF8#64) loadCrew (laneClause 0x7FFF8#64) w false 4 d (fun _ => baseSpots 0x7FFFC#64 4 d.want) :=
  ⟨rfl, fun l h => ⟨fun h => (by cases h), fun _ => ⟨baseEnv, base_env, ha l (by rw [← hl]; exact h)⟩⟩,
    fun _ _ _ => walkedAll_unbroken (s := withFibre (laneFibre 0x7FFF8#64)) base_unbroken _ _ _, by rw [hl]; exact hd⟩

theorem lanesReachLocal_of (w : LaneWord) (d : Deed) (hl : lanesOf (activeLanes (laneFibre 0xBFFF8#64) w) = [0, 31])
    (ha : ∀ l ∈ [0, 31], localSpots (withFibre (laneFibre 0xBFFF8#64)) 0
      (accessAddress (withFibre (laneFibre 0xBFFF8#64)) (laneFibre 0xBFFF8#64) (laneClause 0xBFFF8#64) w true l).toNat 4 = some (baseLocal 0xBFFFC 4))
    (hd : accessDelay (withFibre (laneFibre 0xBFFF8#64)) 0 (laneFibre 0xBFFF8#64) true d 2 ([0, 31].map (fun _ => .ok (baseLocal 0xBFFFC 4))) = none) :
    LanesReach (withFibre (laneFibre 0xBFFF8#64)) (laneFibre 0xBFFF8#64) loadCrew (laneClause 0xBFFF8#64) w true 4 d (fun _ => baseLocal 0xBFFFC 4) :=
  ⟨rfl, fun l h => ⟨fun _ => ha l (by rw [← hl]; exact h), fun h => (by cases h)⟩,
    fun h => (by cases h), by rw [hl]; exact hd⟩

theorem test_noFlag (mem : Bool) : ∀ k, laneRunning.flagFor mem = some k → (laneFibre 0#64).flag k < 15 := by
  intro k h
  have e : ∀ mem, laneRunning.flagFor mem = none := by decide
  rw [e] at h; cases h

theorem witness_LaneMemory :
    (wellFormed (.ldg loadWord) = true ∧ wellFormed (.lds loadWord) = true ∧
      LaneRuns (withFibre (laneFibre 0x7FFF8#64)) (laneFibre 0x7FFF8#64) loadCrew (laneClause 0x7FFF8#64) laneRunning loadWord false ∧
      (∀ k, laneRunning.flagFor true = some k → (laneFibre 0x7FFF8#64).flag k < 15) ∧ (4, false) = accessType loadWord.ty ∧
      LanesReach (withFibre (laneFibre 0x7FFF8#64)) (laneFibre 0x7FFF8#64) loadCrew (laneClause 0x7FFF8#64) loadWord false 4 .load (fun _ => baseSpots 0x7FFFC#64 4 .read) ∧
      Seen (withFibre (laneFibre 0x7FFF8#64)) (baseSpots 0x7FFFC#64 4 .read) (List.replicate 4 0#8) ∧
      LanesReach (withFibre (laneFibre 0xBFFF8#64)) (laneFibre 0xBFFF8#64) loadCrew (laneClause 0xBFFF8#64) loadWord true 4 .load (fun _ => baseLocal 0xBFFFC 4)) ∧
    wellFormed (.stg storeWord) = true ∧ wellFormed (.sts storeWord) = true ∧
      LanesReach (withFibre (laneFibre 0x7FFF8#64)) (laneFibre 0x7FFF8#64) loadCrew (laneClause 0x7FFF8#64) storeWord false 4 (.store 0) (fun _ => baseSpots 0x7FFFC#64 4 .write) ∧
      Storable (withFibre (laneFibre 0x7FFF8#64)) (baseSpots 0x7FFFC#64 4 .write) none ∧
      LanesReach (withFibre (laneFibre 0xBFFF8#64)) (laneFibre 0xBFFF8#64) loadCrew (laneClause 0xBFFF8#64) storeWord true 4 (.store 0) (fun _ => baseLocal 0xBFFFC 4) ∧
      Storable (withFibre (laneFibre 0xBFFF8#64)) (baseLocal 0xBFFFC 4) none :=
  ⟨⟨by decide +kernel, by decide +kernel, laneRuns_of _ _ _ (by decide +kernel), test_noFlag true, by decide +kernel,
      lanesReach_of loadWord .load (by decide +kernel) (by decide +kernel) (by decide +kernel), seen_of base_unbroken (by decide +kernel),
      lanesReachLocal_of loadWord .load (by decide +kernel) (by decide +kernel) (by decide +kernel)⟩,
    by decide +kernel, by decide +kernel, lanesReach_of storeWord (.store 0) (by decide +kernel) (by decide +kernel) (by decide +kernel),
    storable_of base_unbroken (by decide +kernel), lanesReachLocal_of storeWord (.store 0) (by decide +kernel) (by decide +kernel) (by decide +kernel),
    storable_of base_unbroken (by decide +kernel)⟩

theorem test_closed : ∀ x ∈ baseSpots 0x7FFFC#64 4 .write, ∀ p, x.place = some p →
    inTileFile p = false ∧ openByte (withFibre (laneFibre 0x7FFF8#64)) p = false := by
  have h : (baseSpots 0x7FFFC#64 4 .write).all (fun x => match x.place with
      | some p => !inTileFile p && !openByte (withFibre (laneFibre 0x7FFF8#64)) p
      | none => true) = true := by decide +kernel
  intro x hx p hp
  have := List.all_eq_true.1 h x hx
  rw [hp] at this
  simpa using this

/-- Two lanes that update one location. -/
theorem witness_LaneAtomics :
    wellFormed (.gaadd atomicWord) = true ∧ (∃ g, laneAtomicSpec .gaadd = some (false, g)) ∧ (∃ g, laneAtomicSpec .lacas = some (true, g)) ∧
    LaneRuns (withFibre (laneFibre 0x7FFF8#64)) (laneFibre 0x7FFF8#64) loadCrew (laneClause 0x7FFF8#64) laneRunning atomicWord false ∧
    LanesReach (withFibre (laneFibre 0x7FFF8#64)) (laneFibre 0x7FFF8#64) loadCrew (laneClause 0x7FFF8#64) atomicWord false 4 (.update some) (fun _ => baseSpots 0x7FFFC#64 4 .write) ∧
    (∀ l ∈ [0, 31], Storable (withFibre (laneFibre 0x7FFF8#64)) (baseSpots 0x7FFFC#64 4 .write) none ∧
      (accessAddress (withFibre (laneFibre 0x7FFF8#64)) (laneFibre 0x7FFF8#64) (laneClause 0x7FFF8#64) atomicWord false l).toNat % 4 = 0 ∧
      Seen (withFibre (laneFibre 0x7FFF8#64)) (baseSpots 0x7FFFC#64 4 .write) (leBytes 4 (0#32 : Lane).toNat)) ∧
    (∀ x ∈ baseSpots 0x7FFFC#64 4 .write, ∀ p, x.place = some p → inTileFile p = false ∧ openByte (withFibre (laneFibre 0x7FFF8#64)) p = false) ∧
    LanesReach (withFibre (laneFibre 0xBFFF8#64)) (laneFibre 0xBFFF8#64) loadCrew (laneClause 0xBFFF8#64) atomicWord true 4 (.update some) (fun _ => baseLocal 0xBFFFC 4) :=
  ⟨by decide +kernel, ⟨_, rfl⟩, ⟨_, rfl⟩, laneRuns_of _ _ _ (by decide +kernel), lanesReach_of atomicWord (.update some) (by decide +kernel) (by decide +kernel) (by decide +kernel),
    fun l hl => ⟨storable_of base_unbroken (by decide +kernel), by
      have : ∀ l ∈ [0, 31], (accessAddress (withFibre (laneFibre 0x7FFF8#64)) (laneFibre 0x7FFF8#64) (laneClause 0x7FFF8#64) atomicWord false l).toNat % 4 = 0 := by decide +kernel
      exact this l hl, seen_of base_unbroken (by decide +kernel)⟩, test_closed,
    lanesReachLocal_of atomicWord (.update some) (by decide +kernel) (by decide +kernel) (by decide +kernel)⟩

/-- A fibre whose window maps 8 registers; a sweep that runs past the scratchpad; a lane past it; a misaligned atomic. -/
theorem witness_LaneTraps :
    (∃ f : Fibre, windowCause f (laneWord (reg 8) (reg 0) (reg 1) .unused) false = some .regUnmapped) ∧
    ((sweepsNamed (laneClause 0xBFFF0#64) (laneWord (reg 8) (.sweep 5#6 0#7) (reg 1) .unused)).findSome?
        (fun y => sweepFails (withFibre (laneFibre 0xBFFF0#64)) 0 y.1 y.2 1 0x80000001#32) = some 0xC006C ∧
      LaneRuns (withFibre (laneFibre 0xBFFF0#64)) (laneFibre 0xBFFF0#64) loadCrew (laneClause 0xBFFF0#64) laneRunning (laneWord (reg 8) (.sweep 5#6 0#7) (reg 1) .unused) false) ∧
    ((lanesOf 0x80000001#32).find? (fun l => (localSpots (withFibre (laneFibre 0xC0000#64)) 0
        (accessAddress (withFibre (laneFibre 0xC0000#64)) (laneFibre 0xC0000#64) (laneClause 0xC0000#64) loadWord true l).toNat (accessType loadWord.ty).1).isNone) = some 0 ∧
      LaneRuns (withFibre (laneFibre 0xC0000#64)) (laneFibre 0xC0000#64) loadCrew (laneClause 0xC0000#64) laneRunning loadWord false ∧ loadWord.count = 0#12 ∧
      (laneFibre 0xC0000#64).lReplay = none) ∧
    (lanesOf 0x80000001#32).find? (fun l => (accessAddress (withFibre (laneFibre 0x7FFFA#64)) (laneFibre 0x7FFFA#64) (laneClause 0x7FFFA#64) atomicWord false l).toNat % 4 != 0) = some 0 :=
  ⟨⟨{ laneFibre 0#64 with window := 2#64 }, by decide +kernel⟩, ⟨by decide +kernel, laneRuns_of _ _ _ (by decide +kernel)⟩,
    ⟨by decide +kernel, laneRuns_of _ _ _ (by decide +kernel), rfl, rfl⟩, by decide +kernel⟩

/-- A load's result for s5, a lane operation with results for v8, and a FENCE with nothing before it. -/
def pendingFibre : Fibre :=
  { laneFibre 0#64 with
    spend := [{ id := 4, dest := 5#6, value := some 9#64, live := true }]
    lpend := [{ id := 5, reg := some 8, mask := 1#32, value := zeroVec, cells := [], marks := [0], aflags := 0#6, flag := none, clause := 0 }] }

theorem witness_Completions :
    (lookup (withFibre pendingFibre).fibres 0 = some pendingFibre ∧ pendingFibre.spend.find? (fun q => q.id == 4) = some { id := 4, dest := 5#6, value := some 9#64, live := true }) ∧
    (pendingFibre.fence = none ∧ RegisterClean (withFibre pendingFibre) 8 ∧ (∃ p, pendingFibre.lpend.find? (fun q => q.id == 5) = some p ∧ p.reg = some 8 ∧ p.marks = [0] ∧ p.cells = []) ∧
      (lookup (slotOf (withFibre pendingFibre) 0).lines (8 / 4)).isSome = true) ∧
    ∃ x, (fibreFence 0#64).fence = some x ∧ x.partials (withFibre (fibreFence 0#64)) = [] ∧ (fibreFence 0#64).prefenceDone x = true ∧ enginesDone (withFibre (fibreFence 0#64)) 0 x.scope x.engines x.remote = true ∧ x.heldTrap = none :=
  ⟨⟨rfl, by decide +kernel⟩, ⟨rfl, register_clean _ _, ⟨_, rfl, rfl, rfl, rfl⟩, by decide +kernel⟩, _, rfl, by decide +kernel, by decide +kernel, by decide +kernel, rfl⟩

/-! ### Hypotheses that can be met: clauses, lines, page requests -/

/-- The loaded package with a clause header of five words at the load address. -/
def headerState (f : Fibre) : State :=
  { base with
    mem := [(0x1000, 0x01#8), (0x1001, 0x20#8), (0x2000, 0x1F#8), (0x2002, 0x04#8), (0x10009, 0xFF#8), (0x1000A, 0xC5#8), (0x1000B, 0xFF#8)]
    fibres := [(0, f)] }

/-- A fibre with one clause queued, none running. -/
def clauseAt (header : Word) : Clause := { header := header, serial := 0, snapshot := Vector.replicate 64 0#64, awaiting := [] }
def queuedFibre (header : Word) : Fibre := { loadFibre with clauses := [clauseAt header] }

theorem header_runs (f : Fibre) : Runs (headerState f) f loadCrew := by
  have h : bankOfFibre (headerState f).cur = 0 := by
    have : (headerState f).cur = 0 := rfl
    rw [this]; rfl
  exact ⟨rfl, by rw [h]; exact base_crew, base_context⟩

def headerBytes : List Byte := [0#8, 0#8, 0#8, 0#8, 0#8, 0#8, 0#8, 0#8, 0#8, 0xFF#8, 0xC5#8, 0xFF#8]
def headerSpots (v : Word) : List Spot := gotten (spots (headerState (queuedFibre v)) baseEnv v 12 .fetch false)

/-- A slot whose line 5 belongs to another place of memory. -/
def lineState (st : LineState) : State :=
  { base with
    mem := [], poison := [], memLatent := [], ciphered := []
    fibres := [(0, { loadFibre with lStall := some (.lineMiss 5, false) })]
    slots := [(0, { current := 0, dead := 0#256
                    lines := [(5, { tag := 0x30_0000, state := st, dead := 0#4, data := Vector.replicate 4 (Vector.replicate 32 1#32) })]
                    latent := [], poison := [], wrote := { clock := 0, made := [] } })] }

theorem witness_ClauseTakeAndLineFill :
    (∀ v ∈ [0x10000#64, 0x10010#64], Runs { headerState (queuedFibre v) with cur := 0 } (queuedFibre v) loadCrew ∧ (queuedFibre v).clauses = clauseAt v :: [] ∧
      (queuedFibre v).running = none ∧ laneReady (headerState (queuedFibre v)) 0 (queuedFibre v) = true ∧ envOf (headerState (queuedFibre v)) loadCrew = some baseEnv ∧
      walkedRange (headerState (queuedFibre v)) baseEnv v 12 = headerState (queuedFibre v) ∧
      spots (headerState (queuedFibre v)) baseEnv v 12 .fetch false = .ok (headerSpots v) ∧ ∀ p, loadCrew.fetched v p = none) ∧
    (Seen { headerState (queuedFibre 0x10000#64) with cur := 0, latch := 0#96 } (headerSpots 0x10000#64) headerBytes ∧
      decodeHeader (BitVec.ofNat 96 (leNat headerBytes)) = some { len := 5, fa := 15#4, fb := 15#4, wait := 0#12 }) ∧
    (Seen { headerState (queuedFibre 0x10010#64) with cur := 0, latch := 0#96 } (headerSpots 0x10010#64) (List.replicate 12 0#8) ∧ decodeHeader (BitVec.ofNat 96 (leNat (List.replicate 12 0#8))) = none) ∧
    (∀ st, lookup (lineState st).crews (bankOfFibre (4 * 0)) = some loadCrew ∧ slotOfFibre (4 * 0) = 0 ∧
      (∃ i f sw, i ∈ slotFibres (lineState st) 0 ∧ lookup (lineState st).fibres i = some f ∧ f.lStall = some (.lineMiss 5, sw)) ∧
      lineHeld (lineState st) (4 * 0) 5 = false ∧ lineTag loadCrew (4 * 0) 5 + 512 ≤ 2 ^ 40 ∧
      (∃ ln, lookup (slotOf (lineState st) 0).lines 5 = some ln ∧ ln.state = st) ∧ (slotOf (lineState st) 0).dead.getLsbD (4 * 5 + 3) = false ∧
      ∀ u, (slotOf (lineState st) 0).marked u = false) ∧
    ∀ i, i < 512 → seenByte (lineState .clean) (lineTag loadCrew (4 * 0) 5 + i) (areaKey (lineState .clean) loadCrew) = some 0#8 ∧
      Clean (lineState .clean) (lineTag loadCrew (4 * 0) 5 + i) := by
  have mem : ∀ v : Word, v ∈ [0x10000#64, 0x10010#64] → v = 0x10000#64 ∨ v = 0x10010#64 := by simp
  refine ⟨fun v hv => ⟨header_runs _, rfl, rfl, ?_, base_env, walked_unbroken (s := headerState _) base_unbroken .., ?_, fun _ => rfl⟩,
    ⟨seen_of (by decide +kernel) (by decide +kernel), by decide +kernel⟩,
    ⟨seen_of (by decide +kernel) (by decide +kernel), by decide +kernel⟩, fun st => ⟨base_crew, rfl, ⟨0, _, false, ?_, rfl, rfl⟩, ?_, by decide +kernel, ⟨_, rfl, rfl⟩, (by decide : (0#256 : BitVec 256).getLsbD (4 * 5 + 3) = false),
      fun u => rfl⟩, ?_⟩
  · rcases mem v hv with rfl | rfl <;> decide +kernel
  · rcases mem v hv with rfl | rfl <;> exact gotten_ok (by decide +kernel)
  · exact List.mem_singleton.mpr rfl
  · cases st with
    | evictable u => cases u <;> decide +kernel
    | _ => decide +kernel
  · have h : ∀ i, i < 512 → seenByte (lineState .clean) (lineTag loadCrew (4 * 0) 5 + i) (areaKey (lineState .clean) loadCrew) = some 0#8 := by decide +kernel
    exact fun i hi => ⟨h i hi, clean_unbroken (by decide +kernel) _⟩

/-! Page requests. -/

def askRequest (posted : Option Nat) : Request := { addr := 0x80000#64, ctx := 1, gen := 5#16, number := 3, kind := 1, access := 0, level := 0, posted := posted }
def askDie (posted : Option Nat) : Die := { prqBase := 0x4000#64, prqTail := 511, prqHead := 510, requests := [askRequest posted], nextRequest := 4 }
def askState (posted : Option Nat) (p : Parked) : State :=
  { base with dies := [(7, askDie posted)], time := 100000000, fibres := [(0, { loadFibre with parked := some p })] }
def askParked (outcome : Option Bool) (lane fetch : Bool) : Parked :=
  { lane := lane, mask := 1#32, die := 7, request := 3, outcome := outcome, first := 0x80008#64, addr := 0x80008#64, level := 0, word := 0#96, fetch := fetch }
def askReply (refused : Bool) : List Byte := [3#8, 0#8, 5#8, 0#8, 1#8, 0#8, 0#8, 0#8, if refused then 1#8 else 0#8, 0#8, 0#8, 0#8, 0#8, 0#8, 0#8, 0#8]

theorem witness_PageRequests :
    (let s := askState none (askParked none true false); askDie none = dieState s 7 ∧ (askDie none).requests.find? (fun r => r.posted.isNone) = some (askRequest none) ∧
      (askDie none).prqBase ≠ 0#64 ∧ ((askDie none).prqTail + 1) % 512 ≠ (askDie none).prqHead ∧ ((askDie none).requests.filter (fun r => r.posted.isSome)).length < 512 ∧
      (askDie none).prqBase.toNat + 16384 ≤ 2 ^ 52 - 2 ^ 45 ∧ (askDie none).prqTail < 512) ∧
    (∀ refused, let s := askState (some 0) (askParked none true false); let n := leNat (askReply refused)
      askDie (some 0) = dieState s 7 ∧ (askReply refused).length = 16 ∧ n / 2 ^ 64 % 256 < 2 ∧ n / 2 ^ 72 = 0 ∧
      (askDie (some 0)).requests.find? (fun q => q.number == n % 2 ^ 16 && q.gen.toNat == n / 2 ^ 16 % 2 ^ 16 && q.ctx == n / 2 ^ 32 % 2 ^ 32 && q.posted.isSome) =
        some (askRequest (some 0)) ∧
      (askDie none).requests.find? (fun q => q.number == n % 2 ^ 16 && q.gen.toNat == n / 2 ^ 16 % 2 ^ 16 && q.ctx == n / 2 ^ 32 % 2 ^ 32 && q.posted.isSome) = none ∧
      (askRequest (some 0)).posted = some 0 ∧ (askDie (some 0)).requests.find? (fun q => q.number == 3) = some (askRequest (some 0)) ∧ 0 + 100000000 ≤ s.time) ∧
    ∀ outcome lane fetch, let s := askState none (askParked outcome lane fetch)
      (∃ f, lookup s.fibres 0 = some f ∧ f.parked = some (askParked outcome lane fetch)) ∧ (askParked outcome lane fetch).outcome = outcome ∧
      lookup s.crews 0 = some loadCrew ∧ loadCrew.state = .running ∧ crewRuns s 0 loadCrew = true := by
  refine ⟨by decide +kernel, fun refused => ?_, fun o l f => ⟨⟨_, rfl, rfl⟩, rfl, base_crew, rfl, ?_⟩⟩
  · cases refused <;> decide +kernel
  · revert o l f; decide +kernel

/-! ### Hypotheses that can be met: copy commands -/

/-- The loaded package with one copy command that has moved `k` pieces. -/
def copyEngine (h : Word) (w : List Word) (k : Nat) : Engine :=
  { op := .copy h w k, fibre := 0, bank := 0, serial := 0, ctx := 1, flag := none, aflags := 0#6, arrivals := [], status := 0, placed := 0, ready := false, asked := none
    kept := [], lost := [], pages := [] }
def copyState (h : Word) (w : List Word) (k : Nat) : State :=
  { base with mem := [(0x1000, 0x01#8), (0x1001, 0x20#8), (0x2000, 0x1F#8), (0x2002, 0x04#8)], engines := [(9, copyEngine h w k)] }

def reached (r : Except CopyStop (List Spot)) : List Spot :=
  match r with
  | .ok l => l
  | .error _ => []

theorem reached_ok {r : Except CopyStop (List Spot)} (h : r.isOk = true) : r = .ok (reached r) := by
  cases r with
  | ok l => rfl
  | error x => cases h

/-- No PUBLISH is outstanding. -/
def noPublish (s : State) : Bool := s.engines.all (fun x => match x.2.op with | .publish .. => false | _ => true)

theorem split_noPublish {s : State} (h : noPublish s = true) (n : Nat) (l : List Spot) : splitShadow s n l = l := by
  have hp : ∀ p, publishing s n p = false := by
    intro p
    simp only [noPublish, List.all_eq_true] at h
    simp only [publishing, List.any_eq_false]
    intro x hx
    have := h x hx
    split
    · next hp => rw [hp] at this; cases this
    · simp
  simp [splitShadow, hp]

theorem reach_refilled {s : State} {e : Engine} {env : Env} {T : List TlbEntry} (h : Refilled s env T) (h0 : s.tlb = []) (hu : unbroken s = true)
    (hn : noPublish s = true) (loc : Bool) (b : Word)
    (o n : Nat) (w : Want) : (copyReach { s with tlb := T } e env loc b o n w).2 = (copyReach s e env loc b o n w).2 := by
  have hu' : unbroken { s with tlb := T } = true := hu
  have hn' : noPublish { s with tlb := T } = true := hn
  unfold copyReach engineSpots
  simp only [walked_unbroken hu, walked_unbroken hu', spots_refilled h h0]
  cases loc
  · simp only [Bool.false_eq_true, if_false]
    split
    · rfl
    · simp only [show swapping { s with tlb := T } = swapping s from rfl, split_noPublish hn, split_noPublish hn']
      split <;> rfl
  · simp only [if_true, show localSpots { s with tlb := T } = localSpots s from rfl]
    split <;> rfl

/-- The spots of a range of a command. -/
def copySpots (s : State) (e : Engine) (loc : Bool) (b : Word) (o n : Nat) (w : Want) : List Spot := reached (copyReach s e baseEnv loc b o n w).2

/-- What the statement asks of a range that is read. -/
def CanRead (s : State) (e : Engine) (loc : Bool) (b : Word) (o n : Nat) (data : List Byte) : Prop :=
  ∃ l, (∀ T, Refilled s baseEnv T → (copyReach { s with tlb := T } e baseEnv loc b o n .read).2 = .ok l) ∧ Seen s l data

/-- What the statement asks of a range that is written. -/
def CanWrite (s : State) (e : Engine) (loc : Bool) (b : Word) (o n : Nat) (dst : List Spot) : Prop :=
  (∀ T, Refilled s baseEnv T → (copyReach { s with tlb := T } e baseEnv loc b o n .write).2 = .ok dst) ∧ Storable s dst none

def readB (s : State) (e : Engine) (loc : Bool) (b : Word) (o n : Nat) (data : List Byte) : Bool :=
  unbroken s && s.tlb.isEmpty && noPublish s && (copyReach s e baseEnv loc b o n .read).2.isOk && seenSpots s (copySpots s e loc b o n .read) data

def writeB (s : State) (e : Engine) (loc : Bool) (b : Word) (o n : Nat) : Bool :=
  unbroken s && s.tlb.isEmpty && noPublish s && (copyReach s e baseEnv loc b o n .write).2.isOk && storableSpots (copySpots s e loc b o n .write) none

theorem can_read {s : State} {e : Engine} {loc : Bool} {b : Word} {o n : Nat} {data : List Byte} (h : readB s e loc b o n data = true) : CanRead s e loc b o n data := by
  simp only [readB, Bool.and_eq_true, List.isEmpty_iff] at h
  exact ⟨_, fun _ hT => (reach_refilled hT h.1.1.1.2 h.1.1.1.1 h.1.1.2 loc b o n .read).trans (reached_ok h.1.2), seen_of h.1.1.1.1 h.2⟩

theorem can_write {s : State} {e : Engine} {loc : Bool} {b : Word} {o n : Nat} (h : writeB s e loc b o n = true) :
    CanWrite s e loc b o n (copySpots s e loc b o n .write) := by
  simp only [writeB, Bool.and_eq_true, List.isEmpty_iff] at h
  exact ⟨fun _ hT => (reach_refilled hT h.1.1.1.2 h.1.1.1.1 h.1.1.2 loc b o n .write).trans (reached_ok h.1.2), storable_of h.1.1.1.1 h.2⟩

theorem copy_noErrors (h : Word) (w : List Word) (k : Nat) : NoErrors (copyState h w k) := by
  refine ⟨rfl, rfl, fun k b hb => ?_⟩
  simp only [copyState, show base.banks = [(0, { state := .running, store := [], units := [], latent := [], poison := [], armed := [] })] from rfl, lookup] at hb
  split at hb
  · cases hb; exact ⟨rfl, rfl⟩
  · cases hb

/-- What every piece asks of its command. -/
theorem copy_command (h : Word) (w : List Word) (k : Nat) : lookup (copyState h w k).engines 9 = some (copyEngine h w k) ∧ (copyEngine h w k).ready = false ∧
    (copyEngine h w k).asked = none ∧ (copyEngine h w k).env (copyState h w k) = some baseEnv ∧ NoErrors (copyState h w k) :=
  ⟨rfl, rfl, rfl, base_env, copy_noErrors h w k⟩

/-- A copy's last piece of one byte; and one to the scratchpad's end through a landing word. -/
def copyH : Word := 0#64
def copyW : List Word := [0x30000#64, 0x20000#64, 513#64]
def landH : Word := 0x0900000000000000#64
def landW : List Word := [0xBFFE0#64, 0x20000#64, 16#64, 0xFC000000000BFFF0#64]
/-- A gather and a scatter of words, a fill of two words of 8 bytes, a conversion of 32 FP32 to FP16, and one of 16 FP32 to E4M3 with a scale. -/
def gatherH : Word := 0x1000002000000000#64
def scatterH : Word := 0x2000002000000000#64
def pickW : List Word := [0x30000#64, 0x20000#64, 4#64, 0x40000#64]
def fillH : Word := 0x3000003000000000#64
def fillW : List Word := [0x30000#64, 0x0102030405060708#64, 16#64]
def convertH : Word := 0x4000100000000000#64
def convertW : List Word := [0x30000#64, 0x20000#64, 32#64]
def scaleH : Word := 0x4000300800000000#64
def scaleW : List Word := [0x30000#64, 0x20000#64, 16#64, 0x38000#64]

theorem witness_CopyCommands_copy :
    (copyOk copyH copyW = true ∧ copyOpc copyH = 0 ∧ 512 * 1 < copyBytes copyH copyW ∧ min 512 (copyBytes copyH copyW - 512 * 1) = 1 ∧ copyLW copyH = false) ∧
    (let s := copyState copyH copyW 1
     let e := copyEngine copyH copyW 1
     CanRead s e (copySS copyH) (copyWord copyW 2) (512 * 1) 1 [0#8] ∧
      CanWrite s e (copyDS copyH) (copyWord copyW 1) (512 * 1) 1 (copySpots s e (copyDS copyH) (copyWord copyW 1) (512 * 1) 1 .write)) ∧
    (copyOk landH landW = true ∧ copyLW landH = true) ∧
    copyLanding (copyState landH landW 0) (copyEngine landH landW 0) baseEnv landH landW = .ok (some (bankPlace 0 0xBFFF0, none)) ∧
    let s := copyState landH landW 0
    let e := copyEngine landH landW 0
    CanWrite s e (copyDS landH) (copyWord landW 1) (512 * 0) 16 (copySpots s e (copyDS landH) (copyWord landW 1) (512 * 0) 16 .write) := by
  refine ⟨by decide +kernel, ⟨can_read (by decide +kernel), can_write (by decide +kernel)⟩, by decide +kernel, ?_, can_write (by decide +kernel)⟩
  have h : (match copyLanding (copyState landH landW 0) (copyEngine landH landW 0) baseEnv landH landW with | .ok x => x | .error _ => none) =
      some (bankPlace 0 0xBFFF0, none) := by decide +kernel
  revert h
  split
  · next x hx => intro h; rw [hx, h]
  · intro h; cases h

theorem witness_CopyCommands_pick :
    (copyOk gatherH pickW = true ∧ copySize gatherH = 4 ∧ copyOk scatterH pickW = true ∧ copySize scatterH = 4 ∧ copyOpc gatherH = 1 ∧ copyOpc scatterH = 2 ∧
      512 * 0 < copyBytes gatherH pickW ∧ min 512 (copyBytes gatherH pickW - 512 * 0) = 16 ∧ 3 < copyCount pickW ∧
      ∀ i < 4, (0 : Nat) = leNat (((List.replicate 16 (0#8 : Byte)).drop (4 * i)).take 4)) ∧
    (let s := copyState gatherH pickW 0
     let e := copyEngine gatherH pickW 0
     CanRead s e (copySS gatherH) (copyWord pickW 4) (4 * (512 / copySize gatherH * 0)) (4 * (16 / copySize gatherH)) (List.replicate 16 0#8) ∧
      CanRead s e (copySS gatherH) (copyWord pickW 2) (0 * copySize gatherH) (copySize gatherH) (List.replicate 4 0#8) ∧
      CanWrite s e (copyDS gatherH) (copyWord pickW 1) (512 * 0) 16 (copySpots s e (copyDS gatherH) (copyWord pickW 1) (512 * 0) 16 .write)) ∧
    let s := copyState scatterH pickW 3
    let e := copyEngine scatterH pickW 3
    let o := leNat (List.replicate 4 0#8) * copySize scatterH
    CanRead s e (copySS scatterH) (copyWord pickW 4) (4 * 3) 4 (List.replicate 4 0#8) ∧
      CanRead s e (copySS scatterH) (copyWord pickW 2) (3 * copySize scatterH) (copySize scatterH) (List.replicate 4 0#8) ∧
      CanWrite s e (copyDS scatterH) (copyWord pickW 1) o (copySize scatterH) (copySpots s e (copyDS scatterH) (copyWord pickW 1) o (copySize scatterH) .write) :=
  ⟨by decide +kernel, ⟨can_read (by decide +kernel), can_read (by decide +kernel), can_write (by decide +kernel)⟩,
    can_read (by decide +kernel), can_read (by decide +kernel), can_write (by decide +kernel)⟩

/-- Bytes of zero, whatever the conversion of an element of zero gives. -/
def zeroBits (h : Word) (n wd : Nat) : Bool :=
  (List.range n).all (fun j => (List.range 8).all (fun b => !(convertedElement h (fun _ => 0) 0 ((8 * j + b) / wd)).1.testBit ((8 * j + b) % wd)))

theorem witness_CopyCommands_convert :
    (copyOk fillH fillW = true ∧ copyOpc fillH = 3 ∧ 512 * 0 < copyBytes fillH fillW) ∧
    (let s := copyState fillH fillW 0
     let e := copyEngine fillH fillW 0
     CanWrite s e (copyDS fillH) (copyWord fillW 1) (512 * 0) 16 (copySpots s e (copyDS fillH) (copyWord fillW 1) (512 * 0) 16 .write)) ∧
    (copyOk convertH convertW = true ∧ copyOpc convertH = 4 ∧ 512 * 0 < copyBytes convertH convertW ∧ min 512 (copyBytes convertH convertW - 512 * 0) = 64 ∧
      packedWidth (copySrc convertH) false = 32 ∧ packedWidth (copyDst convertH) false = 16 ∧ copyBSC convertH = false ∧ zeroBits convertH 64 16 = true) ∧
    (let s := copyState convertH convertW 0
     let e := copyEngine convertH convertW 0
     CanRead s e (copySS convertH) (copyWord convertW 2) (0 * 32 / 8) ((32 - 0) * 32 / 8) (List.replicate 128 0#8) ∧
      CanWrite s e (copyDS convertH) (copyWord convertW 1) (512 * 0) 64 (copySpots s e (copyDS convertH) (copyWord convertW 1) (512 * 0) 64 .write)) ∧
    (copyOk scaleH scaleW = true ∧ copyBSC scaleH = true ∧ copyBlock scaleH = 16 ∧ packedWidth (copyDst scaleH) false = 8 ∧ zeroBits scaleH 16 8 = true ∧
      (List.range (copyCount scaleW / 16)).filter (fun q => decide (0 ≤ q * 16 * 8) && decide (q * 16 * 8 < 128)) = [0]) ∧
    let s := copyState scaleH scaleW 0
    let e := copyEngine scaleH scaleW 0
    ((copySpots s e (copyDS scaleH) (copyWord scaleW 1) (512 * 0) 16 .write ++ copySpots s e (copyDS scaleH) (copyWord scaleW 4) (2 * 0) 2 .write).map (·.place)).Nodup ∧
      CanWrite s e (copyDS scaleH) (copyWord scaleW 4) (2 * 0) 2 (copySpots s e (copyDS scaleH) (copyWord scaleW 4) (2 * 0) 2 .write) :=
  ⟨by decide +kernel, can_write (by decide +kernel), by decide +kernel, ⟨can_read (by decide +kernel), can_write (by decide +kernel)⟩, by decide +kernel,
    by decide +kernel, can_write (by decide +kernel)⟩

/-- A command with an arrival at the landing word 0 (TARGET 0, COUNT 0, GEN 5, not armed) still to make, of header GEN 5 or 6, one complete, and one of OPC 5. -/
def arriveEngine (gen : Word) : Engine :=
  { copyEngine (landH ||| gen) landW 1 with
    arrivals := [{ k := 0, loc := none, stores := [({ phys := 0x20000, place := some 0x20000, page := localPage }, 7#8)], place := bankPlace 0 0, key := none }] }
def arriveState (gen : Word) : State := { landingState loadFibre with engines := [(9, arriveEngine gen)] }

theorem arrive_noErrors (gen : Word) : NoErrors (arriveState gen) := by
  refine ⟨rfl, rfl, fun k b hb => ?_⟩
  simp only [arriveState, landingState, lookup] at hb
  split at hb
  · cases hb; exact ⟨rfl, rfl⟩
  · cases hb

def quietWord : LWord := { target := 0#32, count := 0#32, gen := 5#16, flags := 0#8, logc := 0#8, moff := 0#32 }

theorem witness_CopyCommands_arrive :
    (∀ gen : Word, lookup (arriveState gen).engines 9 = some (arriveEngine gen) ∧ NoErrors (arriveState gen) ∧ ownerKilled (arriveState gen) (bankPlace 0 0) = false ∧
      Sound (arriveState gen) (wordSpots (bankPlace 0 0) none) [0#8, 0#8, 0#8, 0#8, 0#8, 0#8, 0#8, 0#8, 5#8, 0#8, 0#8, 0#8, 0#8, 0#8, 0#8, 0#8]) ∧
    (readWord (arriveState 5#64) (bankPlace 0 0) none = quietWord ∧ readWord (arriveState 6#64) (bankPlace 0 0) none = quietWord) ∧
    (quietWord.ok = true ∧ quietWord.moff = 0#32 ∧ bankPlace 0 0 % 16 = 0 ∧ quietWord.gen.toNat = (landH ||| 5#64).toNat % 2 ^ 16 ∧
      quietWord.gen.toNat ≠ (landH ||| 6#64).toNat % 2 ^ 16 ∧ quietWord.armed = false ∧ quietWord.count.toNat + 1 < 2 ^ 32 ∧ 0x20000 / 64 ≠ bankPlace 0 0 / 64) ∧
    (4 < copyOpc 0x5000000000000000#64) ∧ ({ copyEngine copyH copyW 2 with ready := true } : Engine).arrivals = [] :=
  ⟨fun gen => ⟨rfl, arrive_noErrors gen, rfl, sound_of (by rfl) (by rfl)⟩, ⟨by decide +kernel, by decide +kernel⟩, ⟨by decide, by decide, by decide, by decide, by decide, by decide, by decide, by decide +kernel⟩, by decide +kernel, rfl⟩

/-! ### Hypotheses that can be met: the scheduler, banks -/

/-- A package that is ready, with a START in the queue of cluster 0, its launch block (one berth of one fibre) at 0x40000 and its context's descriptor at 0x50000. -/
def startRecord : Record := { w0 := 0x40000#64, w1 := 7#64, w2 := 0#64, w3 := 0#64 }
def startQueued : Queued := { addr := 0, record := startRecord, ctx := 1, cluster := 0, time := 0, held := false, joinLink := none, carve := (0#32, 0#32), relaunches := 0 }
def startMem : Tab Byte :=
  [(0x1000, 0x01#8), (0x1001, 0x20#8), (0x2000, 0x1F#8), (0x2002, 0x04#8), (0x40000, 1#8), (0x40003, 1#8), (0x40004, 10#8), (0x40008, 10#8), (0x40048, 1#8),
    (0x50000, 1#8), (0x5000C, 1#8), (0x50011, 0x10#8), (0x5003A, 0x20#8), (0x5005A, 0x10#8)]
def startContext : Context :=
  { gen := 0#16, tenant := 0#12, priv := false, prot := false, topUp := false, partition := 0, sailing := 0, keySlot := 0, areas := 1, root := 0x1000
    heapBase := 0#64, heapLimit := 0#64, heapOffset := 0#64, trapbase := 0#64, imageBase := 0x200000#64, sealedBase := 0#64, stackTop := 0#64, stackBytes := 0#64
    statusArea := 0x100000#64, descriptor := 0x50000, started := true, inUse := [], override := none
    patterns := Vector.replicate 64 { axis := [], control := 0#16 }, member := none, refused := false, joinLinks := [] }
def startState : State :=
  { State.reset with
    mem := startMem, contexts := [(1, startContext)], partitions := [(0, { dies := [0], tenant := 0#12, active := true, key := 0 })]
    queue := [startQueued], boot := { State.reset.boot with stage := 6 } }

/-- The descriptor as the admission reads it: as it was registered. -/
def startFresh : Fresh :=
  { own := startContext.admitted, areas := 1, heapBase := 0#64, heapLimit := 0#64, heapOffset := 0#64, trapbase := 0#64 }

def startEnv : Env := startFresh.env startState 1 startContext

def startBlock : List Byte := [1#8, 0#8, 0#8, 1#8, 10#8, 0#8, 0#8, 0#8, 10#8] ++ List.replicate 63 0#8 ++ [1#8] ++ List.replicate 503 0#8

theorem area_refilled {s : State} {c : Admitted} {e : Env} {T : List TlbEntry} (h : Refilled s e T) (h0 : s.tlb = []) (a : Nat) :
    areaFrames { s with tlb := T } c e a = areaFrames s c e a := by
  unfold areaFrames
  simp only [translate_refilled h h0]

theorem witness_SchedulerEvents_admission :
    (isReady startState = true ∧ startState.health.stop = false ∧ headRecord startState 0 = some startQueued ∧ startQueued.record.kind = 0 ∧
      lookup startState.contexts startQueued.ctx = some startContext ∧ startFresh = readFresh startState startQueued.ctx startContext ∧
      startEnv = startFresh.env startState startQueued.ctx startContext ∧ (∀ w ∈ startState.crews, w.2.deck ≠ startState.nextSerial)) ∧
    (startQueued.record.w0.toNat % 64 = 0 ∧ blockOk startBlock = true ∧ freeRun startContext startFresh.areas startQueued.record.width = some 0 ∧
      (idleCores startState 0).take startQueued.record.width = [0] ∧ startQueued.record.width = 1 ∧ startFresh.own.root % 4096 = 0 ∧
      inDevice startFresh.own.root = true ∧ startContext.descriptor = 0x50000) ∧
    Holds startState startEnv startQueued.record.w0 576 .read startBlock ∧
    ∀ T, Refilled startState startEnv T → ∀ k < startQueued.record.width, areaFrames { startState with tlb := T } startFresh.own startEnv (0 + k) =
      some [0x200000, 0x280000, 0x300000, 0x380000] := by
  refine ⟨⟨by decide +kernel, rfl, by decide +kernel, by decide +kernel, rfl, by decide +kernel, rfl, fun w h => (List.not_mem_nil h).elim⟩, by decide +kernel,
    ⟨walked_unbroken (by decide +kernel) .., _, gotten_ok (by decide +kernel), seen_of (by decide +kernel) (by decide +kernel)⟩, fun T hT k hk => ?_⟩
  have hw : startQueued.record.width = 1 := by decide +kernel
  have hk0 : k = 0 := by omega
  subst hk0
  rw [area_refilled hT rfl]
  decide +kernel

/-- A crew whose grace has run out, and one in grace; a crew that saves; a deck of one that drains. -/
def graceCrew (g : Bool) : Crew := { loadCrew with g := g }
def savingCrew (full : Bool) : Crew := { loadCrew with state := .saving full }

theorem witness_SchedulerEvents_save :
    (∀ g, lookup (withCrew (graceCrew g) loadFibre).crews (activeBank (withCrew (graceCrew g) loadFibre) 0) = some (graceCrew g) ∧ (graceCrew g).state = .running ∧ (graceCrew g).g = g ∧
      (graceCrew g).grace = 0#9 ∧ crewRuns (withCrew (graceCrew g) loadFibre) 0 (graceCrew g) = true ∧ lookup (withCrew (graceCrew g) loadFibre).fibres 0 = some loadFibre ∧
      loadFibre.fence = none) ∧
    ∀ full, activeBank (withCrew (savingCrew full) loadFibre) 0 = 0 ∧ lookup (withCrew (savingCrew full) loadFibre).crews 0 = some (savingCrew full) ∧
      (savingCrew full).state = .saving full ∧ saveReady (withCrew (savingCrew full) loadFibre) 0 (savingCrew full) = true ∧ NoErrors (withCrew (savingCrew full) loadFibre) ∧ 0 ∈ deckMembers (withCrew (savingCrew full) loadFibre) (savingCrew full) ∧
      (withCrew (savingCrew full) loadFibre).ciphered = [] ∧ (savingCrew full).own.prot = false ∧
      AreaApart (savingCrew full) ∧ (savingCrew full).block.berths ≤ 16 ∧ (savingCrew full).block.footprint = 192 ∧ (bankOf (withCrew (savingCrew full) loadFibre) 0).armed = [] ∧
      (∀ k f, lookup (withCrew (savingCrew full) loadFibre).fibres k = some f → bankOfFibre k = 0 → f.fence = none) ∧
      loadFibre.ended = false ∧ (∃ r, roleOf (savingCrew full) loadFibre = some r) := by
  refine ⟨fun g => ⟨rfl, rfl, rfl, rfl, by cases g <;> decide +kernel, rfl, rfl⟩, fun full => ⟨by cases full <;> decide +kernel, rfl, rfl, by cases full <;> decide +kernel, ?_, by cases full <;> decide +kernel, rfl, rfl,
    ⟨rfl, (by decide : loadCrew.frames.Nodup), (by decide : ∀ a ∈ loadCrew.frames, a % 2 ^ 19 = 0 ∧ inDevice (a + 2 ^ 19 - 1) = true)⟩, (by decide : loadCrew.block.berths ≤ 16), rfl, by cases full <;> decide +kernel, fun k f h _ => ?_, rfl, ⟨_, rfl⟩⟩⟩
  · refine ⟨rfl, rfl, fun k b hb => ?_⟩
    simp only [withCrew, show base.banks = [(0, { state := .running, store := [], units := [], latent := [], poison := [], armed := [] })] from rfl, lookup] at hb
    split at hb
    · cases hb; exact ⟨rfl, rfl⟩
    · cases hb
  · simp only [withCrew, lookup] at h
    split at h
    · cases h; rfl
    · cases h

/-- A package with a deck of one member that drains with an ending. -/
def drainCrew (e : CrewEnd) (idem : Bool) : Crew :=
  { loadCrew with own := startContext.admitted, state := .draining, ending := some e, saved := e == .resume, block := { loadCrew.block with idempotent := idem }, record := startRecord }
def drainState (e : CrewEnd) (idem : Bool) : State :=
  { startState with
    queue := [], crews := [(0, drainCrew e idem)], fibres := [(0, loadFibre)], cores := base.cores, decks := [(0, { cluster := 0, width := 1, members := [0], barriers := [], ctx := 1 })]
    banks := [(0, { state := .running, store := [], units := [], latent := [], poison := [], armed := [] })] }

theorem drain_noErrors (e : CrewEnd) (idem : Bool) : NoErrors (drainState e idem) := by
  refine ⟨rfl, rfl, fun k b hb => ?_⟩
  simp only [drainState, lookup] at hb
  split at hb
  · cases hb; exact ⟨rfl, rfl⟩
  · cases hb

def statusPlaces : List (Nat × Option Nat) :=
  (contextPlaces (drainState .faulted false) (envOfAdmitted (drainState .faulted false) 1 startContext.admitted) startContext.admitted.statusArea 4096 .write).getD []

theorem test_statusPlaces : statusPlaces.map (·.1) = (List.range 4096).map (0x100000 + ·) := by decide +kernel

theorem witness_SchedulerEvents_drain :
    (∀ e idem, (∃ d, lookup (drainState e idem).decks 0 = some d ∧ d.members.head? = some 0 ∧ d.members.Nodup ∧ d.members = [0]) ∧
      lookup (drainState e idem).crews 0 = some (drainCrew e idem) ∧ lookup (drainState e idem).contexts 1 = some startContext ∧ NoErrors (drainState e idem) ∧ CleanSlots (drainState e idem) ∧
      (drainCrew e idem).state = .draining ∧ (drainCrew e idem).ending = some e ∧ startContext.crossingReady = true ∧ (drainCrew e idem).joinLink = none ∧
      (drainState e idem).ciphered = [] ∧ inDevice (drainCrew e idem).own.root = true ∧ (drainCrew e idem).own.root % 4096 = 0) ∧
    (drainDone (drainState .resume false) 0 (drainCrew .resume false) = true ∧ (drainCrew .resume false).saved = true ∧
      placeOn (drainState .resume false) (diesOf (drainState .resume false) startContext) (nextRecord (drainCrew .resume false) 2 startRecord.w0 startRecord.w1) = some 0) ∧
    (drainDone (drainState (.phase 1 2) false) 0 (drainCrew (.phase 1 2) false) = true ∧
      placeOn (drainState (.phase 1 2) false) (diesOf (drainState (.phase 1 2) false) startContext) (nextRecord (drainCrew (.phase 1 2) false) 1 1#64 2#64) = some 0) ∧
    (drainDone (drainState .killed true) 0 (drainCrew .killed true) = true ∧ (drainCrew .killed true).block.idempotent = true ∧ (drainCrew .killed true).relaunches < 3 ∧
      placeOn (drainState .killed true) (diesOf (drainState .killed true) startContext) startRecord = some 0) ∧
    (drainDone (drainState .faulted false) 0 (drainCrew .faulted false) = true ∧ drainDone (drainState .lost false) 0 (drainCrew .lost false) = true ∧
      drainDone (drainState .killed false) 0 (drainCrew .killed false) = true ∧ (drainCrew .killed false).block.idempotent = false ∧
      contextPlaces (drainState .faulted false) (envOfAdmitted (drainState .faulted false) 1 startContext.admitted) startContext.admitted.statusArea 4096 .write = some statusPlaces ∧ (statusPlaces.map (·.1)).Nodup ∧
      ∀ x ∈ statusPlaces, x.2 = none ∧ inDevice x.1 = true) := by
  refine ⟨fun e idem => ⟨⟨_, rfl, rfl, by decide, rfl⟩, rfl, rfl, drain_noErrors e idem, fun x h => (List.not_mem_nil h).elim, rfl, rfl, rfl, rfl, rfl, (by decide : inDevice 0x1000 = true), (by decide : 0x1000 % 4096 = 0)⟩, ⟨by decide +kernel, rfl, by decide +kernel⟩, ⟨by decide +kernel, by decide +kernel⟩,
    ⟨by decide +kernel, rfl, by decide, by decide +kernel⟩, by decide +kernel, by decide +kernel, by decide +kernel, rfl, ?_, ?_, ?_⟩
  · have h : (contextPlaces (drainState .faulted false) (envOfAdmitted (drainState .faulted false) 1 startContext.admitted) startContext.admitted.statusArea 4096 .write).isSome = true := by decide +kernel
    unfold statusPlaces
    cases e : contextPlaces (drainState .faulted false) (envOfAdmitted (drainState .faulted false) 1 startContext.admitted) startContext.admitted.statusArea 4096 .write with
    | some x => rfl
    | none => rw [e] at h; cases h
  · rw [test_statusPlaces]
    exact List.nodup_range.map (fun a b h => by simpa using h)
  · have h : statusPlaces.all (fun x => x.2 == none && inDevice x.1) = true := by decide +kernel
    intro x hx
    simpa using List.all_eq_true.mp h x hx

/-- Core 5 with two kinds of latent error in its active bank; a sector of device memory with two errors; a core that is to flip; a standby bank that is halted, and one that comes back. -/
def latentState : State :=
  { base with
    banks := [(5, { state := .running, store := [], units := [], latent := [(0, 1), (0x7FFFF, 2)], poison := [], armed := [] })]
    slots := [(slotKey 5 0, { loadSlot with latent := [(4095, 2)] })], memLatent := [(0, [0, 4]), (7, [0, 3])] }
def flipState : State :=
  { base with
    cores := [(5, { side := 0, serial := 1#16, retired := false, keptOut := false, flipWanted := true, staging := false, errors := [] })]
    banks := [(5, { state := .halted, store := [], units := [], latent := [], poison := [], armed := [] }),
      (1029, { state := .halted, store := [], units := [], latent := [], poison := [], armed := [] })] }
def retiredState : State :=
  { base with cores := [(5, { side := 0, serial := 1#16, retired := true, keptOut := false, flipWanted := true, staging := false, errors := [] })] }
def standbyCrew : Crew := { loadCrew with block := { loadCrew.block with berths := 1 } }
def standbyState : State :=
  { base with crews := [(1024, standbyCrew)], fibres := [], banks := [(1024, { state := .halted, store := [], units := [], latent := [], poison := [], armed := [] })] }
def standbySaved : Saved := { crew := standbyCrew, full := true, home := some 1024, fibres := [(65536, loadFibre)], armed := [], barriers := [] }
def returnState : State := { base with crews := [], fibres := [], slots := [], banks := [], saved := [(4096, standbySaved)] }

theorem witness_BanksAndScrubbers :
    ((coreOf latentState 5).errors = [] ∧ ∀ bk ∈ [5, 1024 + 5], (∀ x ∈ (bankOf latentState bk).latent, x.1 < 2 ^ 19) ∧
      ∀ j < 16, ∀ x ∈ (slotOf latentState (slotKey bk j)).latent, x.1 < 4096) ∧
    (inDevice (0 * 64) = true ∧ lookup latentState.memLatent 0 = some [0, 4] ∧ oneSymbol [0, 4] = false ∧ lookup latentState.memLatent 7 = some [0, 3] ∧
      oneSymbol [0, 3] = true ∧ lookup latentState.memLatent 1 = none) ∧
    (coreOf retiredState 5).retired = true ∧
    ((coreOf flipState 5).flipWanted = true ∧ (coreOf flipState 5).retired = false ∧ flipState.pauses = [] ∧ (coreOf flipState 5).staging = false ∧ (bankOf flipState (activeBank flipState 5)).state ≠ .running ∧ (coreOf flipState 5).side < 2) ∧
    (lookup standbyState.crews 1024 = some standbyCrew ∧ (1 - (coreOf standbyState 0).side) * 1024 + 0 = 1024 ∧ (bankOf standbyState 1024).state = .halted ∧
      saveReady standbyState 1024 standbyCrew = true ∧ ∀ e ∈ standbyState.engines, e.2.bank ≠ 1024) ∧
    (lookup returnState.crews 1024 = none ∧ (1 - (coreOf returnState 0).side) * 1024 + 0 = 1024 ∧ returnState.saved.find? (fun x => x.2.home == some 1024) = some (4096, standbySaved) ∧
      standbySaved.crew.own.prot = false ∧ standbySaved.crew.written = true ∧ CleanSlots returnState ∧ (standbySaved.fibres.map (·.1)).Nodup ∧ NoErrors returnState ∧ returnState.ciphered = [] ∧
      AreaApart standbySaved.crew ∧ standbySaved.crew.block.footprint ≤ 192 ∧ standbySaved.crew.block.berths ≤ 16 ∧ ∀ y ∈ returnState.slots, ∀ l ∈ y.2.lines, l.1 < 64) := by
  refine ⟨by decide +kernel, by decide +kernel, rfl, by decide +kernel, ⟨rfl, by decide +kernel⟩,
    rfl, by decide +kernel, rfl, rfl, rfl, fun x h => (List.not_mem_nil h).elim, by decide, ⟨rfl, rfl, fun k b h => ?_⟩, rfl, ⟨rfl, by decide, by decide⟩, by decide, by decide, fun _ h => (List.not_mem_nil h).elim⟩
  cases h

/-! ### Hypotheses that can be met: the host's ports, the mailbox, boot, limits -/

/-- Bytes of a record of the started context, and one whose kind is not START. -/
def recordBytes (kind : Byte) : List Byte := [0#8, 0#8, 4#8] ++ List.replicate 17 0#8 ++ [kind] ++ List.replicate 11 0#8

/-- The ready package with no record, its context a member of a crossing that is not ready. -/
def waitingState : State :=
  { startState with
    queue := []
    contexts := [(1, { startContext with member := some { crossing := 9, axes := 1, extents := [2, 1, 1, 1, 1], coord := [0, 0, 0, 0, 0], pauseCoord := [1, 0, 0, 0, 0], ready := false } })] }

/-- The ready package with no context, and with one that has no record. -/
def emptyState : State := { startState with queue := [], contexts := [] }
def idleState : State := { startState with queue := [] }

theorem witness_HostPorts_submit :
    ((recordBytes 0#8).length = 32 ∧ isReady waitingState = true ∧ (recordOf (recordBytes 0#8)).kind = 0 ∧ wfld (recordOf (recordBytes 0#8)).w2 43 20 = 0 ∧
      wfld (recordOf (recordBytes 0#8)).w3 54 2 = 0 ∧ wfld (recordOf (recordBytes 0#8)).w3 59 5 = 0 ∧ (recordOf (recordBytes 0#8)).w0.toNat % 64 = 0 ∧
      wfld (recordOf (recordBytes 0#8)).w3 56 3 = 0 ∧ (lookup waitingState.partitions 0).isSome = true) ∧
    (∃ c, waitingState.contexts.find? (fun c => c.2.partition == 0 && c.2.sailing == wfld (recordOf (recordBytes 0#8)).w3 48 6) = some (1, c) ∧
        lookup waitingState.contexts 1 = some c ∧ c.crossingReady = false) ∧
    (idleState.contexts.find? (fun c => c.2.partition == 0 && c.2.sailing == wfld (recordOf (recordBytes 0#8)).w3 48 6) = some (1, startContext) ∧
      (placeOn idleState (diesOf idleState startContext) (recordOf (recordBytes 0#8))).isSome = true) ∧
    (recordCause waitingState 7 (recordOf (recordBytes 0x10#8)) = 1 ∧ (recordBytes 0x10#8).length = 32) ∧
    (∀ p < 8, ∃ x, waitingState.submissions[p]? = some x) := by
  refine ⟨by decide +kernel, ⟨_, by rfl, rfl, by decide +kernel⟩, ⟨by rfl, by decide +kernel⟩, by decide +kernel, fun p hp => ?_⟩
  exact ⟨_, Vector.getElem?_eq_getElem hp⟩

theorem witness_HostPorts_register :
    (emptyState.submissions[0]? = some Submission.zero ∧ Submission.zero.dbusy = false ∧ registerCause emptyState 0 0x50000 (readDescriptor emptyState 0x50000) = 0 ∧
      registerCause idleState 0 0x50000 (readDescriptor idleState 0x50000) = 2 ∧ registerCause emptyState 0 0x50080 (readDescriptor emptyState 0x50080) = 6) ∧
    (isReady idleState = true ∧ lookup idleState.contexts 1 = some startContext ∧ startContext.partition = 0 ∧
      busyContext { idleState with queue := idleState.queue.filter (fun q => !q.held) } 1 = false ∧
      busyContext { startState with queue := startState.queue.filter (fun q => !q.held) } 1 = true) ∧
    ({ Submission.zero with dbusy := true } : Submission).dbusy = true := by
  refine ⟨⟨by decide, rfl, by decide +kernel, by decide +kernel, by decide +kernel⟩, ⟨by decide +kernel, rfl, rfl, by decide +kernel, by decide +kernel⟩, rfl⟩

/-- The last byte of device memory, and of host memory as the part addresses it. -/
theorem witness_HostPorts_access :
    (let x : HostAccess := { device := true, addr := 2 ^ 40 - 1, write := true, data := [7#8], len := 0 };
      startState.rangeBase ≤ x.addr ∧ x.addr - startState.rangeBase + x.data.length ≤ 2 ^ 40 ∧ 5 ≤ startState.boot.stage ∧ startState.boot.harbour = false ∧ startState.ciphered = [] ∧ ∀ i < 1, Clean startState (x.addr - startState.rangeBase + i)) ∧
    (let x : HostAccess := { device := false, addr := 0, write := false, data := [], len := 16 };
      hostPlace x.addr + x.len ≤ 2 ^ 52) ∧
    (0x100000 ≤ 0x100FFF ∧ 0x100FFF + [1#8].length ≤ 0x101000) ∧ ([(1#8 : Byte), 4#8, 0#8, 0#8, 0#8, 0#8, 0#8, 0#8].length = 8 ∧ (1#8 : Byte).getLsbD 0 = true) ∧
    (idleState.mailbox.busy = false ∧ ({ idleState.mailbox with busy := true } : Mailbox).busy = true) ∧ (0x7000 < 0x8000 ∧ 0x701F % 0x1000 < 0x20) ∧
    (∀ i < 64, ∃ c, startState.counters[i]? = some c) ∧ (∀ d < 8, (dieState startState d).prqTail < 2 ^ 64) := by
  refine ⟨⟨by decide, by decide, by decide, rfl, rfl, fun i _ => clean_unbroken (by decide +kernel) _⟩, by decide, ⟨by decide, by decide⟩, ⟨by decide, by decide⟩, ⟨rfl, rfl⟩, ⟨by decide, by decide⟩, fun _ hi => ⟨_, Vector.getElem?_eq_getElem hi⟩, by decide +kernel⟩

/-- The ready package with a mailbox command. -/
def mail (code : BitVec 8) (request : Tab Byte) : State :=
  { idleState with mailbox := { request := request, response := [], status := 0#8, opc := code, running := code, busy := true, switching := false, finished := none } }

theorem commanded_of {code : BitVec 8} {request : Tab Byte} {n : Nat} {fields : List (Nat × Nat)} (hn : code.toNat = n) (h : reqOnly (mail code request) fields = true) (b : Bool) :
    Commanded (mail code request) n b fields := ⟨rfl, rfl, hn, h, fun _ => rfl⟩

/-- Two partitions of one die, the first active; core 0 out of service, cluster 2 lost. -/
def sharedPartitions : Tab Partition := [(0, { dies := [0], tenant := 0#12, active := true, key := 0 }), (1, { dies := [0], tenant := 0#12, active := false, key := 0 })]
def outState (code : BitVec 8) (request : Tab Byte) : State :=
  { mail code request with
    partitions := sharedPartitions, lost := [2]
    cores := [(0, { side := 0, serial := 1#16, retired := true, keptOut := false, flipWanted := false, staging := false, errors := [] })] }

theorem outCommanded_of {code : BitVec 8} {request : Tab Byte} {n : Nat} {fields : List (Nat × Nat)} (hn : code.toNat = n) (h : reqOnly (outState code request) fields = true) :
    Commanded (outState code request) n false fields := ⟨rfl, rfl, hn, h, fun _ => rfl⟩

theorem witness_MailboxCommands :
    Commanded (mail 1#8 []) 1 true [] ∧
    (Commanded (mail 2#8 [(0, 0x40#8), (8, 0x20#8)]) 2 true [(0, 8), (8, 4)] ∧ req (mail 2#8 [(0, 0x40#8), (8, 0x20#8)]) 0 8 % 16 = 0 ∧
      req (mail 2#8 [(0, 0x40#8), (8, 0x20#8)]) 0 8 + req (mail 2#8 [(0, 0x40#8), (8, 0x20#8)]) 8 4 ≤ 2 ^ 52 - 2 ^ 45) ∧
    Commanded (mail 3#8 [(31, 9#8)]) 3 false [(0, 32)] ∧
    (let s := mail 4#8 [(0, 1#8), (8, 1#8), (11, 0x80#8)];
      Commanded s 4 false ((0, 1) :: (List.range (min 8 (req s 0 1))).map (fun p => (8 + 8 * p, 8))) ∧ partitionsCause s = 0) ∧
    (let s := mail 4#8 [(0, 1#8), (8, 1#8), (9, 1#8)];
      Commanded s 4 false ((0, 1) :: (List.range (min 8 (req s 0 1))).map (fun p => (8 + 8 * p, 8))) ∧ partitionsCause s = 4) ∧
    (let s := outState 5#8 [(0, 1#8)];
      Commanded s 5 false [(0, 1)] ∧ flipsWanted s = false ∧ (∃ x, lookup s.partitions (req s 0 1) = some x ∧ x.active = false ∧ x.dies.Nodup) ∧ partnerOf s (req s 0 1) = some 0 ∧
        Commanded (outState 5#8 []) 5 false [(0, 1)] ∧ ∃ x, lookup s.partitions (req (outState 5#8 []) 0 1) = some x ∧ x.active = true) ∧
    Commanded (mail 6#8 [(1, 0x40#8), (1 + 3, 0#8), (9, 1#8)]) 6 false [(0, 4), (4, 4), (8, 2)] ∧
    (req (mail 7#8 [(1, 7#8)]) 0 1 = 0 ∧ Commanded (mail 7#8 [(1, 7#8)]) 7 false [(0, 1), (1, 1), (2, 2)]) ∧
    (let s := mail 7#8 [(0, 1#8), (1, 7#8), (3, 0x0F#8), (0x18F, 9#8)];
      Commanded s 7 false [(0, 1), (1, 1), (2, 2), (0x10, 384)] ∧ req s 0 1 = 1 ∧ req s 2 2 < 2 ^ 12 ∧ slotInUse s (req s 1 1) = false) ∧
    (let s := { mail 7#8 [(0, 1#8), (1, 7#8)] with contexts := [(1, { startContext with prot := true, keySlot := 7 })] };
      Commanded s 7 false [(0, 1), (1, 1), (2, 2), (0x10, 384)] ∧ req s 0 1 = 1 ∧ slotInUse s (req s 1 1) = true) ∧
    (let s := mail 7#8 [(0, 2#8), (1, 7#8)];
      Commanded s 7 false [(0, 1), (1, 1), (2, 2), (0x10, 384)] ∧ reqOnly s [(0, 1), (1, 1), (2, 2)] = true ∧ req s 0 1 = 2 ∧ req s 2 2 < 2 ^ 12 ∧ slotInUse s (req s 1 1) = false) ∧
    (let s := mail 7#8 [(0, 3#8), (1, 7#8)];
      Commanded s 7 false [(0, 1), (1, 1), (2, 2), (0x10, 384)] ∧ reqOnly s [(0, 1), (1, 1), (2, 2)] = true ∧ 2 < req s 0 1 ∧ req s 2 2 < 2 ^ 12) := by
  refine ⟨commanded_of rfl (by decide +kernel) _, ⟨commanded_of rfl (by decide +kernel) _, by decide +kernel, by decide +kernel⟩, commanded_of rfl (by decide +kernel) _,
    ⟨commanded_of rfl (by decide +kernel) _, by decide +kernel⟩, ⟨commanded_of rfl (by decide +kernel) _, by decide +kernel⟩,
    ⟨outCommanded_of rfl (by decide +kernel), by decide +kernel, ⟨{ dies := [0], tenant := 0#12, active := false, key := 0 }, by decide +kernel, rfl, by decide⟩, by decide +kernel,
      outCommanded_of rfl (by decide +kernel), { dies := [0], tenant := 0#12, active := true, key := 0 }, by decide +kernel, rfl⟩,
    commanded_of rfl (by decide +kernel) _, ⟨by decide +kernel, commanded_of rfl (by decide +kernel) _⟩,
    ⟨commanded_of rfl (by decide +kernel) _, by decide +kernel, by decide +kernel, by decide +kernel⟩,
    ⟨⟨rfl, rfl, rfl, by decide +kernel, fun _ => rfl⟩, by decide +kernel, by decide +kernel⟩,
    ⟨commanded_of rfl (by decide +kernel) _, by decide +kernel⟩, commanded_of rfl (by decide +kernel) _, by decide +kernel⟩

theorem witness_MailboxCommands_units :
    (∀ action ∈ [1#8, 2#8], let s := outState 8#8 [(0, 1#8), (1, action), (2, 1#8)];
      Commanded s 8 false [(0, 1), (1, 1), (2, 2)] ∧ req s 0 1 = 1 ∧ req s 1 1 = action.toNat ∧ req s 2 2 = 1 ∧ (coreOf s 1).keptOut = false ∧ (coreOf s 1).retired = false) ∧
    (∀ action ∈ [1#8, 2#8], let s := outState 8#8 [(0, 1#8), (1, action)];
      Commanded s 8 false [(0, 1), (1, 1), (2, 2)] ∧ req s 0 1 = 1 ∧ req s 1 1 = action.toNat ∧ req s 2 2 = 0 ∧ (coreOf s 0).keptOut = false ∧ (coreOf s 0).retired = true) ∧
    (∀ action ∈ [1#8, 2#8], let s := outState 8#8 [(0, 2#8), (1, action), (2, 2#8)];
      Commanded s 8 false [(0, 1), (1, 1), (2, 2)] ∧ req s 0 1 = 2 ∧ req s 1 1 = action.toNat ∧ req s 2 2 = 2 ∧ 2 ∈ s.lost ∧ 2 ∉ s.keptOutClusters) ∧
    Commanded (mail 10#8 []) 10 false [] ∧ ((mail 11#8 []).mailbox.busy = true ∧ (mail 11#8 []).mailbox.finished = none ∧ 10 < (mail 11#8 []).mailbox.running.toNat) ∧
    ¬ ((mail 2#8 []).boot.harbour = true ∧ (mail 2#8 []).mailbox.running = 2#8 ∧ (0#8 : BitVec 8) = 0#8) := by
  have mem : ∀ a : BitVec 8, a ∈ [1#8, 2#8] → a = 1#8 ∨ a = 2#8 := by simp
  refine ⟨fun a ha => ?_, fun a ha => ?_, fun a ha => ?_, commanded_of rfl (by decide +kernel) _, ⟨rfl, rfl, by decide⟩, fun h => by cases h.1⟩ <;>
    rcases mem a ha with rfl | rfl <;>
    exact ⟨outCommanded_of rfl (by decide +kernel), by decide +kernel⟩

/-- A join of a crossing of two packages, at its coordinator and elsewhere, and one that is refused; a window of one tenant, counters, a pause and its end. -/
def joinRequest (coord : Byte) : Tab Byte := [(0, 1#8), (4, 9#8), (8, 1#8), (0x0C, 1#8), (0x10, 1#8), (0x18, coord)]
def memberState (code : BitVec 8) (request : Tab Byte) : State := { mail code request with contexts := waitingState.contexts }

theorem witness_FabricConfiguration :
    (∀ coord ∈ [0#8, 1#8], let s := mail 9#8 (joinRequest coord);
      Commanded s 9 false [(0, 1), (4, 4), (8, 4), (0x0C, 1), (0x10, 5), (0x18, 5), (0x20, 5)] ∧ req s 0 1 = 1 ∧ (req s 4 4, req s 8 4, req s 0x0C 1) = (9, 1, 1) ∧
        joinCause s 9 1 1 ((bytesOf s.mailbox.request 0x10 5).map (fun b => b.toNat + 1)) ((bytesOf s.mailbox.request 0x18 5).map BitVec.toNat)
          ((bytesOf s.mailbox.request 0x20 5).map BitVec.toNat) = 0 ∧
        lookup s.contexts 1 = some startContext ∧ ((bytesOf s.mailbox.request 0x18 5).map BitVec.toNat = (bytesOf s.mailbox.request 0x20 5).map BitVec.toNat ↔ coord = 0#8) ∧
        s.heldJoined = [] ∧ lookup s.coordinators 9 = none) ∧
    (let s := mail 9#8 (joinRequest 2#8);
      Commanded s 9 false [(0, 1), (4, 4), (8, 4), (0x0C, 1), (0x10, 5), (0x18, 5), (0x20, 5)] ∧ req s 0 1 = 1 ∧
        joinCause s 9 1 1 ((bytesOf s.mailbox.request 0x10 5).map (fun b => b.toNat + 1)) ((bytesOf s.mailbox.request 0x18 5).map BitVec.toNat)
          ((bytesOf s.mailbox.request 0x20 5).map BitVec.toNat) = 3) ∧
    (let s := mail 9#8 [(0, 2#8), (1, 15#8), (2, 1#8), (4, 0xFF#8), (5, 0x0F#8)];
      Commanded s 9 false [(0, 1), (1, 1), (2, 1), (4, 32)] ∧ req s 0 1 = 2 ∧ s.ports[req s 1 1]? = some Port.zero ∧ req s 2 1 ≤ 16 ∧ ∀ i < 16, req s (4 + 2 * i) 2 < 4096) ∧
    (let s := mail 9#8 [(0, 5#8), (1, 15#8)];
      Commanded s 9 false [(0, 1), (1, 1)] ∧ req s 0 1 = 5 ∧ s.ports[req s 1 1]? = some Port.zero) ∧
    (let s := memberState 9#8 [(0, 3#8), (4, 9#8), (8, 6#8)];
      Commanded s 9 false [(0, 1), (4, 4), (8, 4)] ∧ req s 0 1 = 3 ∧ 1 ≤ req s 4 4 ∧ req s 4 4 ≤ 0xFF_FFFF ∧ (memberOf s (req s 4 4)).isSome = true ∧ lookup s.pauses (req s 4 4) = none) ∧
    (∀ op ∈ [3#8, 4#8], let s := memberState 9#8 [(0, op), (4, 1#8), (7, 1#8)];
      Commanded s 9 false [(0, 1), (4, 4)] ∧ req s 0 1 = op.toNat ∧ 0xFF_FFFF < req s 4 4) ∧
    let s := memberState 9#8 [(0, 4#8), (4, 9#8)];
    Commanded s 9 false [(0, 1), (4, 4)] ∧ req s 0 1 = 4 ∧ 1 ≤ req s 4 4 ∧ req s 4 4 ≤ 0xFF_FFFF ∧ (memberOf s (req s 4 4)).isSome = true := by
  have mem : ∀ a : BitVec 8, a ∈ [0#8, 1#8] → a = 0#8 ∨ a = 1#8 := by simp
  have mem' : ∀ a : BitVec 8, a ∈ [3#8, 4#8] → a = 3#8 ∨ a = 4#8 := by simp
  refine ⟨fun c hc => ?_, ⟨commanded_of rfl (by decide +kernel) _, by decide +kernel, by decide +kernel⟩,
    ⟨commanded_of rfl (by decide +kernel) _, by decide +kernel, by decide +kernel, by decide +kernel, by decide +kernel⟩,
    ⟨commanded_of rfl (by decide +kernel) _, by decide +kernel, by decide +kernel⟩,
    ⟨⟨rfl, rfl, rfl, by decide +kernel, fun _ => rfl⟩, by decide +kernel⟩,
    fun o ho => ?_, ⟨rfl, rfl, rfl, by decide +kernel, fun _ => rfl⟩, by decide +kernel⟩
  all_goals try (
    rcases mem' o ho with rfl | rfl <;> exact ⟨⟨rfl, rfl, rfl, by decide +kernel, fun _ => rfl⟩, by decide +kernel⟩)
  rcases mem c hc with rfl | rfl <;>
    exact ⟨commanded_of rfl (by decide +kernel) _, by decide +kernel, by decide +kernel, by decide +kernel, rfl, by decide +kernel, rfl, rfl⟩

/-- A package at a stage of its boot, with a count of failures; one at its limits of power and heat. -/
def bootState (stage fails : Nat) : State := { State.reset with boot := { State.reset.boot with stage := stage, fails := fails } }
def hotState : State :=
  { base with health := { State.reset.health with junction := Vector.replicate 8 (16 * 115 : Int), stack := Vector.replicate 16 (16 * 95 : Int) } }

theorem witness_CountersBootAndLimits :
    (∀ i < 64, ∃ c, State.reset.counters[i]? = some c) ∧
    (3 ≤ (bootState 6 3).boot.fails ∧ (bootState 6 2).boot.fails < 3 ∧ imageReason (bootState 6 2).boot.image ≠ 0) ∧
    ((bootState 3 0).boot.stage = 3 ∧ (bootState 4 0).boot.stage = 4 ∧ (bootState 5 0).boot.stage = 5 ∧ 3 ≤ (bootState 5 0).boot.stage ∧ (bootState 5 0).boot.stage < 6 ∧
      (bootState 5 0).boot.harbour = false ∧ (bootState 5 0).time - (bootState 5 0).boot.since ≤ 10 ^ 10 ∧
      ∀ s : State, s = { bootState 5 0 with time := 10 ^ 10 + 1 } → 10 ^ 10 < s.time - s.boot.since ∧ s.boot.stage = 5 ∧ s.boot.harbour = false) ∧
    (hotState.health.stop = false ∧ (∃ d : Fin 8, (16 * 115 : Int) ≤ hotState.health.junction.get d) ∧ (∀ k : Fin 16, 16 * 95 ≤ hotState.health.stack.get k) ∧
      ∀ k : Fin 16, State.reset.health.stack.get k < 16 * 95) ∧
    (State.reset.health.stepped + 10000 ≤ ({ State.reset with time := 10000 } : State).time ∧ lookup hotState.fibres 0 = some loadFibre ∧
      loadFibre.fence = none ∧ lookup hotState.crews 0 = some loadCrew ∧ loadCrew.state = .running ∧ (bankOf hotState 0).state = .running ∧
      activeBank hotState 0 = 0) ∧
    (∀ h : Health, ∃ hot : Fin 8 → Prop, ∀ d, hot d ↔ h.powerLimit * 1000 ≤ h.power ∨ 16 * (h.throttle : Int) ≤ h.junction.get d) ∧
    ∀ port < 16, ∃ p, State.reset.ports[port]? = some p :=
  ⟨fun _ hi => ⟨_, Vector.getElem?_eq_getElem hi⟩, ⟨by decide, by decide, by decide +kernel⟩, ⟨rfl, rfl, rfl, by decide, by decide, rfl, by decide, fun s h => by subst h; exact ⟨by decide, rfl, rfl⟩⟩, ⟨rfl, ⟨0, by decide⟩, by decide, by decide⟩, by decide +kernel,
    fun h => ⟨_, fun _ => Iff.rfl⟩, fun _ hp => ⟨_, Vector.getElem?_eq_getElem hp⟩⟩

/-! ### Hypotheses that can be met: the fabric -/

def upPort (window : List (BitVec 12)) : Port := { window := window, stats := Vector.replicate 8 0#64, up := true, received := 0, sent := 0 }

/-- The loaded package with every port up, listing tenant 0 or none; its context may be a member of crossing 9, of two packages. -/
def fabricContext : Context :=
  { loadContext with member := some { crossing := 9, axes := 1, extents := [2, 1, 1, 1, 1], coord := [0, 0, 0, 0, 0], pauseCoord := [1, 0, 0, 0, 0], ready := true } }
def fabricState (listed : Bool) (ops : Tab FabricOp) (f : Fibre) : State :=
  { base with
    mem := [(0x1000, 0x01#8), (0x1001, 0x20#8), (0x2000, 0x1F#8), (0x2002, 0x04#8)], fibres := [(0, f)]
    ports := Vector.replicate 16 (upPort (if listed then [0#12] else [])), fabricOps := ops, ptpInBounds := true }
def memberFabric (listed : Bool) : State := { fabricState listed [] loadFibre with contexts := [(1, fabricContext)] }

theorem fabric_lists (ops : Tab FabricOp) (f : Fibre) : portLists (fabricState true ops f) (exitOf (fabricState true ops f)) 0#12 = true ∧
    portLists (fabricState false ops f) (exitOf (fabricState false ops f)) 0#12 = false := by
  have h : ∀ i < 16, portLists (fabricState true ops f) i 0#12 = true ∧ portLists (fabricState false ops f) i 0#12 = false := by
    intro i hi
    simp only [portLists, fabricState, Vector.getElem?_eq_getElem hi, Vector.getElem_replicate, upPort]
    decide
  have e : exitOf (fabricState false ops f) = exitOf (fabricState true ops f) := rfl
  rw [e]
  exact h _ (Nat.mod_lt _ (by decide))

theorem fabric_sends (listed : Bool) (ops : Tab FabricOp) (f : Fibre) : maySend (fabricState listed ops f) = true := by
  have h : ∀ i < 16, (match (fabricState listed ops f).ports[i]? with | some p => p.up | none => false) = true := by
    intro i hi
    simp only [fabricState, Vector.getElem?_eq_getElem hi, Vector.getElem_replicate, upPort]
  have e := h (exitOf (fabricState listed ops f)) (Nat.mod_lt _ (by decide))
  exact Bool.and_eq_true_iff.mpr ⟨rfl, e⟩

theorem fabric_noErrors (listed : Bool) (ops : Tab FabricOp) (f : Fibre) : NoErrors (fabricState listed ops f) := by
  refine ⟨rfl, rfl, fun k b hb => ?_⟩
  simp only [fabricState, show base.banks = [(0, { state := .running, store := [], units := [], latent := [], poison := [], armed := [] })] from rfl, lookup] at hb
  split at hb
  · cases hb; exact ⟨rfl, rfl⟩
  · cases hb

/-- A queued store of eight bytes, a copy of eight bytes from the scratchpad's end or from memory, an atomic. -/
def storeWords : FabricWords := { w0 := 0x1000_0000_0000_0000#64, w1 := 0x30000#64, w2 := 7#64, w3 := 8#64 }
def fabricOpOf (kind : Nat) (w : FabricWords) (taken : Bool) : FabricOp :=
  { words := w, kind := kind, red := 0, queued := true, taken := taken, fibre := 0, bank := 0, serial := 0, ctx := 1, core := 0, flag := none, pattern := List.replicate 5 0#16
    members := 1, contributor := 0, remoteAddr := 0x30000#64, dest := none, chunks := 1, sent := 0, left := false, acks := [], void := none, stopped := false, refused := false, data := []
    asked := none }
def pushedFibre (q : List Word) : Fibre := { loadFibre with q2 := q }
def localWords : FabricWords := { storeWords with w0 := 0x2000_0000_0000_0000#64, w2 := 0xFC00_0000_000B_FFF8#64 }
def memoryWords : FabricWords := { storeWords with w0 := 0x2000_0000_0000_0000#64, w2 := 0x20000#64 }

def fabricLocal : List Spot := (localSpots (fabricState true [] loadFibre) 0 (0xBFFF8 + 512 * 0) 8).getD []
def fabricVirtual : List Spot := gotten (engineSpots (fabricState true [] loadFibre) baseEnv (0x20000#64 + BitVec.ofNat 64 (512 * 0)) 8 .read)

theorem witness_FabricDeparture_queue :
    (∀ q, lookup (fabricState true [(4, fabricOpOf 1 storeWords false)] (pushedFibre q)).fibres 0 = some (pushedFibre q) ∧
      lookup (fabricState true [(4, fabricOpOf 1 storeWords false)] (pushedFibre q)).crews (bankOfFibre 0) = some loadCrew ∧
      bankOfSerial (fabricState true [(4, fabricOpOf 1 storeWords false)] (pushedFibre q)) loadCrew.serial = some (bankOfFibre 0) ∧
      lookup (fabricState true [(4, fabricOpOf 1 storeWords false)] (pushedFibre q)).contexts loadCrew.ctx = some loadContext) ∧
    (storeWords.w0.toNat / 2 ^ 60 = 1 ∧ operationOk 1 (storeWords.w0.toNat / 2 ^ 57 % 8) storeWords = true ∧ queueFieldsOk storeWords = true ∧
      acceptedOp (fabricState true [(4, fabricOpOf 1 storeWords false)] (pushedFibre [storeWords.w0, storeWords.w1, storeWords.w2, storeWords.w3]))
        { fibre := 0, serial := 0, ctx := 1 } storeWords = some 4 ∧
      acceptedOp (fabricState true [] (pushedFibre [storeWords.w0, storeWords.w1, storeWords.w2, storeWords.w3])) { fibre := 0, serial := 0, ctx := 1 } storeWords = none) ∧
    (let w : FabricWords := { storeWords with w3 := 3#64 }; (operationOk 1 (w.w0.toNat / 2 ^ 57 % 8) w && queueFieldsOk w) = false) ∧
    (0x0FFF_FFFF_FFFF_FFFF#64).toNat / 2 ^ 60 = 0 ∧ 3 < (0x4000_0000_0000_0000#64).toNat / 2 ^ 60 :=
  ⟨fun _ => ⟨rfl, rfl, rfl, rfl⟩, by decide +kernel, by decide +kernel, by decide, by decide⟩

theorem witness_FabricDeparture_leave :
    (∀ listed, ∀ o, lookup (fabricState listed [(4, o)] loadFibre).fabricOps 4 = some o ∧ lookup (fabricState listed [(4, o)] loadFibre).contexts 1 = some loadContext ∧
      maySend (fabricState listed [(4, o)] loadFibre) = true ∧ NoErrors (fabricState listed [(4, o)] loadFibre) ∧
      portLists (fabricState true [(4, o)] loadFibre) (exitOf (fabricState true [(4, o)] loadFibre)) loadContext.tenant = true ∧
      portLists (fabricState false [(4, o)] loadFibre) (exitOf (fabricState false [(4, o)] loadFibre)) loadContext.tenant = false) ∧
    (∀ kind w, let o := fabricOpOf kind w true; o.ctx = 1 ∧ o.left = false ∧ o.taken = true ∧ o.sent < o.chunks ∧ o.asked = none ∧ o.chunks = o.sent + 1 ∧ 0 < o.members ∧
      o.acks.length < o.members * (o.sent + 1) ∧ o.void = none ∧ o.stopped = false ∧ o.refused = false ∧ chunkHeld (fabricState true [(4, o)] loadFibre) o loadContext = false ∧
      chunkHeld (fabricState false [(4, { o with chunks := 2 })] loadFibre) { o with chunks := 2 } loadContext = false) ∧
    ((fabricOpOf 1 storeWords true).chunkLen = 8 ∧ (fabricOpOf 4 storeWords true).chunkLen = 0) ∧
    (localForm localWords.w2 = true ∧ bankOfSerial (fabricState true [] loadFibre) 0 = some 0 ∧
      localRegion (wfld localWords.w2 0 24 + 512 * (fabricOpOf 2 localWords true).sent) = localRegion (wfld localWords.w2 0 24) ∧
      localSpots (fabricState true [] loadFibre) 0 (wfld localWords.w2 0 24 + 512 * 0) 8 = some fabricLocal ∧ Seen (fabricState true [] loadFibre) fabricLocal (List.replicate 8 0#8)) ∧
    (localForm memoryWords.w2 = false ∧ (fabricOpOf 2 memoryWords true).env (fabricState true [] loadFibre) = some baseEnv ∧
      engineSpots (fabricState true [] loadFibre) baseEnv (memoryWords.w2 + BitVec.ofNat 64 (512 * 0)) 8 .read = .ok fabricVirtual ∧
      Seen (fabricState true [] loadFibre) fabricVirtual (List.replicate 8 0#8)) := by
  refine ⟨fun listed o => ⟨rfl, rfl, fabric_sends _ _ _, fabric_noErrors _ _ _, (fabric_lists _ _).1, (fabric_lists _ _).2⟩,
    fun kind w => ⟨rfl, rfl, rfl, Nat.zero_lt_one, rfl, rfl, Nat.zero_lt_one, Nat.zero_lt_one, rfl, rfl, rfl, rfl, rfl⟩, ⟨by decide +kernel, by decide +kernel⟩,
    ⟨by decide +kernel, by decide +kernel, by decide +kernel, by decide +kernel, seen_of (by decide +kernel) (by decide +kernel)⟩,
    by decide +kernel, by decide +kernel, gotten_ok (by decide +kernel), seen_of (by decide +kernel) (by decide +kernel)⟩

/-- Packets to 0x30000 of the member package: a store of one byte, one with its landing word 64 bytes on, a reduction of one FP32, an atomic of eight bytes. -/
def packetOf (kind : PacketKind) (lw : Bool) (data : List Byte) : Packet :=
  { kind := kind, serial := 4, tenant := 0#12, crossing := 9#24, pattern := List.replicate 5 0#16, source := 1#16, contributor := 0#12, chunk := 0#24, gtag := 0#16
    stamp := 0#32, addr := 0x30000#64, lw := lw, loff := if lw then 4#32 else 0#32, void := false, data := data, operand := 1#64, expected := 0#64 }

def memberEnv : Env := (envOfContext (memberFabric true) 1).getD baseEnv

theorem member_env : envOfContext (memberFabric true) 1 = some memberEnv := by
  have h : (envOfContext (memberFabric true) 1).isSome = true := by decide +kernel
  unfold memberEnv
  cases e : envOfContext (memberFabric true) 1 with
  | some x => rfl
  | none => rw [e] at h; cases h

def memberSpots (v : Word) (n : Nat) : List Spot := gotten (engineSpots (memberFabric true) { memberEnv with tenant := 0#12 } v n .write)

theorem member_target (p : Packet) (h1 : p.crossing = 9#24) (h2 : p.pattern = List.replicate 5 0#16) : packetTarget (memberFabric true) p = some (1, fabricContext) := by
  unfold packetTarget packetMember
  rw [h1, h2, if_neg (by decide)]
  decide +kernel

theorem refused_of {r : Except (Word × Fail) (List Spot)} (h : r.isOk = false) : ∃ a x, r = .error (a, x) := by
  cases r with
  | ok l => cases h
  | error x => exact ⟨_, _, rfl⟩

theorem witness_FabricArrivals_replies :
    (∀ o : FabricOp, lookup (fabricState true [(4, o)] loadFibre).fabricOps 4 = some o ∧ (fabricState true [(4, o)] loadFibre).flushes = [] ∧
      bankOfSerial (fabricState true [(4, o)] loadFibre) 0 = some 0) ∧
    (let o : FabricOp := { fabricOpOf 1 storeWords true with left := true, sent := 1 }; (0, 0) ∉ o.acks ∧ o.left = true ∧ o.members * o.sent ≤ o.acks.length + 1) ∧
    (let o : FabricOp := { fabricOpOf 1 storeWords true with left := true, sent := 2, chunks := 2 }; (0, 0) ∉ o.acks ∧ o.acks.length + 1 < o.members * o.sent) ∧
    (fabricOpOf 1 storeWords true).kind < 4 ∧
    (let o : FabricOp := { fabricOpOf 4 storeWords true with sent := 1, dest := some 6 }
     let f : Fibre := { loadFibre with spend := [{ id := 6, dest := 9#6, value := none, live := true }] };
     o.kind = 4 ∧ 0 < o.sent ∧ o.dest = some 6 ∧ f.spend.find? (fun q => q.id == 6) = some { id := 6, dest := 9#6, value := none, live := true } ∧ f.fence = none) :=
  ⟨fun _ => ⟨rfl, rfl, rfl⟩, ⟨by decide, by decide, by decide⟩, ⟨by decide, by decide⟩, by decide, by decide, by decide, rfl, by decide +kernel, rfl⟩

theorem witness_FabricArrivals_requests :
    (portLists (memberFabric true) 3 0#12 = true ∧ (bits (memberFabric true).ptp 0 32 - 0#32).toNat ≤ 250000 ∧ NoErrors (memberFabric true) ∧
      ∀ kind lw data, packetTarget (memberFabric true) (packetOf kind lw data) = some (1, fabricContext)) ∧
    (engineSpots (memberFabric true) { memberEnv with tenant := 0#12 } 0x30000#64 1 .write = .ok (memberSpots 0x30000#64 1) ∧ Storable (memberFabric true) (memberSpots 0x30000#64 1) none) ∧
    (reduceWidth (0#4).toNat = 4 ∧ engineSpots (memberFabric true) { memberEnv with tenant := 0#12 } 0x30000#64 4 .write = .ok (memberSpots 0x30000#64 4) ∧
      Storable (memberFabric true) (memberSpots 0x30000#64 4) none ∧ Seen (memberFabric true) (memberSpots 0x30000#64 4) (List.replicate 4 0#8) ∧
      ∀ x ∈ memberSpots 0x30000#64 4, inDevice x.phys = true) ∧
    (engineSpots (memberFabric true) { memberEnv with tenant := 0#12 } 0x30000#64 8 .write = .ok (memberSpots 0x30000#64 8) ∧ Storable (memberFabric true) (memberSpots 0x30000#64 8) none ∧
      Seen (memberFabric true) (memberSpots 0x30000#64 8) (List.replicate 8 0#8) ∧ ∀ x ∈ memberSpots 0x30000#64 8, inDevice x.phys = true) ∧
    ((remoteWord (memberFabric true) { memberEnv with tenant := 0#12 } (packetOf .store true [7#8])).2 = .ok (0x30040, none) ∧ 0x30040 % 16 = 0 ∧
      Sound (memberFabric true) (wordSpots 0x30040 none) (List.replicate 16 0#8) ∧
      (let W := readWord (memberFabric true) 0x30040 none; W.ok = true ∧ W.moff = 0#32 ∧ W.gen = 0#16 ∧ W.count.toNat + 1 < 2 ^ 32 ∧ W.armed = false) ∧
      ∀ x ∈ memberSpots 0x30000#64 1, ∀ q, x.place = some q → q / 64 ≠ 0x30040 / 64) ∧
    (∃ a x, engineSpots (memberFabric true) { memberEnv with tenant := 0#12 } 0x2000000000#64 [7#8].length .write = .error (a, x)) ∧
    portLists (memberFabric false) 3 0#12 = false := by
  have ds : ∀ n, (memberSpots 0x30000#64 n).all (fun x => inDevice x.phys && decide (x.place.map (fun q => decide (q / 64 ≠ 0x30040 / 64)) ≠ some false)) = true →
      ∀ x ∈ memberSpots 0x30000#64 n, inDevice x.phys = true ∧ ∀ q, x.place = some q → q / 64 ≠ 0x30040 / 64 := by
    intro n h x hx
    have := List.all_eq_true.mp h x hx
    simp only [Bool.and_eq_true, decide_eq_true_eq] at this
    refine ⟨this.1, fun q hq e => ?_⟩
    rw [hq] at this
    exact this.2 (by simp [e])
  have ww : (match (remoteWord (memberFabric true) { memberEnv with tenant := 0#12 } (packetOf .store true [7#8])).2 with | .ok x => some x | .error _ => none) =
      some (0x30040, none) := by decide +kernel
  refine ⟨⟨by decide +kernel, by decide +kernel, fabric_noErrors true [] loadFibre, fun _ _ _ => member_target _ rfl rfl⟩,
    ⟨gotten_ok (by decide +kernel), storable_of (by decide +kernel) (by decide +kernel)⟩,
    ⟨by decide +kernel, gotten_ok (by decide +kernel), storable_of (by decide +kernel) (by decide +kernel), seen_of (by decide +kernel) (by decide +kernel),
      fun x hx => (ds 4 (by decide +kernel) x hx).1⟩,
    ⟨gotten_ok (by decide +kernel), storable_of (by decide +kernel) (by decide +kernel), seen_of (by decide +kernel) (by decide +kernel),
      fun x hx => (ds 8 (by decide +kernel) x hx).1⟩,
    ⟨?_, by decide, sound_of (by decide +kernel) (by decide +kernel), by decide +kernel, fun x hx => (ds 1 (by decide +kernel) x hx).2⟩, refused_of (by decide +kernel), by decide +kernel⟩
  revert ww
  split
  · next x hx => intro h; rw [hx]; cases h; rfl
  · intro h; cases h

/-! ### Hypotheses that can be met: crossings and routing -/

/-- The waiting package with a held record, and with a context that no record has started. -/
def heldState : State := { waitingState with queue := [{ startQueued with held := true }] }
def freshState : State :=
  { waitingState with
    contexts := [(1, { startContext with started := false, member := some { crossing := 9, axes := 1, extents := [2, 1, 1, 1, 1], coord := [0, 0, 0, 0, 0], pauseCoord := [1, 0, 0, 0, 0], ready := false } })] }
def joinedFrom (axes : Nat) (crossing : Nat) : Joined := { crossing := crossing, axes := axes, extents := [2, 1, 1, 1, 1], coord := [1, 0, 0, 0, 0], identity := 5 }
def pausedState (p : Pause) : State := { withCrew loadCrew loadFibre with contexts := [(1, fabricContext)], pauses := [(9, p)], partitions := sharedPartitions }

theorem noFlips (p : Pause) : ∀ g ∈ dieCores (diesOf (pausedState p) fabricContext), (coreOf (pausedState p) g).flipWanted = false := by
  have h : ∀ g, (coreOf (pausedState p) g).flipWanted = false := by
    intro g
    have e : (pausedState p).cores = base.cores := rfl
    simp only [coreOf, lookupD, e, show base.cores = [(0, { side := 0, serial := 1#16, retired := false, keptOut := false, flipWanted := false, staging := false, errors := [] })] from rfl, lookup]
    split <;> rfl
  exact fun g _ => h g

theorem witness_GangMessages :
    (∃ c own, memberOf waitingState 9 = some (1, c) ∧ c.member = some own ∧ lookup waitingState.coordinators 9 = none ∧
      ((joinedFrom 1 9).axes = own.axes ∧ (joinedFrom 1 9).extents = own.extents) ∧ (joinedFrom 2 9).axes ≠ own.axes) ∧
    memberOf waitingState (joinedFrom 1 8).crossing = none ∧
    (∃ c own, memberOf freshState 9 = some (1, c) ∧ lookup freshState.contexts 1 = some c ∧ c.member = some own ∧ c.started = false ∧ freshState.queue = []) ∧
    (∃ c own, memberOf heldState 9 = some (1, c) ∧ lookup heldState.contexts 1 = some c ∧ c.member = some own ∧ c.refused = false ∧
      heldState.queue.filter (fun q => q.held && q.ctx == 1) = [{ startQueued with held := true }] ∧ placeOn heldState (diesOf heldState c) startRecord = some 0) ∧
    (∀ p : Pause, memberOf (pausedState p) 9 = some (1, fabricContext) ∧ lookup (pausedState p).pauses 9 = some p ∧ (∀ o ∈ (pausedState p).fabricOps, o.2.ctx ≠ 1) ∧ (∀ y ∈ (pausedState p).flights, y.1 ≠ 1) ∧
      lookup (pausedState p).contexts 1 = some fabricContext ∧ (∀ g ∈ dieCores (diesOf (pausedState p) fabricContext), (coreOf (pausedState p) g).flipWanted = false) ∧
      partnerOf (pausedState p) fabricContext.partition = some 1 ∧ (lookup (pausedState p).partitions 1).isSome = true ∧ (partnerOf (pausedState p) 1).isSome = true) ∧
    (let s := { pausedState { stop := 4, begun := true, initiator := true, pausedFrom := [1], drained := false, switched := false, resuming := false } with pauses := [] };
      memberOf s 9 = some (1, fabricContext) ∧ lookup s.pauses 9 = none ∧ lookup s.fibres 0 = some loadFibre ∧ loadFibre.fence = none ∧
      lookup s.crews (bankOfFibre 0) = some loadCrew ∧ loadCrew.ctx = 1 ∧ crewRuns s (bankOfFibre 0) loadCrew = true) := by
  refine ⟨⟨_, _, by rfl, rfl, rfl, ⟨rfl, rfl⟩, by decide⟩, by decide +kernel, ⟨_, _, by rfl, rfl, rfl, rfl, rfl⟩, ⟨_, _, by rfl, rfl, rfl, rfl, by decide +kernel, by decide +kernel⟩,
    fun p => ⟨by rfl, rfl, fun _ h => (List.not_mem_nil h).elim, fun _ h => (List.not_mem_nil h).elim, rfl, noFlips p, by rfl, rfl, by rfl⟩, by rfl, rfl, rfl, rfl, rfl, rfl, by decide +kernel⟩

/-! Routing: a session of two experts here, of capacity 1, with rows of 16 bytes, batches of 10000 ns from TIME 0, and its tape header at 0x42000. -/

def sessionBytes (experts : Nat) : List Byte :=
  [0#8, 0x10#8, 4#8, 0#8, 0#8, 0#8, 0#8, 0#8, BitVec.ofNat 8 experts, 0#8, 0#8, 0#8, 16#8] ++ List.replicate 11 0#8 ++ [0x10#8, 0x27#8, 0#8, 0#8, 0xE8#8, 3#8, 0#8, 0#8, 0#8, 0#8, 5#8] ++
    List.replicate 5 0#8 ++ [0#8, 0x20#8, 4#8] ++ List.replicate 21 0#8
def session (headers : List HeldHeader) (ranked : Option (Nat × Nat)) (appends : List TapeBatch) (entries : List TapeEntry) : Session :=
  { number := 7, engine := 0, ctx := 1, block := sessionBytes 2, experts := [(0, 1, 0, 0), (0, 1, 0, 0)], headers := headers, round1 := [], batch1 := 0, batch2 := 0, ranked := ranked
    appends := appends, entries := entries, resumed := 0 }
/-- The package with sessions: a block of one expert at 0x40000, its table at 0x41000, a tape of 16 entries at 0x44000 whose word has COUNT 0. -/
def routeState (ss : List Session) (f : Fibre) : State :=
  { fabricState true [] f with
    mem := [(0x1000, 0x01#8), (0x1001, 0x20#8), (0x2000, 0x1F#8), (0x2002, 0x04#8), (0x40001, 0x10#8), (0x40002, 4#8), (0x40008, 1#8), (0x4000C, 16#8), (0x40018, 0x10#8), (0x40019, 0x27#8),
      (0x4001C, 0xE8#8), (0x4001D, 3#8), (0x40022, 5#8), (0x40029, 0x20#8), (0x4002A, 4#8), (0x41002, 1#8), (0x42001, 0x40#8), (0x42002, 4#8), (0x42008, 16#8)]
    contexts := [(1, fabricContext)], sessions := ss, ptp := 10000#64 }

def routeEnv : Env := { memberEnv with tenant := 0#12 }

theorem route_env (ss : List Session) (f : Fibre) : envOfContext (routeState ss f) 1 = some routeEnv := by
  have h : envOfContext (routeState ss f) 1 = envOfContext (memberFabric true) 1 := rfl
  rw [h, member_env]
  have e : memberEnv.tenant = 0#12 := by decide +kernel
  unfold routeEnv
  rw [← e]

theorem route_noErrors (ss : List Session) (f : Fibre) : NoErrors (routeState ss f) := fabric_noErrors true [] f

def routeFibre (a b : Word) (session : Option Nat) : Fibre := { loadFibre with q4 := [a, b], session := session }

/-- A token of experts 0 and 1, one without a second choice; an open of session 8, a close of session 7, a record of type 3. -/
theorem witness_Routing_records :
    (∀ a b ss, let f := routeFibre a b (some 7)
      lookup (routeState ss f).fibres 0 = some f ∧ lookup (routeState ss f).crews (bankOfFibre 0) = some loadCrew ∧ lookup (routeState ss f).contexts loadCrew.ctx = some fabricContext ∧
        f.routeAsked = none ∧ f.q4 = a :: b :: [] ∧ f.session = some 7) ∧
    (let s := routeState [session [] none [] []] (routeFibre 0x0000_1000_0000_0005#64 0x50000#64 (some 7));
      sessionOf s 7 = some (session [] none [] []) ∧ envOf s loadCrew = some baseEnv ∧ (0x0000_1000_0000_0005#64 : Word).toNat / 2 ^ 32 % 2 ^ 12 = 0 ∧
        (0x0000_1000_0000_0005#64 : Word).toNat / 2 ^ 44 % 2 ^ 12 = 1 ∧ (0x00FF_F000_0000_0005#64 : Word).toNat / 2 ^ 44 % 2 ^ 12 = 0xFFF ∧
        (0x00FF_F000_0000_0005#64 : Word).toNat / 2 ^ 56 = 0 ∧ 1 < (session [] none [] []).experts.length ∧ (0x50000#64 : Word).toNat % 16 = 0 ∧
        rangesFail s baseEnv [(0x50000#64, (session [] none [] []).size, .read)] = none ∧ walkedRange s baseEnv 0x50000#64 (session [] none [] []).size = s) ∧
    (let s := routeState [] (routeFibre 0x4000_0000_0000_0008#64 0x40000#64 none);
      (0x4000_0000_0000_0008#64 : Word).toNat % 2 ^ 16 = 8 ∧ (0x4000_0000_0000_0008#64 : Word).toNat / 2 ^ 16 = 2 ^ 46 ∧ sessionOf s 8 = none ∧
        (s.sessions.filter (fun x => x.engine == coreOfFibre 0 / 512)).length < 16 ∧ NoErrors s ∧ (∀ x ∈ s.earlyHeaders, ¬ (x.1 = 1 ∧ x.2.session.toNat = 8)) ∧
        ∃ u ss, checkOpen s routeEnv fabricContext 8 (coreOfFibre 0 / 512) 1 0x40000#64 = (u, .open' ss)) ∧
    ((0x8000_0000_0000_0007#64 : Word).toNat % 2 ^ 16 = 7 ∧ (0x8000_0000_0000_0007#64 : Word).toNat / 2 ^ 16 = 2 ^ 47 ∧ (session [] none [] []).ctx = 1 ∧ (session [] none [] []).headers = [] ∧ (session [] none [] []).ranked = none ∧
      (session [] none [] []).appends = [] ∧ (session [] (some (0, 1000)) [] []).ranked ≠ none) ∧
    (0xC000_0000_0000_0000#64 : Word).toNat / 2 ^ 62 = 3 := by
  refine ⟨fun a b ss => ⟨rfl, rfl, rfl, rfl, rfl, rfl⟩, ⟨rfl, by decide +kernel, by decide, by decide, by decide, by decide, by decide, by decide, by decide +kernel, walked_unbroken (by decide +kernel) ..⟩,
    ⟨by decide, by decide, rfl, by decide, route_noErrors _ _, fun _ h => (List.not_mem_nil h).elim, ?_⟩, ⟨by decide, by decide, rfl, rfl, rfl, rfl, by decide⟩, by decide⟩
  have h : (match (checkOpen (routeState [] (routeFibre 0x4000_0000_0000_0008#64 0x40000#64 none)) routeEnv fabricContext 8 (coreOfFibre 0 / 512) 1 0x40000#64).2 with
      | .open' _ => true | _ => false) = true := by decide +kernel
  revert h
  generalize checkOpen (routeState [] (routeFibre 0x4000_0000_0000_0008#64 0x40000#64 none)) routeEnv fabricContext 8 (coreOfFibre 0 / 512) 1 0x40000#64 = x
  intro h
  obtain ⟨u, c⟩ := x
  cases c with
  | open' ss => exact ⟨u, ss, rfl⟩
  | _ => cases h

def headerOf (second : Bool) : RoutingHeader :=
  { serial := 3, tenant := 0#12, crossing := 9#24, stamp := 10000#32, session := 7#16, source := 1#16, token := 5#32, expert := 1#12, batch := 0, second := second }
def heldHeader (round : Nat) : HeldHeader := { header := headerOf (round == 2), order := 0, batch := 0, round := round }

/-- A header of session 7, batches whose close has come, a decision, and a header of another tenant. -/
theorem witness_Routing_rounds :
    (∀ second ss, let s := routeState [session ss none [] []] loadFibre
      portLists s 3 (headerOf second).tenant = true ∧ (bits s.ptp 0 32 - (headerOf second).stamp).toNat ≤ 250000 ∧ headerMember s (headerOf second) = some (1, fabricContext) ∧
        s.sessions.find? (fun x => x.number == (headerOf second).session.toNat && x.ctx == 1) = some (session ss none [] []) ∧ (session ss none [] []).number = 7 ∧
        (s.sessions.map (fun x => x.number)).Nodup) ∧
    portLists (routeState [] loadFibre) 3 1#12 = false ∧
    (let ss := session [heldHeader 1] none [] []; let s := routeState [ss] loadFibre
      sessionOf s 7 = some ss ∧ lookup s.contexts ss.ctx = some fabricContext ∧ pausedContext s ss.ctx = false ∧ ss.ranked = none ∧ smallestBatch ss 1 = some 0 ∧ smallestBatch ss 2 = none ∧
        max (ss.first + 0 * ss.period) ss.resumed ≤ timeOf s) ∧
    (let ss := session [heldHeader 2] (some (0, 1000)) [] []; let s := routeState [ss] loadFibre
      sessionOf s 7 = some ss ∧ ss.ranked = some (0, 1000) ∧ max 1000 ss.resumed ≤ timeOf s) ∧
    (∀ k : Token, lookup ({ routeState [] loadFibre with tokens := [(3, k)] } : State).tokens 3 = some k) := by
  have hp : portLists (routeState [] loadFibre) 3 0#12 = true ∧ portLists (routeState [] loadFibre) 3 1#12 = false := by decide +kernel
  refine ⟨fun second ss => ⟨hp.1, ?_, ?_, rfl, rfl, by simp [routeState]⟩, hp.2, ⟨rfl, rfl, by rfl, rfl, ?_, ?_, by decide +kernel⟩, ⟨rfl, rfl, by decide +kernel⟩, fun _ => rfl⟩
  · exact (by decide : (bits (10000#64 : Word) 0 32 - 10000#32).toNat ≤ 250000)
  · rfl
  · simp [smallestBatch, session, heldHeader]
  · simp [smallestBatch, session, heldHeader]

def tapeSs : Session := session [] none [{ batch := 0, accepted := [{ header := headerOf false, slot := 0 }] }] []
def tapeHead : List Spot := gotten (engineSpots (routeState [tapeSs] loadFibre) routeEnv 0x42000#64 64 .write)
def tapeEntry : List Spot := gotten (engineSpots (routeState [tapeSs] loadFibre) routeEnv 0x44000#64 64 .write)
def tapeHeader : List Byte := [0#8, 0x40#8, 4#8, 0#8, 0#8, 0#8, 0#8, 0#8, 16#8] ++ List.replicate 55 0#8

theorem test_tape_places : tapeHead.map (·.place) = (List.range 64).map (fun i => some (0x42000 + i)) ∧ tapeEntry.map (·.place) = (List.range 64).map (fun i => some (0x44000 + i)) := by
  decide +kernel

/-- A ring of 16 entries whose first is free, and its tape word. -/
theorem witness_Routing_tape :
    tapeSs.tape = 0x42000#64 ∧ (∀ y ∈ [({ header := headerOf false, slot := 0 } : Accepted)], y.header.expert.toNat = 1) ∧
    envOfContext (routeState [tapeSs] loadFibre) 1 = some routeEnv ∧ NoErrors (routeState [tapeSs] loadFibre) ∧
    engineSpots (routeState [tapeSs] loadFibre) routeEnv 0x42000#64 64 .write = .ok tapeHead ∧ Seen (routeState [tapeSs] loadFibre) tapeHead tapeHeader ∧
    Storable (routeState [tapeSs] loadFibre) tapeHead none ∧ leNat (tapeHeader.take 8) = 0x44000 ∧ leNat ((tapeHeader.drop 16).take 4) = 0 ∧
    (0 + 2 ^ 32 - leNat ((tapeHeader.drop 24).take 4)) % 2 ^ 32 ≠ leNat ((tapeHeader.drop 8).take 4) ∧
    engineSpots (routeState [tapeSs] loadFibre) routeEnv (BitVec.ofNat 64 (0x44000 + 0 % leNat ((tapeHeader.drop 8).take 4) * 64)) 64 .write = .ok tapeEntry ∧
    Sound (routeState [tapeSs] loadFibre) tapeEntry (List.replicate 64 0#8) ∧ Storable (routeState [tapeSs] loadFibre) tapeEntry none ∧
    (∀ y ∈ tapeEntry, ∀ z ∈ tapeHead, ∀ p q, y.place = some p → z.place = some q → p / 64 ≠ q / 64) ∧
    (wordAt (tapeHead.drop 0x20) = some (0x42020, none) ∧ 0x42020 % 16 = 0 ∧ ((tapeHead.drop 0x20).take 16).map (fun z => z.place) = (List.range 16).map (fun i => some (0x42020 + i)) ∧
      (let W := readWord (routeState [tapeSs] loadFibre) 0x42020 none; W.ok = true ∧ W.moff = 0#32 ∧ W.count.toNat + 64 < 2 ^ 32 ∧ W.armed = false) ∧
      ownerKilled (routeState [tapeSs] loadFibre) 0x42020 = false) := by
  refine ⟨by decide +kernel, by decide, route_env _ _, route_noErrors _ _, gotten_ok (by decide +kernel), seen_of (by decide +kernel) (by decide +kernel),
    storable_of (by decide +kernel) (by decide +kernel), by decide +kernel, by decide +kernel, by decide +kernel, gotten_ok (by decide +kernel),
    sound_of (by decide +kernel) (by decide +kernel), storable_of (by decide +kernel) (by decide +kernel), fun y hy z hz p q hp hq => ?_,
    by decide +kernel, by decide, by decide +kernel, by decide +kernel, by decide +kernel⟩
  have hy' : y.place ∈ tapeEntry.map (·.place) := List.mem_map_of_mem hy
  have hz' : z.place ∈ tapeHead.map (·.place) := List.mem_map_of_mem hz
  rw [test_tape_places.2, hp] at hy'
  rw [test_tape_places.1, hq] at hz'
  simp only [List.mem_map, List.mem_range, Option.some.injEq] at hy' hz'
  omega

/-- A piece of one byte for the entry whose counter stands at 0x44020. -/
def pieceSs : Session := session [] none [] [{ expert := 1, batch := 0, counter := some 0x44020#64 }]
def piece : RoutingPayload :=
  { serial := 3, source := 1#16, tenant := 0#12, crossing := 9#24, stamp := 10000#32, session := 7#16, expert := 1#12, batch := 0, slot := 0, offset := 15, void := false, data := [9#8], len := 1 }
def counterSpots : List Spot := gotten (engineSpots (routeState [pieceSs] loadFibre) routeEnv 0x44020#64 16 .write)
def pieceSpots : List Spot := gotten (engineSpots (routeState [pieceSs] loadFibre) routeEnv (pieceSs.buffer 1 0 + BitVec.ofNat 64 (0 * pieceSs.size + 15)) 1 .write)

theorem witness_Routing_payload :
    portLists (routeState [pieceSs] loadFibre) 3 piece.tenant = true ∧ (bits (routeState [pieceSs] loadFibre).ptp 0 32 - piece.stamp).toNat ≤ 250000 ∧
    payloadMember (routeState [pieceSs] loadFibre) piece = some (1, fabricContext) ∧
    (routeState [pieceSs] loadFibre).sessions.find? (fun x => x.number == piece.session.toNat && x.ctx == 1) = some pieceSs ∧
    envOfContext (routeState [pieceSs] loadFibre) 1 = some routeEnv ∧
    pieceSs.entries.find? (fun x => x.expert == piece.expert.toNat && x.batch == piece.batch) = some { expert := 1, batch := 0, counter := some 0x44020#64 } ∧
    NoErrors (routeState [pieceSs] loadFibre) ∧ engineSpots (routeState [pieceSs] loadFibre) routeEnv 0x44020#64 16 .write = .ok counterSpots ∧
    wordAt counterSpots = some (0x44020, none) ∧
    engineSpots (routeState [pieceSs] loadFibre) routeEnv (pieceSs.buffer 1 0 + BitVec.ofNat 64 (0 * pieceSs.size + 15)) 1 .write = .ok pieceSpots ∧
    Storable (routeState [pieceSs] loadFibre) pieceSpots none ∧ Sound (routeState [pieceSs] loadFibre) (wordSpots 0x44020 none) (List.replicate 16 0#8) ∧ 0x44020 % 16 = 0 ∧
    (let W := readWord (routeState [pieceSs] loadFibre) 0x44020 none; W.ok = true ∧ W.moff = 0#32 ∧ W.gen = 0#16 ∧ W.count.toNat + 1 < 2 ^ 32 ∧ W.armed = false) ∧
    ownerKilled (routeState [pieceSs] loadFibre) 0x44020 = false ∧ pieceSpots.map (·.place) = [some 0x5000F] :=
  ⟨by decide +kernel, by decide +kernel, by decide +kernel, rfl, route_env _ _, by decide +kernel, route_noErrors _ _, gotten_ok (by decide +kernel), by decide +kernel, gotten_ok (by decide +kernel),
    storable_of (by decide +kernel) (by decide +kernel), sound_of (by decide +kernel) (by decide +kernel), by decide, by decide +kernel, by decide +kernel, by decide +kernel⟩

/-! ### Words written out from the format table of R44, the maps of R46, R47 and R57, and the fields of R52 and R53 -/

/-- A word of each RR, RI, BF and CF major from integer arithmetic to CLS. -/
theorem test_decode_scalar :
    (∀ p ∈ ([(0x0028C386#32, .divn false 5#6 6#6 7#6),
      (0x03F82104#32, .mulhn true 63#6 1#6 2#6),
      (0x0428C386#32, .sar false 5#6 6#6 7#6),
      (0x0428C00A#32, .popc false 5#6 6#6),
      (0x0828C384#32, .sltn false 5#6 6#6 7#6),
      (0x0C28C392#32, .sel false 5#6 6#6 7#6 9#6),
      (0x1028C384#32, .addsh false 5#6 6#6 7#6 4#3),
      (0x402BFFFF#32, .xori false 5#6 0xFFFF#16),
      (0x402E003F#32, .sari false 5#6 63#6),
      (0x442F1234#32, .movk false 5#6 3#2 0x1234#16),
      (0x482D8000#32, .sleni false 5#6 0x8000#16),
      (0x60080000#32, .br false 0x80000#20),
      (0x64000001#32, .call false 1#20),
      (0x69F00002#32, .bz false 31#5 2#20),
      (0x6E100003#32, .bnz true 1#5 3#20),
      (0x71FFFFFE#32, .loop false 31#5 0xFFFFE#20),
      (0x74000004#32, .bemz false 4#20),
      (0x74100004#32, .bemnz false 4#20),
      (0x78012000#32, .jr false 9#6),
      (0x78012001#32, .callr false 9#6),
      (0x7C0ABCDE#32, .cls false 0xABCDE#20),
      (0x7C2ABCDE#32, .clswait false 0xABCDE#20)] :
      List (BitVec 32 × Instr)), decodeScalar p.1 = .ok p.2) := by
  decide +kernel

/-- A word of each major from the memory loads to CBAR. -/
theorem test_decode_memory :
    (∀ p ∈ ([(0x8028DA00#32, .ldwn false 5#6 6#6 0x200#10),
      (0x8428C5FF#32, .sth false 5#6 6#6 0x1FF#10),
      (0x8828CC01#32, .sldd false 5#6 6#6 1#10),
      (0x8C28C001#32, .sstb false 5#6 6#6 1#10),
      (0x9028C392#32, .acasd false 5#6 6#6 7#6),
      (0x9428C385#32, .saminnw false 5#6 6#6 7#6),
      (0x9828C801#32, .strelw false 5#6 6#6 1#10),
      (0x9CB81E00#32, .fence false 1#1 0#1 7#3),
      (0x9C28D602#32, .cwb false 5#6 6#6 11#4),
      (0x9C28C03D#32, .nred false 5#6 6#6 0#4 7#6),
      (0xA0392000#32, .qpush false 7#6 9#6),
      (0xA448A000#32, .qpop false 9#6 5#6),
      (0xA848007F#32, .mfsr false 9#6 0x7F#16),
      (0xAC48C001#32, .mtsr false 9#6 0xC001#16),
      (0xB048E000#32, .mfp false 9#6 7#6),
      (0xB0392001#32, .mtp false 7#6 9#6),
      (0xB0480004#32, .mff false 9#6),
      (0xC078DE00#32, .tdset false 15#4 6#6),
      (0xC478C63A#32, .tldl false 15#4 6#6 3#4 7#6),
      (0xC9A9C649#32, .mmas false 1#1 2#2 5#3 14#4 3#4 9#4),
      (0xCCA8C63B#32, .acccvt false 2#2 5#3 6#6 3#4 7#6),
      (0xD028C600#32, .publish false 5#6 6#6 3#4),
      (0xD428DE03#32, .lwait false 5#6 6#6),
      (0xD838DE49#32, .cbara false 7#3 6#6 9#6)] :
      List (BitVec 32 × Instr)), decodeScalar p.1 = .ok p.2) := by
  decide +kernel

/-- A word of each major from the fabric to the privileged instructions. -/
theorem test_decode_system :
    (∀ p ∈ ([(0xE1E00601#32, .rcpy false 60#6 3#4),
      (0xE5E01E3A#32, .racas false 60#6 15#4 7#6),
      (0xE9E00001#32, .rredb false 60#6 0#4),
      (0xEC28DE39#32, .gpget false 5#6 6#6 7#6),
      (0xF028C63C#32, .launchi false 5#6 6#6 3#4 7#6),
      (0xF0001E03#32, .exit false),
      (0xF4181E19#32, .role false 3#6 3#6),
      (0xF4381FFB#32, .brk false 7#6 63#6),
      (0xF478DE3E#32, .dbara false 15#4 6#6 7#6),
      (0xF828DE00#32, .qprio false 5#6 6#6),
      (0xF828C602#32, .tlbinv false 5#6 6#6 3#4)] :
      List (BitVec 32 × Instr)), decodeScalar p.1 = .ok p.2) := by
  decide +kernel

/-- A lane word of each class: a sweep, a nibble and a byte, a stochastic mode, a compare, a predicate, a store, atomics, a shuffle and a scan. -/
theorem test_decode_lane :
    (∀ p ∈ ([(0x013FFFF08FF05FC000A1C000#96, .imad, { sw := true, pn := true, pi := 7#3, count := 4095#12, sat := true, rm := 0#3, ty := 2#3, d := .reg 255#8 false 0#4, a := .sweep 63#6 64#7, b := .reg 2#8 true 0#4, c := .imm 0x1000#13 }),
      (0x04C000000053802400000000#96, .imov, { sw := false, pn := false, pi := 0#3, count := 0#12, sat := false, rm := 0#3, ty := 0#3, d := .reg 5#8 false 7#4, a := .reg 1#8 false 4#4, b := .unused, c := .unused }),
      (0x20C200184050002049000180#96, .ffma, { sw := false, pn := false, pi := 1#3, count := 0#12, sat := true, rm := 4#3, ty := 1#3, d := .reg 5#8 false 0#4, a := .reg 1#8 false 0#4, b := .scalar 9#6, c := .reg 3#8 false 0#4 }),
      (0x4140000040038020DFFE0000#96, .icmpge, { sw := false, pn := false, pi := 0#3, count := 0#12, sat := false, rm := 0#3, ty := 1#3, d := .pred 7#3, a := .reg 1#8 false 0#4, b := .imm 0xFFF#13, c := .unused }),
      (0x44C000000003800100040000#96, .pandn, { sw := false, pn := false, pi := 0#3, count := 0#12, sat := false, rm := 0#3, ty := 0#3, d := .pred 7#3, a := .pred 1#3, b := .pred 2#3, c := .unused }),
      (0x48000000004000207F00000C#96, .laneSel, { sw := false, pn := false, pi := 0#3, count := 0#12, sat := false, rm := 0#3, ty := 0#3, d := .reg 4#8 false 0#4, a := .reg 1#8 false 0#4, b := .scalar 63#6, c := .pred 3#3 }),
      (0x520000000040002000800180#96, .dot4, { sw := false, pn := false, pi := 0#3, count := 0#12, sat := false, rm := 0#3, ty := 0#3, d := .reg 4#8 false 0#4, a := .reg 1#8 false 0#4, b := .reg 2#8 false 0#4, c := .reg 3#8 false 0#4 }),
      (0x70400000C0002280C0080080#96, .stg, { sw := false, pn := false, pi := 0#3, count := 0#12, sat := false, rm := 0#3, ty := 3#3, d := .unused, a := .scalar 5#6, b := .imm 0x4#13, c := .reg 1#8 false 0#4 }),
      (0x75C000000040228001800080#96, .gacas, { sw := false, pn := false, pi := 0#3, count := 0#12, sat := false, rm := 0#3, ty := 0#3, d := .reg 4#8 false 0#4, a := .scalar 5#6, b := .reg 6#8 false 0#4, c := .reg 1#8 false 0#4 }),
      (0x7A0000000040228001800080#96, .lafadd, { sw := false, pn := false, pi := 0#3, count := 0#12, sat := false, rm := 0#3, ty := 0#3, d := .reg 4#8 false 0#4, a := .scalar 5#6, b := .reg 6#8 false 0#4, c := .reg 1#8 false 0#4 }),
      (0x80C0000000400020C03E0000#96, .shflx, { sw := false, pn := false, pi := 0#3, count := 0#12, sat := false, rm := 0#3, ty := 0#3, d := .reg 4#8 false 0#4, a := .reg 1#8 false 0#4, b := .imm 0x1F#13, c := .unused }),
      (0x848000004040002000000000#96, .scanmax, { sw := false, pn := false, pi := 0#3, count := 0#12, sat := false, rm := 0#3, ty := 1#3, d := .reg 4#8 false 0#4, a := .reg 1#8 false 0#4, b := .unused, c := .unused })] :
      List (BitVec 96 × LaneOp × LaneWord)), decodeLane p.1 = .ok p.2) := by
  decide +kernel

/-- Words that are not instructions, with the subcause of R60: an unassigned F7, a reserved field, FLAG 12, a scope 0, a queue 8, an operand kind, a selector, a mode, a sweep. -/
theorem test_decode_refused :
    (∀ p ∈ ([(0x0008418D#32, .unassigned), (0x1008418C#32, .reserved), (0xD028D800#32, .range), (0x9C001E00#32, .range), (0xA0412000#32, .range), (0xA848000C#32, .unassigned), (0xF828DE04#32, .unassigned)] : List (BitVec 32 × Subcause)), decodeScalar p.1 = .error p.2) ∧
    (∀ p ∈ ([(0x050000000010002000400000#96, .unassigned), (0x000000003000802000400000#96, .kind), (0x000000000010002100400000#96, .range), (0x0000000A0010002000400000#96, .modifier), (0x000000200010002000400000#96, .sweep), (0x000000000010002000400080#96, .reserved)] : List (BitVec 96 × Subcause)), decodeLane p.1 = .error p.2) := by
  decide +kernel

/-! ### Hypotheses that can be met: turns, words, invariants -/

/-- The loaded package with another word at the load address, and a fibre of it. -/
def placed (lane : Bool) (n w : Nat) (f : Fibre) : State := { loadProgram State.reset lane n w with fibres := [(0, f)] }

theorem placed_runs (lane : Bool) (n w : Nat) (f : Fibre) : Runs { placed lane n w f with cur := 0 } f loadCrew := by
  have h : bankOfFibre ({ placed lane n w f with cur := 0 } : State).cur = 0 := by
    have : ({ placed lane n w f with cur := 0 } : State).cur = 0 := rfl
    rw [this]; rfl
  exact ⟨rfl, by rw [h]; rfl, rfl⟩

/-- The environment of the crew loaded with a word. -/
def placedEnv (lane : Bool) (n w : Nat) (f : Fibre) : Env := ((envOf (placed lane n w f) loadCrew).getD baseEnv)

/-- The spots of its next fetch. -/
def placedSpots (lane : Bool) (n w : Nat) (f : Fibre) : List Spot :=
  gotten (spots (placed lane n w f) (placedEnv lane n w f) (if lane then f.lpc else f.spc) n .fetch false)

/-- The machine in that turn. -/
def turned (lane : Bool) (n w : Nat) (f : Fibre) : State := { placed lane n w f with agenda := [], cur := 0, latch := 0#96 }

/-- What a turn asks of the word of `n` bytes at the load address. -/
def Fetches (lane : Bool) (n w : Nat) (f : Fibre) : Prop :=
  envOf (placed lane n w f) loadCrew = some (placedEnv lane n w f) ∧
  spots (placed lane n w f) (placedEnv lane n w f) (if lane then f.lpc else f.spc) n .fetch false = .ok (placedSpots lane n w f) ∧
  Seen (turned lane n w f) (placedSpots lane n w f) (leBytes n w) ∧ Walks (turned lane n w f) (placedEnv lane n w f) (if lane then f.lpc else f.spc) n ∧
  (∀ v p old, loadCrew.fetched v p = some old → old = leBytes n w) ∧ isCurrent (placed lane n w f) 0 = true ∧
  BitVec.ofNat (8 * n) (leNat (leBytes n w)) = BitVec.ofNat (8 * n) w

def fetchB (lane : Bool) (n w : Nat) (f : Fibre) : Bool :=
  (envOf (placed lane n w f) loadCrew).isSome && (spots (placed lane n w f) (placedEnv lane n w f) (if lane then f.lpc else f.spc) n .fetch false).isOk &&
    unbroken (turned lane n w f) && seenSpots (turned lane n w f) (placedSpots lane n w f) (leBytes n w) &&
    isCurrent (placed lane n w f) 0 && BitVec.ofNat (8 * n) (leNat (leBytes n w)) == BitVec.ofNat (8 * n) w

theorem fetches_of {lane : Bool} {n w : Nat} {f : Fibre} (h : fetchB lane n w f = true) : Fetches lane n w f := by
  simp only [fetchB, Bool.and_eq_true, beq_iff_eq] at h
  obtain ⟨⟨⟨⟨⟨h1, h2⟩, h3⟩, h4⟩, h5⟩, h6⟩ := h
  refine ⟨?_, gotten_ok h2, seen_of h3 h4, walks_unbroken h3 _ _ _, fun v p old ho => ?_, h5, h6⟩
  · obtain ⟨e, he⟩ := Option.isSome_iff_exists.1 h1
    simp [placedEnv, he]
  · cases ho

/-- A fibre that waits in PHASE s5, s6. -/
def waiting : Fibre := { loadFibre with sWait := some (.phase 0#64 0#64), waitWord := 0xF028DE02#32 }

/-- The zero word is ADD s0, s0, s0; all ones is no instruction; the twelve bytes of an IADD of v3; a lane word of all ones; a waiting fence word; an event. -/
theorem witness_StepRunsTheDecodedInstruction :
    (Runs { placed false 4 0 loadFibre with cur := 0 } loadFibre loadCrew ∧ Fetches false 4 0 loadFibre ∧
      (placed false 4 0 loadFibre).agenda = [.scalar 0] ∧ scalarReady (placed false 4 0 loadFibre) 0 loadFibre = true ∧ loadFibre.passWait.sWait = none ∧
      decodeScalar 0#32 = .ok (.add false 0#6 0#6 0#6)) ∧
    (Fetches false 4 0xFFFFFFFF loadFibre ∧ scalarReady (placed false 4 0xFFFFFFFF loadFibre) 0 loadFibre = true ∧
      decodeScalar 0xFFFFFFFF#32 = .error .unassigned) ∧
    ((placed false 4 0 waiting).agenda = [.scalar 0] ∧ Runs { placed false 4 0 waiting with cur := 0 } waiting loadCrew ∧ isCurrent (placed false 4 0 waiting) 0 = true ∧
      scalarReady (placed false 4 0 waiting) 0 waiting = true ∧ waiting.passWait.sWait.isSome = true ∧ (envOf (placed false 4 0 waiting) loadCrew).isSome = true ∧
      (∃ i, decodeScalar waiting.waitWord = .ok i)) ∧
    ((placed true 12 0x80000000600000 loadLaneFibre).agenda = [.lane 0] ∧ Runs { placed true 12 0x80000000600000 loadLaneFibre with cur := 0 } loadLaneFibre loadCrew ∧
      Fetches true 12 0x80000000600000 loadLaneFibre ∧ laneReady (placed true 12 0x80000000600000 loadLaneFibre) 0 loadLaneFibre = true ∧
      loadLaneFibre.running = some laneRunning ∧
      ∃ v, decodeLane 0x80000000600000#96 = .ok (.iadd, v) ∧ laneFields (.iadd v) = some (.iadd, v)) ∧
    (Fetches true 12 (2 ^ 96 - 1) loadLaneFibre ∧ laneReady (placed true 12 (2 ^ 96 - 1) loadLaneFibre) 0 loadLaneFibre = true ∧
      decodeLane (BitVec.ofNat 96 (2 ^ 96 - 1)) = .error .unassigned) ∧
    ({ base with agenda := [.event (.bootReady)] } : State).agenda = .event (.bootReady) :: [] ∧ Instr.isEvent .bootReady = true :=
  ⟨⟨placed_runs _ _ _ _, fetches_of (by decide +kernel), by decide +kernel, by decide +kernel, rfl, by decide +kernel⟩,
    ⟨fetches_of (by decide +kernel), by decide +kernel, by decide +kernel⟩,
    ⟨by decide +kernel, placed_runs _ _ _ _, by decide +kernel, by decide +kernel, rfl, by decide +kernel, ⟨_, rfl⟩⟩,
    ⟨by decide +kernel, placed_runs _ _ _ _, fetches_of (by decide +kernel), by decide +kernel, rfl, ⟨_, rfl, rfl⟩⟩,
    ⟨fetches_of (by decide +kernel), by decide +kernel, by decide +kernel⟩, rfl, by decide +kernel⟩

/-- What the host asks of reset: the word placed is the next instruction, and it goes on. -/
theorem test_withFetchWord : goesOn (step (State.reset.withFetchWord 32 0)) = true ∧ goesOn (step (State.reset.withFetchWord 96 0x80000000600000)) = true :=
  ⟨by decide +kernel, by decide +kernel⟩

theorem witness_ScalarWordsRoundTrip : ∃ w, wellFormed (.addsh true 63#6 1#6 2#6 4#3) = true ∧ encodeScalar (.addsh true 63#6 1#6 2#6 4#3) = some w ∧
    decodeScalar w = .ok (.addsh true 63#6 1#6 2#6 4#3) :=
  ⟨_, by decide +kernel, rfl, by decide +kernel⟩

theorem witness_LaneWordsRoundTrip :
    (∃ w, wellFormed (.iadd (laneWord (reg 255) (reg 0) (reg 1) .unused)) = true ∧ encodeLane (.iadd (laneWord (reg 255) (reg 0) (reg 1) .unused)) = some w ∧
      decodeLane w = .ok (.iadd, laneWord (reg 255) (reg 0) (reg 1) .unused)) ∧
    decodeHeader 0xFFC1F5003000000000000000#96 = some { len := 1, fa := 15#4, fb := 5#4, wait := 3#12 } ∧
    (flagOk 11#4 = true ∧ flagOk 15#4 = true ∧ flagOk 12#4 = false ∧
      decodeHeader (encodeHeader { len := 63, fa := 11#4, fb := 15#4, wait := 0xFFF#12 }) = some { len := 63, fa := 11#4, fb := 15#4, wait := 0xFFF#12 }) :=
  ⟨⟨_, by decide +kernel, rfl, by decide +kernel⟩, by decide +kernel, by decide +kernel⟩

theorem witness_StepKeepsCanonical : (Memory.wf base.mem = true ∧ (base.banks.all (fun b => Memory.wf b.2.store)) = true) ∧ ∃ t, step base = .next t := by
  refine ⟨⟨by decide +kernel, by decide +kernel⟩, ?_⟩
  have h : goesOn (step base) = true := by decide +kernel
  cases e : step base with
  | next t => exact ⟨t, rfl⟩
  | fault x => rw [e] at h; cases h
  | refused x => rw [e] at h; cases h

/-- FP32 and three times 2^-1: 1.5, which every mode keeps. -/
theorem witness_RoundingPicksTheNamedNeighbour :
    ∃ fm, fmtOf 0 = some fm ∧ (3 : Nat) ≠ 0 ∧ (-149 : Int) ≤ -1 ∧ (-149 : Int) ≤ fm.emin - fm.mbits ∧
      ∀ rm ∈ [Mode.rne, .rz, .ru, .rd], rm ≠ .rs ∧ (fm.round false { m := 3, e := -1, sticky := false } rm false 0).2 &&& Fl.overflow = 0#6 :=
  ⟨_, rfl, by decide, by decide, by decide, by decide +kernel⟩

/-- A fibre with nothing outstanding: every SEL, ADDSH, MOVI and MOVK of it. -/
theorem witness_SelectAndScaledAdd : Runs base loadFibre loadCrew ∧ Ready loadFibre [5#6, 0#6, 63#6] := ⟨base_runs, fun r _ => test_ready r⟩

theorem witness_ImmediateMoves : Runs base loadFibre loadCrew ∧ Ready loadFibre [63#6] := ⟨base_runs, fun r _ => test_ready r⟩

/-! Floating point: FP32 1 (0x3F800000), zero, infinity and a quiet NaN. -/

theorem test_one : Fmt.fp32.Finite 0x3F800000 ∧ Fmt.fp32.real 0x3F800000 = 1 := by
  have h : Fmt.fp32.decode 0x3F800000 = .fin false 0x800000 (-23) := by decide +kernel
  refine ⟨⟨by decide, by rw [h]; rfl, fun n => by rw [h]; exact fun e => by cases e⟩, ?_⟩
  unfold Fmt.real
  rw [h]
  norm_num [Val.real]

theorem witness_FloatingPointIsTheExactResultRounded :
    Fmt.fp32 ∈ [Fmt.fp32, Fmt.fp16, Fmt.bf16] ∧ (Fmt.fp32.Finite 0x3F800000 ∧ 0 < Fmt.fp32.real 0x3F800000 ∧ Fmt.fp32.real 0x3F800000 = (1 : Int) ∧
      Fmt.fp32.real 0x3F800000 = (2 : ℝ) ^ (0 : Int)) ∧
    ((Fmt.fp32.decode 0x7FC00000).isNaN = true ∧ Fmt.fp32.decode 0x7F800000 = .inf false ∧ Fmt.fp32.decode 0 = .zero false ∧ Fmt.fp32.decode 0x80000000 = .zero true ∧
      Fmt.fp32.decode 0xFF800000 = .inf true) := by
  obtain ⟨h1, h2⟩ := test_one
  exact ⟨by simp, ⟨h1, by rw [h2]; norm_num, by rw [h2]; norm_num, by rw [h2]; norm_num⟩, by decide +kernel⟩

theorem witness_FunctionsLieWithinTheirBounds :
    Fmt.fp32 ∈ [Fmt.fp32, Fmt.fp16] ∧ (Fmt.fp32.Finite 0x3F800000 ∧ Fmt.fp32.real 0x3F800000 ≠ 0 ∧ 0 < Fmt.fp32.real 0x3F800000) ∧
    (Fmt.fp32.fexp2 0x3F800000).2 &&& Fl.overflow = 0#6 := by
  obtain ⟨h1, h2⟩ := test_one
  exact ⟨by simp, ⟨h1, by rw [h2]; norm_num, by rw [h2]; norm_num⟩, by decide +kernel⟩

/-! ### WellFormed: for each check of R60 a term that it refuses, beside one that it takes -/

/-- ADDSH of 5; LOOP of no times; scopes 0, 7 and 1 with R; flags 12; queue 8; a register that no table lists; predicate 8; role 4; TRET 2. -/
theorem test_wellFormed_control :
    (wellFormed (.addsh false 1#6 2#6 3#6 4#3) = true ∧ wellFormed (.addsh false 1#6 2#6 3#6 5#3) = false) ∧
    (wellFormed (.loop false 1#5 2#20) = true ∧ wellFormed (.loop false 0#5 2#20) = false) ∧
    (wellFormed (.fence false 1#1 0#1 7#3) = true ∧ wellFormed (.fence false 1#1 0#1 1#3) = false ∧ wellFormed (.fence false 0#1 0#1 0#3) = false ∧
      wellFormed (.fencen false 0#1 1#1 1#3) = true ∧ wellFormed (.fencen false 0#1 0#1 0#3) = false) ∧
    (wellFormed (.cwb false 1#6 2#6 15#4) = true ∧ wellFormed (.cwb false 1#6 2#6 12#4) = false ∧ wellFormed (.cinv false 1#6 2#6 13#4) = false ∧
      wellFormed (.cpf false 1#6 2#6 14#4) = false ∧ wellFormed (.nred false 1#6 2#6 12#4 3#6) = false) ∧
    (wellFormed (.qpush false 7#6 1#6) = true ∧ wellFormed (.qpush false 8#6 1#6) = false ∧ wellFormed (.qpop false 1#6 8#6) = false) ∧
    (wellFormed (.mfsr false 1#6 0x7F#16) = true ∧ wellFormed (.mfsr false 1#6 0x0C#16) = false ∧ wellFormed (.mtsr false 1#6 0xFFFF#16) = false) ∧
    (wellFormed (.mfp false 1#6 7#6) = true ∧ wellFormed (.mfp false 1#6 8#6) = false ∧ wellFormed (.mtp false 8#6 1#6) = false) ∧
    (wellFormed (.role false 3#6 3#6) = true ∧ wellFormed (.role false 4#6 0#6) = false ∧ wellFormed (.role false 0#6 4#6) = false) ∧
    (wellFormed (.brk false 7#6 63#6) = true ∧ wellFormed (.brk false 8#6 0#6) = false) ∧
    (wellFormed (.tret false 0#6 1#6) = true ∧ wellFormed (.tret false 0#6 2#6) = false) := by
  decide +kernel

/-- Flag 12 of the engines and of the fabric; MMAS of an odd TY; axis 61 of the fabric's operations. -/
theorem test_wellFormed_engines :
    (wellFormed (.mmas false 1#1 2#2 3#3 14#4 11#4 9#4) = true ∧ wellFormed (.mmas false 1#1 2#2 3#3 15#4 11#4 9#4) = false ∧
      wellFormed (.mmas false 1#1 2#2 3#3 14#4 12#4 9#4) = false) ∧
    (wellFormed (.publish false 1#6 2#6 12#4) = false ∧ wellFormed (.swapf false 1#6 2#6 12#4) = false ∧ wellFormed (.tlbinv false 1#6 2#6 13#4) = false ∧
      wellFormed (.tlbinva false 1#6 14#4) = false ∧ wellFormed (.spawn false 1#6 2#6 12#4 3#6) = false ∧ wellFormed (.launchi false 1#6 2#6 12#4 3#6) = false) ∧
    (wellFormed (.rst false 60#6 15#4) = true ∧ wellFormed (.rst false 61#6 15#4) = false ∧ wellFormed (.rst false 60#6 12#4) = false ∧
      wellFormed (.rcpy false 61#6 0#4) = false ∧ wellFormed (.rflush false 0#6 12#4) = false ∧ wellFormed (.racas false 61#6 0#4 1#6) = false ∧
      wellFormed (.rredn false 60#6 14#4) = false) := by
  decide +kernel

/-- Lane words: D read for the last time, a kind that does not stand there, a selector of a 64-bit type, a modifier, a sweep count without a sweep. -/
theorem test_wellFormed_lane :
    wellFormed (.iadd (laneWord (reg 1) (reg 2 true) (reg 3) .unused)) = true ∧
    wellFormed (.iadd (laneWord (reg 1 true) (reg 2) (reg 3) .unused)) = false ∧
    wellFormed (.iadd (laneWord (.imm 1#13) (reg 2) (reg 3) .unused)) = false ∧
    wellFormed (.iadd (laneWord (reg 1) (reg 2) (reg 3) (reg 4))) = false ∧
    wellFormed (.iadd (laneWord (reg 1) (.reg 2#8 false 1#4) (reg 3) .unused)) = false ∧
    wellFormed (.iadd { laneWord (reg 1) (reg 2) (reg 3) .unused with rm := 5#3 }) = false ∧
    wellFormed (.iadd { laneWord (reg 1) (reg 2) (reg 3) .unused with count := 1#12 }) = false ∧
    wellFormed (.pand (laneWord (.pred 1#3) (reg 2) (.pred 3#3) .unused)) = false ∧
    wellFormed (.stg (laneWord (reg 1) (.scalar 2#6) (.imm 0#13) (reg 4))) = false := by
  decide +kernel

/-! ### What single instructions do, against the tables and examples of the specification -/

/-- A register of the current fibre after an instruction. -/
def sAfter (i : Instr) (f : Fibre) (r : BitVec 6) : Option Word :=
  match exec i (withFibre f) with
  | .next t => (lookup t.fibres 0).map (fun g => g.readS r)
  | _ => none

/-- A pair of operands in s5 and s6. -/
def pair (a b : Int) : Fibre := fibreData (BitVec.ofInt 64 a) (BitVec.ofInt 64 b)

/-- R120: 7 by -2, -7 by 2, the most negative number by -1, and 5 by 0. -/
theorem test_division :
    (∀ c ∈ [((7 : Int), (-2 : Int), (-3 : Int), (1 : Int), (0 : Int), (7 : Int)), (-7, 2, -3, -1, 0x7FFFFFFFFFFFFFFC, 1), (-9223372036854775808, -1, -9223372036854775808, 0, 0, -9223372036854775808),
        (5, 0, -1, 5, -1, 5)],
      sAfter (.div false 4#6 5#6 6#6) (pair c.1 c.2.1) 4#6 = some (BitVec.ofInt 64 c.2.2.1) ∧
      sAfter (.rem false 4#6 5#6 6#6) (pair c.1 c.2.1) 4#6 = some (BitVec.ofInt 64 c.2.2.2.1) ∧
      sAfter (.divn false 4#6 5#6 6#6) (pair c.1 c.2.1) 4#6 = some (BitVec.ofInt 64 c.2.2.2.2.1) ∧
      sAfter (.remn false 4#6 5#6 6#6) (pair c.1 c.2.1) 4#6 = some (BitVec.ofInt 64 c.2.2.2.2.2)) := by
  decide +kernel

/-- The high halves of a product: -1 by -1 signed and unsigned. -/
theorem test_mulh : sAfter (.mulh false 4#6 5#6 6#6) (pair (-1) (-1)) 4#6 = some 0#64 ∧ sAfter (.mulhn false 4#6 5#6 6#6) (pair (-1) (-1)) 4#6 = some (BitVec.ofInt 64 (-2)) := by
  decide +kernel

/-- Shifts by 65 shift by 1 (R121), ANDN complements its second source, and ADDSH shifts its second source (R124). -/
theorem test_logic :
    sAfter (.sar false 4#6 5#6 6#6) (pair (-8) 65) 4#6 = some (BitVec.ofInt 64 (-4)) ∧ sAfter (.shr false 4#6 5#6 6#6) (pair (-8) 65) 4#6 = some 0x7FFFFFFFFFFFFFFC#64 ∧
    sAfter (.andn false 4#6 5#6 6#6) (pair 0xF0 0x30) 4#6 = some 0xC0#64 ∧ sAfter (.clz false 4#6 5#6) (pair 0 0) 4#6 = some 64#64 ∧
    sAfter (.addsh false 4#6 5#6 6#6 3#3) (pair 2 5) 4#6 = some 42#64 := by
  decide +kernel

/-- Register 0 reads zero and takes nothing (R19). -/
theorem test_s0 : sAfter (.addi false 0#6 7#16) loadFibre 0#6 = some 0#64 := by
  decide +kernel

/-- The unsigned compare of 5 with -1 read as N64 (R127); LOOP of a count 0 becomes all ones and branches (R129). -/
theorem test_control :
    sAfter (.sltni false 5#6 0xFFFF#16) (pair 5 0) 5#6 = some 1#64 ∧
    (match exec (.loop false 5#5 3#20) (withFibre (pair 0 0)) with
      | .next t => (lookup t.fibres 0).map (fun g => (g.readS 5#6, g.spc))
      | _ => none) = some (0xFFFFFFFFFFFFFFFF#64, 0x1000C#64) := by
  decide +kernel

/-- The registers of the worked example of 06_lane_isa.md: scores in v1, experts in v2, and v5 as TOPK leaves it. -/
def topkSlot : Slot :=
  let v (l : List Nat) : Vector Lane 32 := Vector.ofFn (fun i => BitVec.ofNat 32 (l.getD i.val 0))
  let v1 := v [0x3F000000, 0x40000000, 0xBF800000, 0x40000000, 0x7FC00000, 0x40600000, 0x3E800000, 0x3F800000]
  let v2 := v [10, 11, 12, 13, 14, 15, 16, 17]
  let z := v []
  { loadSlot with
    lines := loadSlot.lines.map (fun e =>
      (e.1, if e.1 = 0 then { e.2 with data := Vector.mk #[z, v1, v2, z] rfl } else if e.1 = 1 then { e.2 with data := Vector.mk #[z, v [5, 1, 3], z, z] rfl } else e.2)) }

/-- The machine of the worked example, with `em`. -/
def topkState (em : Mask) : State := { withFibre { laneFibre 0#64 with em } with slots := [(0, topkSlot)] }

/-- The first eight lanes of a register after a lane word. -/
def vAfter (i : Instr) (s : State) (r : Nat) : Option (List Nat) :=
  match exec i s with
  | .next t => some ((List.range 9).map (fun l => (laneAt ((slotOf t 0).value r) l).toNat))
  | _ => none

/-- The worked example: `fcmpor p2, v1, v1` over lanes 0 to 7, then EMAND of 0xEF. -/
theorem test_fcmpor :
    (match exec (.fcmpor (laneWord (.pred 2#3) (reg 1) (reg 1) .unused)) (topkState 0xFF#32) with
      | .next t => (lookup t.fibres 0).map (fun f => f.preds[2])
      | _ => none) = some 0xEF#32 := by
  decide +kernel

theorem test_topk :
    vAfter (.topk { laneWord (reg 4) (reg 1) (.imm 3#13) .unused with ty := 2#3 }) (topkState 0xEF#32) 4 = some [0x40600000, 0x40000000, 0x40000000, 0, 0, 0, 0, 0, 0] ∧
    vAfter (.topk { laneWord (reg 4) (reg 1) (.imm 3#13) .unused with ty := 2#3 }) (topkState 0xEF#32) 5 = some [5, 1, 3, 0, 0, 0, 0, 0, 0] := by
  decide +kernel

theorem test_shfl : vAfter (.shfl (laneWord (reg 6) (reg 2) (reg 5) .unused)) (topkState 0xEF#32) 6 = some [15, 11, 13, 10, 0, 10, 10, 10, 0] := by
  decide +kernel

theorem test_redmax : vAfter (.redmax { laneWord (reg 7) (reg 1) .unused .unused with ty := 2#3 }) (topkState 0xEF#32) 7 =
    some [0x40600000, 0x40600000, 0x40600000, 0x40600000, 0, 0x40600000, 0x40600000, 0x40600000, 0] := by
  decide +kernel

/-- The words of the worked example as it prints them, and FENCE, FENCEN, STRELW and LDACQW as 13_memory_model.md prints them. -/
theorem test_decode_examples :
    decodeHeader 0xFFC5FF000000000000000000#96 = some { len := 5, fa := 15#4, fb := 15#4, wait := 0#12 } ∧
    decodeLane 0x43C000000001002000400000#96 = .ok (.fcmpor, laneWord (.pred 2#3) (reg 1) (reg 1) .unused) ∧
    decodeLane 0x460000000000000200000000#96 = .ok (.emand, laneWord .unused (.pred 2#3) .unused .unused) ∧
    decodeLane 0x8800000080400020C0060000#96 = .ok (.topk, { laneWord (reg 4) (reg 1) (.imm 3#13) .unused with ty := 2#3 }) ∧
    decodeLane 0x800000000060004001400000#96 = .ok (.shfl, laneWord (reg 6) (reg 2) (reg 5) .unused) ∧
    decodeLane 0x868000008070002000000000#96 = .ok (.redmax, { laneWord (reg 7) (reg 1) .unused .unused with ty := 2#3 }) ∧
    (∀ p ∈ ([(0x9C701E00#32, .fence false 0#1 1#1 6#3), (0x9C181E01#32, .fencen false 0#1 0#1 3#3), (0x9828C800#32, .strelw false 5#6 6#6 0#10),
      (0x9838C000#32, .ldacqw false 7#6 6#6 0#10)] : List (BitVec 32 × Instr)), decodeScalar p.1 = .ok p.2) := by
  decide +kernel

/-- 06_lane_isa.md: IMOV of a byte to a nibble writes the byte's low four bits there and leaves the other bits (0x3F000000 and 0x40000000, byte 3 to nibble 3). -/
theorem test_imov :
    vAfter (.imov (laneWord (.reg 5#8 false 11#4) (.reg 1#8 false 7#4) .unused .unused)) (topkState 0x3#32) 5 = some [0xF005, 1, 3, 0, 0, 0, 0, 0, 0] := by
  decide +kernel

/-- R170: four lanes doing GAADD of 1 to one word that holds 10 receive 10, 11, 12 and 13, and the word ends at 14. -/
theorem test_gaadd :
    (match exec (.gaadd (laneWord (reg 8) (.scalar 5#6) (.imm 0#13) (.imm 1#13)))
        { withFibre { laneFibre 0x20000#64 with em := 0xF#32 } with mem := putByte base.mem 0x20000 10#8 } with
      | .next t => (lookup t.fibres 0).map (fun f => (byteAt t 0x20000, f.lpend.map (fun p => (List.range 5).map (fun l => (laneAt p.value l).toNat))))
      | _ => none) = some (some 14#8, [[10, 11, 12, 13, 0]]) := by
  decide +kernel

/-- Every F7 of SEL and ADDSH and every F3 of OP 0x11 (R123, R124, R126). -/
theorem test_decode_functions :
    (∀ k : BitVec 7, decodeScalar (0x03#6 ++ 1#1 ++ 9#6 ++ 63#6 ++ 0#6 ++ k) =
        (if k.getLsbD 0 = true then .error .reserved else .ok (.sel true 9#6 63#6 0#6 (k.extractLsb' 1 6))) ∧
      decodeScalar (0x04#6 ++ 0#1 ++ 1#6 ++ 2#6 ++ 3#6 ++ k) =
        (if 8 ≤ k.toNat then .error .reserved else if 4 < k.toNat then .error .range else .ok (.addsh false 1#6 2#6 3#6 (k.setWidth 3)))) ∧
    ∀ k : BitVec 3, decodeScalar (0x11#6 ++ 0#1 ++ 5#6 ++ k ++ 0xABCD#16) =
      (if k = 0#3 then .ok (.movi false 5#6 0xABCD#16) else if 4 ≤ k.toNat then .ok (.movk false 5#6 (k.setWidth 2) 0xABCD#16) else .error .unassigned) := by
  decide +kernel

end Sys2Proof.Tests
end

section
/-! What the scalar arithmetic, select, scaled-add and move instructions give, and the words they stand for
(R119, R120, R123, R124, R126). -/

namespace Sys2Proof.Machine

/-! ### Results as arithmetic -/

theorem add_eq_ofNat (x y : Word) : x + y = BitVec.ofNat 64 (x.toNat + y.toNat) := by
  simp [BitVec.ofNat_add]

theorem sub_eq_ofInt (x y : Word) : x - y = BitVec.ofInt 64 ((x.toNat : Int) - y.toNat) := by
  simp [Int.sub_eq_add_neg, BitVec.ofInt_add, BitVec.ofInt_neg, BitVec.sub_eq_add_neg]

theorem mul_eq_ofNat (x y : Word) : x * y = BitVec.ofNat 64 (x.toNat * y.toNat) := by
  simp [BitVec.ofNat_mul]

/-- Bits [127:64] of an integer's 128-bit form are the low half of its floor by 2^64, whatever its sign. -/
theorem setWidth_ofInt_ushiftRight_64 (z : Int) : ((BitVec.ofInt 128 z) >>> 64).setWidth 64 = BitVec.ofInt 64 (z / 2 ^ 64) := by
  apply BitVec.eq_of_toNat_eq
  simp only [BitVec.toNat_setWidth, BitVec.toNat_ushiftRight, BitVec.toNat_ofInt, Nat.shiftRight_eq_div_pow]
  omega

theorem mulhS_eq_ofInt (x y : Word) : mulhS x y = BitVec.ofInt 64 (x.toInt * y.toInt / 2 ^ 64) := by
  have hprod : x.signExtend 128 * y.signExtend 128 = BitVec.ofInt 128 (x.toInt * y.toInt) := by
    simp only [BitVec.signExtend, BitVec.ofInt_mul]
  rw [mulhS, hprod, setWidth_ofInt_ushiftRight_64]

theorem mulhU_eq_ofNat (x y : Word) : mulhU x y = BitVec.ofNat 64 (x.toNat * y.toNat / 2 ^ 64) := by
  have hprod : x.setWidth 128 * y.setWidth 128 = BitVec.ofInt 128 ((x.toNat * y.toNat : Nat) : Int) := by
    rw [BitVec.ofInt_natCast, BitVec.ofNat_mul, BitVec.ofNat_toNat, BitVec.ofNat_toNat]
  rw [mulhU, hprod, setWidth_ofInt_ushiftRight_64, ← BitVec.ofInt_natCast]
  norm_cast

theorem remS_eq_sub_mul_tdiv (x y : Word) :
    remS x y = if y = 0#64 then x else BitVec.ofInt 64 (x.toInt - y.toInt * x.toInt.tdiv y.toInt) := by
  rw [remS, Int.tmod_def]

theorem remU_eq_sub_mul_div (x y : Word) :
    remU x y = if y = 0#64 then x else BitVec.ofNat 64 (x.toNat - y.toNat * (x.toNat / y.toNat)) := by
  rw [remU, Nat.mod_def]

theorem ite_slt_eq_min (x y : Word) : (if x.slt y then x else y) = BitVec.ofInt 64 (min x.toInt y.toInt) := by
  simp only [BitVec.slt_iff_toInt_lt, min_def_lt, apply_ite (BitVec.ofInt 64), BitVec.ofInt_toInt]

theorem ite_slt_eq_max (x y : Word) : (if x.slt y then y else x) = BitVec.ofInt 64 (max x.toInt y.toInt) := by
  simp only [BitVec.slt_iff_toInt_lt, max_def_lt, apply_ite (BitVec.ofInt 64), BitVec.ofInt_toInt]

theorem ite_ult_eq_min (x y : Word) : (if x.ult y then x else y) = BitVec.ofNat 64 (min x.toNat y.toNat) := by
  simp only [BitVec.ult_iff_toNat_lt, min_def_lt, apply_ite (BitVec.ofNat 64), BitVec.ofNat_toNat, BitVec.setWidth_eq]

theorem ite_ult_eq_max (x y : Word) : (if x.ult y then y else x) = BitVec.ofNat 64 (max x.toNat y.toNat) := by
  simp only [BitVec.ult_iff_toNat_lt, max_def_lt, apply_ite (BitVec.ofNat 64), BitVec.ofNat_toNat, BitVec.setWidth_eq]

theorem add_shiftLeft_eq_ofNat (x y : Word) (n : Nat) : x + y <<< n = BitVec.ofNat 64 (x.toNat + y.toNat * 2 ^ n) := by
  apply BitVec.eq_of_toNat_eq
  simp [Nat.shiftLeft_eq]

/-- The mask that MOVK clears is a run of 16 ones. -/
theorem getLsbD_mask16 (j : Nat) : (0xFFFF#64).getLsbD j = decide (j < 16) := by
  have hmask : 0xFFFF#64 = (BitVec.allOnes 16).setWidth 64 := rfl
  rw [hmask, BitVec.getLsbD_setWidth, BitVec.getLsbD_allOnes, Bool.and_eq_right_iff_imp]
  simp only [decide_eq_true_eq]
  omega

/-- MOVK bit by bit: the immediate within its 16 bits, the old value outside (R126). -/
theorem getLsbD_insert16 (v : Word) (k : Nat) (imm : BitVec 16) (i : Nat) (hi : i < 64) :
    (insert16 v k imm).getLsbD i = if 16 * k ≤ i ∧ i < 16 * k + 16 then imm.getLsbD (i - 16 * k) else v.getLsbD i := by
  simp only [insert16, BitVec.getLsbD_or, BitVec.getLsbD_and, BitVec.getLsbD_not, BitVec.getLsbD_shiftLeft,
    BitVec.getLsbD_setWidth, getLsbD_mask16]
  by_cases hlo : i < 16 * k
  · simp [hi, hlo]
  · by_cases hhi : i < 16 * k + 16
    · have hin : i - 16 * k < 16 := by omega
      have hlt : i - 16 * k < 64 := by omega
      simp [hi, hlo, hhi, hin, hlt, Nat.le_of_not_lt hlo]
    · have hout : ¬ i - 16 * k < 16 := by omega
      simp [hi, hlo, hhi, hout, BitVec.getLsbD_of_ge imm _ (Nat.le_of_not_lt hout)]

/-! ### Integer arithmetic -/

/-- An instruction of two sources that writes `r` of them to D, with a toll of 1, and changes nothing else. -/
def Computes2 (i : Three) (r : Word → Word → Word) : Prop :=
  ∀ (s : State) f w sw d a b, Runs s f w → Ready f [a, b] →
    ∃ (t : State) (f' : Fibre), exec (i sw d a b) s = .next t ∧ Becomes s t f' 1 0 ∧ Wrote f f' d (r (f.readS a) (f.readS b))

/-- An arm of `exec` that is `compute2` computes its function, in whatever form the function is stated. -/
theorem computes2_of_exec {i : Three} {g r : Word → Word → Word} (hexec : ∀ sw d a b s, exec (i sw d a b) s = compute2 sw d a b g s)
    (hresult : ∀ x y, g x y = r x y) : Computes2 i r := by
  intro s f w sw d a b hruns hready
  obtain rfl : g = r := funext₂ hresult
  rw [hexec]
  exact compute_next hruns sw hready d _

/-- Settles O1: every row is `compute2` of a function that equals the row's arithmetic. -/
theorem scalarArithmetic : Obligations.ScalarArithmetic := by
  unfold Obligations.ScalarArithmetic
  simp only [List.forall_mem_cons]
  exact ⟨computes2_of_exec (fun _ _ _ _ _ => rfl) add_eq_ofNat,
    computes2_of_exec (fun _ _ _ _ _ => rfl) sub_eq_ofInt,
    computes2_of_exec (fun _ _ _ _ _ => rfl) mul_eq_ofNat,
    computes2_of_exec (fun _ _ _ _ _ => rfl) mulhS_eq_ofInt,
    computes2_of_exec (fun _ _ _ _ _ => rfl) mulhU_eq_ofNat,
    computes2_of_exec (g := divS) (fun _ _ _ _ _ => rfl) (fun _ _ => rfl),
    computes2_of_exec (g := divU) (fun _ _ _ _ _ => rfl) (fun _ _ => rfl),
    computes2_of_exec (fun _ _ _ _ _ => rfl) remS_eq_sub_mul_tdiv,
    computes2_of_exec (fun _ _ _ _ _ => rfl) remU_eq_sub_mul_div,
    computes2_of_exec (fun _ _ _ _ _ => rfl) ite_slt_eq_min,
    computes2_of_exec (fun _ _ _ _ _ => rfl) ite_slt_eq_max,
    computes2_of_exec (fun _ _ _ _ _ => rfl) ite_ult_eq_min,
    computes2_of_exec (fun _ _ _ _ _ => rfl) ite_ult_eq_max,
    List.forall_mem_nil _⟩

/-! ### SEL and ADDSH -/

theorem addsh_computes2 (sh : BitVec 3) :
    Computes2 (fun sw d a b => .addsh sw d a b sh) (fun x y => BitVec.ofNat 64 (x.toNat + y.toNat * 2 ^ sh.toNat)) :=
  computes2_of_exec (fun _ _ _ _ _ => rfl) (fun x y => add_shiftLeft_eq_ofNat x y sh.toNat)

/-- SEL, with its condition register among the sources (R123). -/
theorem exec_sel {s : State} {f : Fibre} {w : Crew} (sw : Bool) (d a b c : BitVec 6) (hruns : Runs s f w) (hready : Ready f [a, b, c]) :
    ∃ (t : State) (f' : Fibre), exec (.sel sw d a b c) s = .next t ∧ Becomes s t f' 1 0 ∧
      Wrote f f' d (if f.readS c ≠ 0#64 then f.readS a else f.readS b) := by
  have hreads : Ready f [c, a, b] := fun r hr => hready r (by simp only [List.mem_cons] at hr ⊢; tauto)
  rw [ite_not]
  exact compute_next hruns sw hreads d (fun f => if f.readS c = 0#64 then f.readS b else f.readS a)

theorem Fibre.readS_zero (f : Fibre) : f.readS 0#6 = 0#64 := rfl

end Sys2Proof.Machine

/-! ### Fields of a scalar word -/

namespace Sys2Proof

@[simp] theorem checked_nil {α : Type} (i : α) : checked [] i = .ok i := rfl

@[simp] theorem checked_cons {α : Type} (c : Bool) (sub : Subcause) (l : List (Bool × Subcause)) (i : α) :
    checked ((c, sub) :: l) i = if c = true then checked l i else .error sub := by
  cases c <;> rfl

/-- A field within the lower part of a concatenation. -/
theorem bits_append_low {v w : Nat} (hi : BitVec v) (lo : BitVec w) {start len : Nat} (h : start + len ≤ w) :
    bits (hi ++ lo) start len = bits lo start len :=
  BitVec.extractLsb'_append_eq_of_add_le h

/-- A field within the upper part of a concatenation. -/
theorem bits_append_high {v w : Nat} (hi : BitVec v) (lo : BitVec w) {start len : Nat} (h : w ≤ start) :
    bits (hi ++ lo) start len = bits hi (start - w) len :=
  BitVec.extractLsb'_append_eq_of_le h

@[simp] theorem bits_whole {w : Nat} (x : BitVec w) : bits x 0 w = x := BitVec.extractLsb'_eq_self

section RR
variable (op : BitVec 6) (x : BitVec 1) (d a b : BitVec 6) (k : BitVec 7)

/-- A word of format RR by its fields (R44). -/
def rrWord : BitVec 32 := op ++ x ++ d ++ a ++ b ++ k

theorem bits_rrWord_f7 {start len : Nat} (h : start + len ≤ 7) : bits (rrWord op x d a b k) start len = bits k start len :=
  bits_append_low _ k h

theorem bits_rrWord_above_f7 {start len : Nat} (h : 7 ≤ start) :
    bits (rrWord op x d a b k) start len = bits (op ++ x ++ d ++ a ++ b) (start - 7) len :=
  bits_append_high _ k h

@[simp] theorem bits_rrWord_b : bits (rrWord op x d a b k) 7 6 = b := by
  rw [bits_rrWord_above_f7, bits_append_low, bits_whole] <;> decide

@[simp] theorem bits_rrWord_a : bits (rrWord op x d a b k) 13 6 = a := by
  rw [bits_rrWord_above_f7, bits_append_high, bits_append_low, bits_whole] <;> decide

@[simp] theorem bits_rrWord_d : bits (rrWord op x d a b k) 19 6 = d := by
  rw [bits_rrWord_above_f7, bits_append_high, bits_append_high, bits_append_low, bits_whole] <;> decide

@[simp] theorem fieldS_rrWord : fieldS (rrWord op x d a b k) = (x == 1#1) := by
  rw [fieldS, bits_rrWord_above_f7, bits_append_high, bits_append_high, bits_append_high, bits_append_low, bits_whole] <;> decide

theorem fieldOp_rrWord : fieldOp (rrWord op x d a b k) = op.toNat := by
  rw [fieldOp, bits_rrWord_above_f7, bits_append_high, bits_append_high, bits_append_high, bits_append_high, bits_whole] <;> decide

end RR

section RI
variable (op : BitVec 6) (x : BitVec 1) (d : BitVec 6) (k : BitVec 3) (m : BitVec 16)

/-- A word of format RI by its fields (R44). -/
def riWord : BitVec 32 := op ++ x ++ d ++ k ++ m

@[simp] theorem bits_riWord_imm : bits (riWord op x d k m) 0 16 = m :=
  (bits_append_low _ m (le_refl 16)).trans (bits_whole m)

theorem bits_riWord_above_imm {start len : Nat} (h : 16 ≤ start) :
    bits (riWord op x d k m) start len = bits (op ++ x ++ d ++ k) (start - 16) len :=
  bits_append_high _ m h

theorem bits_riWord_f3 {start len : Nat} (h : start + len ≤ 3) : bits (riWord op x d k m) (16 + start) len = bits k start len := by
  rw [bits_riWord_above_imm _ _ _ _ _ (Nat.le_add_right 16 start), Nat.add_sub_cancel_left, bits_append_low _ k h]

@[simp] theorem bits_riWord_d : bits (riWord op x d k m) 19 6 = d := by
  rw [bits_riWord_above_imm, bits_append_high, bits_append_low, bits_whole] <;> decide

@[simp] theorem fieldS_riWord : fieldS (riWord op x d k m) = (x == 1#1) := by
  rw [fieldS, bits_riWord_above_imm, bits_append_high, bits_append_high, bits_append_low, bits_whole] <;> decide

theorem fieldOp_riWord : fieldOp (riWord op x d k m) = op.toNat := by
  rw [fieldOp, bits_riWord_above_imm, bits_append_high, bits_append_high, bits_append_high, bits_whole] <;> decide

end RI

/-! ### The words of OP 0x03, 0x04 and 0x11 -/

theorem toNat_bits {n : Nat} (w : BitVec n) (lo len : Nat) : (bits w lo len).toNat = w.toNat / 2 ^ lo % 2 ^ len := by
  rw [bits, BitVec.extractLsb'_toNat, Nat.shiftRight_eq_div_pow]

theorem bits_zero_eq_setWidth {n : Nat} (w : BitVec n) (len : Nat) : bits w 0 len = w.setWidth len := by
  apply BitVec.eq_of_toNat_eq
  simp [toNat_bits]

theorem bits_zero_one_eq_zero_iff {n : Nat} (w : BitVec n) : bits w 0 1 = 0#1 ↔ w.getLsbD 0 = false := by
  rw [bits_zero_eq_setWidth, BitVec.setWidth_one]
  cases w.getLsbD 0 <;> decide

/-- F7[6:3] is 0 where F7 is below 8 (R124). -/
theorem bits_three_four_eq_zero_iff (k : BitVec 7) : bits k 3 4 = 0#4 ↔ k.toNat < 8 := by
  rw [← BitVec.toNat_inj, toNat_bits, BitVec.toNat_ofNat]
  omega

/-- F3[2] is 1 where F3 is 4 or above (R126). -/
theorem bits_two_one_eq_one_iff (k : BitVec 3) : bits k 2 1 = 1#1 ↔ 4 ≤ k.toNat := by
  rw [← BitVec.toNat_inj, toNat_bits, BitVec.toNat_ofNat]
  omega

/-- R123: OP 0x03. -/
theorem decodeScalar_sel (x : BitVec 1) (d a b : BitVec 6) (k : BitVec 7) :
    decodeScalar (rrWord 0x03#6 x d a b k) =
      if k.getLsbD 0 = true then .error .reserved else .ok (.sel (x == 1#1) d a b (k.extractLsb' 1 6)) := by
  have hop : fieldOp (rrWord 0x03#6 x d a b k) = 0x03 := fieldOp_rrWord ..
  have hreserved : bits (rrWord 0x03#6 x d a b k) 0 1 = bits k 0 1 := bits_rrWord_f7 _ _ _ _ _ k (by decide)
  have hcond : bits (rrWord 0x03#6 x d a b k) 1 6 = k.extractLsb' 1 6 := bits_rrWord_f7 _ _ _ _ _ k (by decide)
  unfold decodeScalar
  rw [hop]
  simp only [checked_cons, checked_nil, hreserved, hcond, beq_iff_eq, bits_zero_one_eq_zero_iff, fieldS_rrWord, bits_rrWord_d, bits_rrWord_a,
    bits_rrWord_b]
  cases k.getLsbD 0 <;> rfl

/-- R124: OP 0x04. -/
theorem decodeScalar_addsh (x : BitVec 1) (d a b : BitVec 6) (k : BitVec 7) :
    decodeScalar (rrWord 0x04#6 x d a b k) =
      if 8 ≤ k.toNat then .error .reserved else if 4 < k.toNat then .error .range else .ok (.addsh (x == 1#1) d a b (k.setWidth 3)) := by
  have hop : fieldOp (rrWord 0x04#6 x d a b k) = 0x04 := fieldOp_rrWord ..
  have hreserved : bits (rrWord 0x04#6 x d a b k) 3 4 = bits k 3 4 := bits_rrWord_f7 _ _ _ _ _ k (by decide)
  have hshift : bits (rrWord 0x04#6 x d a b k) 0 3 = k.setWidth 3 :=
    (bits_rrWord_f7 _ _ _ _ _ k (by decide)).trans (bits_zero_eq_setWidth k 3)
  unfold decodeScalar
  rw [hop]
  by_cases h8 : 8 ≤ k.toNat
  · simp [hreserved, bits_three_four_eq_zero_iff, h8]
  · have hlt : k.toNat < 8 := Nat.lt_of_not_le h8
    rcases Nat.lt_or_ge 4 k.toNat with h4 | h4
    · simp [hreserved, hshift, bits_three_four_eq_zero_iff, h8, hlt, Nat.mod_eq_of_lt hlt, h4]
    · simp [hreserved, hshift, bits_three_four_eq_zero_iff, h8, hlt, Nat.mod_eq_of_lt hlt, h4, h4.not_gt]

/-- R126: OP 0x11. -/
theorem decodeScalar_move (x : BitVec 1) (d : BitVec 6) (k : BitVec 3) (m : BitVec 16) :
    decodeScalar (riWord 0x11#6 x d k m) =
      if k = 0#3 then .ok (.movi (x == 1#1) d m) else if 4 ≤ k.toNat then .ok (.movk (x == 1#1) d (k.setWidth 2) m) else .error .unassigned := by
  have hop : fieldOp (riWord 0x11#6 x d k m) = 0x11 := fieldOp_riWord ..
  have hf3 : bits (riWord 0x11#6 x d k m) 16 3 = k := (bits_riWord_f3 _ _ _ k _ (le_refl 3)).trans (bits_whole k)
  have htop : bits (riWord 0x11#6 x d k m) 18 1 = bits k 2 1 := bits_riWord_f3 (start := 2) _ _ _ k _ (le_refl 3)
  have hlow : bits (riWord 0x11#6 x d k m) 16 2 = k.setWidth 2 :=
    (bits_riWord_f3 (start := 0) _ _ _ k _ (by decide)).trans (bits_zero_eq_setWidth k 2)
  unfold decodeScalar
  rw [hop]
  simp [decodeMove, hf3, htop, hlow, bits_two_one_eq_one_iff]

end Sys2Proof

/-! ### Select, scaled add and moves -/

namespace Sys2Proof.Machine

/-- Settles O57: SEL and ADDSH are register results, a condition of s0 reads 0, and the words decode by their fields. -/
theorem selectAndScaledAdd : Obligations.SelectAndScaledAdd := by
  unfold Obligations.SelectAndScaledAdd
  refine ⟨fun s f w sw d a b c hruns hready => ?_, fun s f w sw d a b sh hruns hready => ?_, fun x d a b k => ?_⟩
  · obtain ⟨t, f', hexec, hbecomes, hwrote⟩ := exec_sel sw d a b c hruns hready
    refine ⟨t, f', hexec, hbecomes, hwrote, ?_⟩
    rintro rfl
    simpa [Fibre.readS_zero] using hwrote
  · exact addsh_computes2 sh s f w sw d a b hruns hready
  · exact ⟨decodeScalar_sel x d a b k, decodeScalar_addsh x d a b k⟩

/-- Settles O58: MOVI and MOVK are register results, MOVK read bit by bit, and the words decode by F3. -/
theorem immediateMoves : Obligations.ImmediateMoves := by
  unfold Obligations.ImmediateMoves
  refine ⟨fun s f w sw d m hruns => ?_, fun s f w sw d k m hruns hready => ?_, decodeScalar_move⟩
  · exact compute_next hruns sw (List.forall_mem_nil _) d (fun _ => sext64 m)
  · obtain ⟨t, f', hexec, hbecomes, hwrote⟩ := compute_next hruns sw hready d (fun f => insert16 (f.readS d) k.toNat m)
    exact ⟨t, f', _, hexec, hbecomes, hwrote, getLsbD_insert16 (f.readS d) k.toNat m⟩

end Sys2Proof.Machine
end
